-- ==== Sys2Proof/Word.lean ====
section
/-!
DEFINITION. Sys2Proof/Word.lean: the word types of the block (R7, R8): bytes, 8-byte register words, 48-bit
device addresses and the 64-byte command.
-/
namespace Sys2Proof

/-- One byte of memory, of a command or of a record. -/
abbrev Byte := BitVec 8

/-- One register word: BAR0 serves aligned 8-byte accesses (R519). -/
abbrev W64 := BitVec 64

/-- A device address (R525). -/
abbrev Addr := BitVec 48

/-- One command of a ring (R345): 64 bytes, byte 0 in the low bits (R7). -/
abbrev CmdWord := BitVec 512

/-- The 256-byte constant buffer of a large partition's launch (R350). -/
abbrev ConstBuf := BitVec 2048

/-- A completion or message record of 32 bytes (R357, R503). -/
abbrev Rec := BitVec 256

/-- A byte together with its poison mark: the grain of a path only widens it (R463). -/
abbrev PByte := BitVec 8 × Bool

end Sys2Proof
end

