-- ==== Sys2Proof/Syntax.lean ====
section
/-!
DEFINITION. Sys2Proof/Syntax.lean: the commands that the module takes, one for each row of the opcode table, and the
operands by which the surroundings say what they bring.
-/
namespace Sys2Proof
/-- An upset of stored cells, as the surroundings cause it: flipped stored bits, a lasting cell fault, and the stack's
severity report. -/
structure Upset where
  addr : Nat
  flips : List Nat
  hard : Bool
  report : Nat
  deriving DecidableEq, Repr

/-- The value of a leaf or node that another module of a cross-module reduction sends for one element (R159, R160): its
position lo in MODULE_ORDER, the token and column, the marks that travel with it, and the groups of that token in whose
records the modules below it found a tag mismatch (R172). -/
structure RemoteSum where
  pos : Nat
  token : Nat
  col : Nat
  value : Int
  range : Bool
  poison : Bool
  skew : Bool
  groups : List Nat
  deriving DecidableEq, Repr


/-- What a peer's announce brings to a sync point (R297 to R301). The shares of a sync point stand in the order in which
they arrived, the peer last waited for at the end (R306). `doubled` is the peer's doubled share at that sync point, as
R298 counts it: with the sync point's updates applied. `mismatch`: the setup exchange of some pair of the run's modules
does not match, so that the run ends on every module (R301). -/
structure Share where
  peer : Nat
  updates : List (Nat × Bool)
  doubled : Int
  quiet : Bool
  violated : Nat
  setup : List Nat
  promote : Bool
  endWith : Nat
  pause : Bool
  resume : Bool
  frost : Bool
  mismatch : Bool
  deriving DecidableEq, Repr

/-- What held or disturbed an operation, as the surroundings cause it: ns held for memory and links and lost to a rate
shortfall (R45), work beats beyond the closed forms where the spec gives none, and the increments of the performance
counters that no rule computes (R495), by counter key; `outage` is the ns for which a link that trained again held the
operation (R512). -/
structure Stalls where
  mem : Nat
  link : Nat
  shortfall : Nat
  extra : Nat
  outage : Nat
  perf : List (Nat × Nat)
  deriving DecidableEq, Repr

/-- A wait that a context of a counter's home core makes (R396): for n units of data, or of space. -/
structure CtrWait where
  ctx : Nat
  space : Bool
  n : Nat
  deriving DecidableEq, Repr

/-- A read of front-end state that finds poison (R506, R507): the structure code, the object's number, and whether the
other copy is poisoned too. -/
structure FeLoss where
  code : Nat
  id : Nat
  both : Bool
  deriving DecidableEq, Repr

/-- What the surroundings bring to the boot steps: which boot firmware copies fail (ROM), the checkers that fail, the rows
that hard repair fails on, the lanes on which the links lock, and what flash holds from the default image's offset. -/
structure Boot where
  failsA : Bool
  failsB : Bool
  checkers : List Nat
  repairs : List (Nat × Nat)
  lanes : List (BitVec 8)
  flash : List Byte
  deriving DecidableEq, Repr

/-- What a request that has waited too long for entropy belongs to (R445): the operation on a partition, or the key of
an image's interleave. -/
inductive EntWait where
  | vector (n : Nat)
  | run (n : Nat)
  | decode (n : Nat)
  | key
  deriving DecidableEq, Repr

/-- Commands: what software, the host, another module, a pin or the block itself does that changes its state. -/
inductive Instr where
  /-- COLD_START (R538): Standby power-good rises: the boot counter increments, the Solstice count starts from zero,
  AUTO_WAKE is set and the module enters OFF. -/
  | coldStart
  /-- MAIN_GOOD (R558): Main-good rises after 20 ms at or above 48.0 V; the module wakes from OFF when AUTO_WAKE is
  set. -/
  | mainGood
  /-- STANDBY_POWER_FAIL (R558): Standby power-good falls below 10.5 V and the module enters OFF at once. -/
  | standbyPowerFail
  /-- MAIN_DIP_TIMEOUT (R540): The main input has stayed below its operating limit for more than 1 ms, so the module
  enters OFF and records main input lost. -/
  | mainDipTimeout
  /-- MAIN_UNDERVOLTAGE (R557): The main input falls below 40.0 V and the module enters OFF at once. -/
  | mainUndervoltage
  /-- POWER_OFF (R551): A write of PWR_CTRL.POWER_OFF with CONFIRM "POFF" enters OFF; any other CONFIRM leaves the
  write ignored. -/
  | powerOff (confirm : BitVec 32)
  /-- I3C_WAKE (R561): The I3C WAKE command wakes the module from OFF and is ignored in any other state. -/
  | i3cWake
  /-- I3C_OFF (R561): The I3C OFF command with the bytes "POFF" enters OFF; with any other bytes it is ignored. -/
  | i3cOff (bytes : BitVec 32)
  /-- I3C_READ (R561): The I3C READ command selects a BAR0 register, which the next private read returns or returns
  as zero. -/
  | i3cRead (sel : BitVec 24)
  /-- BOOT_STEP_DONE (R542): A boot step ends, and the next step of the boot sequence starts or the boot fails to
  HALTED. -/
  | bootStepDone (brings : Boot)
  /-- PERST_ASSERT (R545): PERST# asserts a warm reset: partition resets run within 50 µs and both functions stay in
  reset. -/
  | perstAssert
  /-- PERST_DEASSERT (R549): PERST# deasserts and the IMAGE step runs again, from the start if it was abandoned. -/
  | perstDeassert
  /-- FLR (R550): A function-level reset of either function resets the front end, sessions, host interface and every
  partition. -/
  | flr (port : Nat)
  /-- PARTITION_RESET (R547): A PWR_RESET partition reset stops the partition's commands, abandons sync waiters,
  resets its instances and then resumes launching. -/
  | partitionReset (n : Nat)
  /-- CORE_RESET (R548): A PWR_RESET core reset resets one core, or is promoted to a partition reset when the
  partition is busy. -/
  | coreReset (c : Nat)
  /-- REFCLK156_LOSS (R562): REFCLK156 stops or leaves tolerance for more than 10 µs: the count runs from the
  internal oscillator, alignment enters HOLDOVER and every link goes down. -/
  | refclk156Loss
  /-- REFCLK156_RETURN (R562): REFCLK156 returns: the links retrain and alignment resumes. -/
  | refclk156Return
  /-- REFCLK100_LOSS (R562): REFCLK100 stops, both host links go down, and each down event is counted. -/
  | refclk100Loss
  /-- RATE_LOCK_WINDOW (R36): At the end of each 1,024 ns window the rate-lock loop moves TRIM by one step according
  to the cumulative error E. -/
  | rateLockWindow (beats : List Nat) (limiting : BitVec 16)
  /-- RATE_SHORTFALL_REPEAT (R42): Every 2^30 ns while AT_CEILING lasts, the RATE_SHORTFALL message repeats. -/
  | rateShortfallRepeat (die : Nat)
  /-- BEACON_SEND (R50): Every 16 µs the time leader sends a Solstice beacon on its tree links, or on every up link
  after a leadership change. -/
  | beaconSend (frac : Nat)
  /-- BEACON_RECEIVE (R424): A follower receives a beacon, steers its count, chooses its parent link and relays the
  beacon with HOPS + 1. -/
  | beaconReceive (link frac : Nat)
  /-- DELAY_REQ_SEND (R50): Every 1 ms, and at once after a lane degrade, a follower sends a delay request on each
  tree link. -/
  | delayReqSend (link frac : Nat)
  /-- DELAY_REQ_RECEIVE (R424): A module receives a delay request and records its arrival count. -/
  | delayReqReceive (link frac : Nat)
  /-- DELAY_RESP_SEND (R424): A delay response leaves in slot 0 of the first frame that starts at least 200 ns after
  the request arrived. -/
  | delayRespSend (link frac : Nat)
  /-- DELAY_RESP_RECEIVE (R424): The requester receives a delay response and computes the link's one-way delay. -/
  | delayRespReceive (link frac : Nat)
  /-- BEACON_LOSS (R52): After 1 ms without beacons a follower enters HOLDOVER. -/
  | beaconLoss (reachable : BitVec 64)
  /-- SYNC_OUT_PULSE (R55): At each count that is a multiple of 2^20 ns, SYNC_OUT rises and pending DEV_SYNC_CTRL
  fields take effect. -/
  | syncOutPulse
  /-- SYNC_IN_EDGE (R55): A SYNC_IN rising edge is captured, compared with the expected time, and used to steer the
  count in mode 0x3 during HOLDOVER. -/
  | syncInEdge
  /-- DEV_TIME_SNAP (R58): A write to DEV_TIME_SNAP captures the count and the tag into DEV_TIME_SNAPVAL and
  DEV_TIME_SNAPTAG. -/
  | devTimeSnap (tag : BitVec 64)
  /-- SOLSTICE_LOW_READ (R48): A 4-byte read of the low half of DEV_SOLSTICE latches the high half for the next
  read; `high` marks the 4-byte read of the high half that may follow it. -/
  | solsticeLowRead (high : Bool := false)
  /-- SESSION_ENTRY_LATCH (R308): A read of word 0 of a session entry latches the whole entry. -/
  | sessionEntryLatch (id : Nat)
  /-- BANK_STATUS_READ (R381): A read of BANK_STATUS returns DMA_WAIT_MAX and then clears it. -/
  | bankStatusRead (c : Nat)
  /-- REGISTER_WRITE (R99): A write to a configuration register with no row of its own acts on each L, S and F field
  according to its class. -/
  | registerWrite (port off size : Nat) (data : BitVec 64)
  /-- COMMIT (R104): A COMMIT write to a commit register snapshots the shadows and schedules them for the next step
  boundary. -/
  | commit (off : Nat)
  /-- DISCARD (R103): A DISCARD write copies the active S fields into the shadows and cancels any pending commit. -/
  | discard (off : Nat)
  /-- IMAGE_LOAD (R84): IMAGE_LOAD copies an image into staging and checks it stage by stage; a load that passes
  becomes pending. -/
  | imageLoad (slot : Nat)
  /-- IMAGE_COMMIT (R89): IMAGE_COMMIT checks its mask against the pending loads and starts draining the scopes that
  the commit changes. -/
  | imageCommit (slot : Nat)
  /-- IMAGE_COMMIT_APPLY (R91): Once every drained scope is quiet, the commit applies the staged registers and
  sections, resumes launching and completes with OK. -/
  | imageCommitApply
  /-- DOORBELL (R334): A doorbell write records a new WRITE_INDEX and sets PENDING, or is ignored and counted as an
  overrun. -/
  | doorbell (q off size : Nat) (value : Option (BitVec 32))
  /-- QUEUE_FETCH (R336): The dispatcher fetches a batch of ring entries, writes READ_INDEX back, and idles the
  queue or keeps it busy. -/
  | queueFetch (q : Nat) (losses : List FeLoss)
  /-- SLOT_MAP (R341): At least every 10 µs, and at doorbells, completions and STOP changes, the dispatcher maps
  ready queues to slots. -/
  | slotMap
  /-- SLOT_HEAD (R349): A command reaches the head of its slot and undergoes the fetch checks before it runs. -/
  | slotHead (slot : Nat)
  /-- QUEUE_STOP (R339): A write of FE_QUEUE_CTRL.STOP pre-empts the queue at its next command boundary, parking any
  EVENT_WAIT. -/
  | queueStop (q : Nat) (stop : Bool)
  /-- QUEUE_RESET (R339): A write of FE_QUEUE_CTRL.RESET drops the queue's commands, abandons its wait and zeroes
  its indices. -/
  | queueReset (q : Nat)
  /-- NOP (R346): NOP completes OK. -/
  | nop (slot : Nat)
  /-- EVENT_RECORD (R352): EVENT_RECORD updates an event by MAX, SET or ADD and evaluates the event's waiters. -/
  | eventRecord (slot : Nat)
  /-- EVENT_WAIT (R353): EVENT_WAIT completes once its event reaches TARGET. -/
  | eventWait (slot : Nat)
  /-- EVENT_WAIT_TIMEOUT (R353): An EVENT_WAIT still unsatisfied after TIMEOUT_US completes with TIMEOUT. -/
  | eventWaitTimeout (q : Nat)
  /-- WAIT_GRAPH (R356): Every 1,000,000 ns the dispatcher builds the wait graph and breaks each cycle it finds. -/
  | waitGraph
  /-- COPY (R347): COPY copies a byte range between allowed address ranges on the port-die copy engines. -/
  | copy (slot : Nat)
  /-- FILL (R347): FILL writes a repeated 8-byte pattern over a range. -/
  | fill (slot : Nat)
  /-- SCRUB (R469): SCRUB reads every codeword of a range once, corrects, marks and repairs, and writes a summary
  record. -/
  | scrub (slot : Nat)
  /-- LAUNCH_OP (R350): LAUNCH_OP takes an array or vector descriptor, in the indirect or constant form, and waits
  for its partition. -/
  | launchOp (slot : Nat)
  /-- LAUNCH_GRAPH (R351): LAUNCH_GRAPH runs a graph's nodes in order as operations of the partition. -/
  | launchGraph (slot : Nat)
  /-- GRAPH_NODE_DONE (R351): A graph node completes, and the graph starts the next node or ends. -/
  | graphNodeDone (slot : Nat) (stalls : Stalls) (sums : List RemoteSum)
  /-- DRAIN (R136): DRAIN inserts drain tokens at every entry core and rounds and writes the root long registers. -/
  | drain (slot : Nat)
  /-- OPERATION_START (R144): A command takes its partition, and the operation's first beat checks its descriptor
  against the values in force. -/
  | operationStart (slot : Nat)
  /-- TIMED_START (R56): An armed timed command releases its first beat when the local count reaches START_COUNT. -/
  | timedStart (slot : Nat)
  /-- ARRAY_OP_DONE (R136): An array operation's drain completes: its results are written and its completion record
  follows. -/
  | arrayOpDone (n : Nat) (stalls : Stalls) (sums : List RemoteSum)
  /-- VECTOR_OP_DONE (R211): A vector operation completes when every core has retired its last micro-op and every
  store has been accepted. -/
  | vectorOpDone (n : Nat) (stalls : Stalls)
  /-- ANL_LOAD (R231): ANL_LOAD runs the check pass over a problem descriptor and its input, then starts the build
  pass. -/
  | anlLoad (slot : Nat)
  /-- ANL_LOAD_DONE (R232): The build pass of ANL_LOAD finishes, and the problem is loaded or left unloaded. -/
  | anlLoadDone (n : Nat) (stalls : Stalls)
  /-- ANL_RUN (R278): ANL_RUN checks its run descriptor, instantiates the seeded clients and sets the starting
  state. -/
  | anlRun (slot : Nat)
  /-- ANL_STEP (R236): An annealing step reaches its alignment boundary after evaluate, select, check and apply, and
  the next step begins. -/
  | anlStep (n : Nat) (stalls : Stalls)
  /-- ANL_PAUSE (R279): ANL_PAUSE pauses a running run at its next step boundary. -/
  | anlPause (slot : Nat)
  /-- ANL_RESUME (R279): ANL_RESUME resumes a paused run with its next step. -/
  | anlResume (slot : Nat)
  /-- ANL_FROST (R279): ANL_FROST starts Frost from the step after the next boundary, or after resume. -/
  | anlFrost (slot : Nat)
  /-- ANL_READ (R280): ANL_READ writes the current state, the best state or a summary snapshot. -/
  | anlRead (slot : Nat)
  /-- ANL_SYNC_POINT (R297): Once every peer's announce has arrived at a sync point, the module applies the received
  ghost updates and begins the next step. -/
  | anlSyncPoint (n : Nat) (shares : List Share) (stalls : Stalls)
  /-- ANL_EXCH_TIMEOUT (R302): A module that has waited longer than EXCH_TIMEOUT_US for an announce ends its run
  with LINK and sends an end notice. -/
  | anlExchTimeout (n peer : Nat)
  /-- END_NOTICE (R302): A module that receives an end notice ends its run with LINK at its next sync point. -/
  | endNotice (link : Nat)
  /-- PAUSE_NOTICE (R302): A pause notice from a peer suspends the exchange timeout. -/
  | pauseNotice (link : Nat)
  /-- SESSION_CREATE (R310): SESSION_CREATE makes a free session entry cold and instantiates its client. -/
  | sessionCreate (slot : Nat)
  /-- SESSION_DESTROY (R312): SESSION_DESTROY waits for in-flight DECODEs and moves, then frees the entry. -/
  | sessionDestroy (slot : Nat)
  /-- SESSION_HOT (R316): SESSION_HOT takes the lowest free hot slot and copies the session's cache into it. -/
  | sessionHot (slot : Nat)
  /-- SESSION_COLD (R317): SESSION_COLD waits for drains, then copies the cache to COLD_ADDR and releases the slot. -/
  | sessionCold (slot : Nat)
  /-- SESSION_MOVE_DONE (R318): A session cache copy finishes, and the session becomes hot or cold. -/
  | sessionMoveDone (id : Nat) (stalls : Stalls)
  /-- MIGRATE (R327): MIGRATE of a session raises its epoch, changes its partition and copies its cache. -/
  | migrate (slot : Nat)
  /-- DECODE (R321): DECODE checks its model and entries, and the entries that pass capture their sessions' epochs. -/
  | decode (slot : Nat)
  /-- DECODE_DRAIN (R322): At drain DECODE applies each entry in list order, or drops it for a stale epoch or
  poison. -/
  | decodeDrain (n : Nat) (poisoned : List Nat) (stalls : Stalls)
  /-- DISABLE (R430): LINK_CONFIG DISABLE takes the named links out of service. -/
  | disable (slot : Nat)
  /-- ENABLE (R430): LINK_CONFIG ENABLE runs full training of disabled links. -/
  | enable (slot : Nat)
  /-- RETRAIN (R430): LINK_CONFIG RETRAIN runs full training of the links up to MAX_LANES. -/
  | retrain (slot : Nat)
  /-- SET_MAX_LANES (R430): LINK_CONFIG SET_MAX_LANES writes MAX_LANES of disabled links. -/
  | setMaxLanes (slot : Nat)
  /-- PRBS_TEST (R430): LINK_CONFIG PRBS_TEST sends PRBS31Q on every lane and writes the error counts. -/
  | prbsTest (slot : Nat)
  /-- ARM (R482): MARCH ARM exchanges keys and build ids with the peer and starts March for the partitions of its
  mask. -/
  | arm (slot : Nat)
  /-- ARM_TIMEOUT (R482): ARM completes with TIMEOUT when the peer has not armed within 100 ms. -/
  | armTimeout (slot : Nat)
  /-- DISARM (R486): MARCH DISARM marks the next window record as final and ends March for the named partitions. -/
  | disarm (slot : Nat)
  /-- MARCH_WINDOW_END (R484): At the end of a 4,096-beat window each module sends its window record of core
  signatures to the peer. -/
  | marchWindowEnd (n : Nat)
  /-- MARCH_RECORD_RECEIVE (R485): The peer's window record arrives and is compared with the module's own. -/
  | marchRecordReceive (n window : Nat) (sigs : List (BitVec 64)) (final : Bool)
  /-- MARCH_RECORD_TIMEOUT (R484): A peer record missing 10 ms into the hold ends March for the partition as LOST. -/
  | marchRecordTimeout (n : Nat)
  /-- RECORD (R487): REPLAY RECORD empties the log, writes START and starts recording. -/
  | recordLog (slot : Nat)
  /-- REPLAY_STOP (R487): REPLAY STOP writes END and stops recording or replay. -/
  | replayStop (slot : Nat)
  /-- EXPORT (R487): REPLAY EXPORT copies the log to DEST. -/
  | exportLog (slot : Nat)
  /-- IMPORT (R487): REPLAY IMPORT fills the log from SRC. -/
  | importLog (slot : Nat)
  /-- PLAY (R487): REPLAY PLAY starts replaying the log for the named partitions. -/
  | playLog (slot : Nat)
  /-- REPLAY_ENTRY_APPLY (R489): A log entry is applied when the partition's replay beat count reaches its
  WORK_BEAT. -/
  | replayEntryApply (n : Nat)
  /-- SEED (R452): ENTROPY_CFG SEED instantiates a range of context clients with a user seed and run id. -/
  | seed (slot : Nat)
  /-- RETEST (R452): ENTROPY_CFG RETEST runs the start-up test on sources out of service, and those that pass
  rejoin. -/
  | retest (slot : Nat) (pass : BitVec 32)
  /-- RAW_CAPTURE (R452): ENTROPY_CFG RAW_CAPTURE copies a standby source's raw bits to memory. -/
  | rawCapture (slot : Nat)
  /-- PROGRAM_SLOT (R348): FUSE PROGRAM_SLOT programs a blank key slot with a key hash. -/
  | programSlot (slot : Nat)
  /-- REVOKE_SLOT (R348): FUSE REVOKE_SLOT revokes a programmed key slot. -/
  | revokeSlot (slot : Nat)
  /-- RAISE_MIN_SVN (R348): FUSE RAISE_MIN_SVN raises the fused MIN_SVN. -/
  | raiseMinSvn (slot : Nat)
  /-- CORE_RETIRE (R510): A core retirement quiesces the partition, shifts logical cores, updates the row map and
  resumes. -/
  | coreRetire (slot : Option Nat) (core : Nat)
  /-- WATCHDOG_HANG (R362): A slot watchdog expires: the device captures, completes the command with TIMEOUT and
  resets the partition. -/
  | watchdogHang (slot : Nat)
  /-- CQ_HEAD_WRITE (R359): A write of a completion ring's HEAD frees space and releases any record held for a full
  ring. -/
  | cqHeadWrite (c : Nat) (value : BitVec 32)
  /-- MSIX_SEND (R360): A ring's MSI-X message is sent after its batch's records, at most once per 1 µs. -/
  | msixSend (ring : Nat)
  /-- BANK_HANDOVER (R371): A pending bank commit applies when the owners of every affected bank are at rest. -/
  | bankHandover (c : Nat)
  /-- BANK_TEST_REGION (R377): The background test saves, tests and restores one 256-byte region of a bank. -/
  | bankTestRegion (c bank : Nat) (fails : Bool)
  /-- BAR4_READ (R523): A host read through BAR4 acts as a DMA read of the device memory that its segment maps. -/
  | bar4Read (port off len : Nat) (faults : List Upset) (waits : List (Nat × Nat) := [])
  /-- BAR4_WRITE (R523): A host write through BAR4 acts as a DMA write to device memory, or is dropped. -/
  | bar4Write (port off : Nat) (data : List PByte) (faults : List Upset) (waits : List (Nat × Nat) := [])
  /-- HOST_ATOMICOP (R516): A FetchAdd or Swap AtomicOp through BAR4 is performed by a scratchpad bank, or completes
  with Unsupported Request. -/
  | hostAtomicop (port off op size : Nat) (value : BitVec 64) (waits : List (Nat × Nat) := [])
  /-- BAR4_RESIZE (R522): Resizing BAR4 returns every segment to its reset mapping. -/
  | bar4Resize (n : Nat)
  /-- ARRIVE (R387): A barrier's home accepts an ARRIVE and counts it, or refuses it as an over-arrival. -/
  | arrive (ctx m c b : Nat) (announce : Bool)
  /-- PRODUCE (R395): A counter's home accepts a PRODUCE, adds N to PRODUCED and evaluates its waits. `src` is the core
  whose announce it is (R393), if it is one. -/
  | produce (m c b n : Nat) (waits : List CtrWait) (src : Option Nat := none)
  /-- CONSUME (R395): A counter's home accepts a CONSUME, adds N to CONSUMED and evaluates its waits. -/
  | consume (m c b n : Nat) (waits : List CtrWait) (src : Option Nat := none)
  /-- HOST_SIGNAL (R405): A host write to SYNC_ARRIVE delivers a signal word to object INDEX. -/
  | hostSignal (c : Nat) (w : BitVec 64)
  /-- RELEASE_RECEIVE (R388): A core's sync unit receives a release and records a wake for each matching waiting
  context. -/
  | releaseReceive (at_ m c b : Nat) (sense : Bool)
  /-- REFUSAL_RECEIVE (R390): A refused context restores its local sense, and its operation is marked
  BARRIER_OVERARRIVAL. -/
  | refusalReceive (ctx m c b : Nat)
  /-- ANNOUNCE_APPLY (R416): A WRITE_ANNOUNCE is applied once every earlier packet of its pair has been accepted at
  its target. -/
  | announceApply (m : Nat) (waits : List (Nat × Nat) := [])
  /-- FRAME_SEND (R409): A link transmitter fills a frame's slots by channel priority and credit, ending with the
  link flit. -/
  | frameSend (link stall : Nat)
  /-- FRAME_RECEIVE (R411): A link receiver decodes a frame, checks its CRC and delivers its flits, or discards it
  and signals NAK. -/
  | frameReceive (link : Nat) (decoded : Bool) (corrected : Nat) (lanes : List (BitVec 5140))
  /-- FAST_RETRAIN_DONE (R412): A fast retrain completes, or fails and starts full training. -/
  | fastRetrainDone (link : Nat) (ok : Bool) (stall : Nat)
  /-- LANE_FAIL (R421): A receiver that finds a failed lane requests a degrade to six or four lanes, or takes the
  link down. -/
  | laneFail (link : Nat) (good : BitVec 8)
  /-- LANE_SWITCH (R421): At SWITCH_SEQ both sides change lane set, remeasure the delay and send LINK_EVENT
  DEGRADED. -/
  | laneSwitch (link stall : Nat)
  /-- TRAINING_DONE (R422): Full training of a link ends: the link comes up after HELLO, or stays down or MISWIRED. -/
  | trainingDone (link : Nat) (ok : Bool) (lanes : BitVec 8)
  /-- TRAINING_RETRY (R422): A link that was up and failed full training retrains every 1 s. -/
  | trainingRetry (link : Nat)
  /-- HELLO (R422): A HELLO from the peer is compared with LINK_TOPOLOGY, and the link comes up or stays MISWIRED. -/
  | hello (link : Nat)
  /-- HELLO_RESEND (R422): A MISWIRED link sends HELLO once every 1 ms. -/
  | helloResend (link : Nat)
  /-- DATA_PACKET_RECEIVE (R415): A data packet is received into the destination's reorder window, or forwarded by
  route. -/
  | dataPacketReceive (link : Nat) (waits : List (Nat × Nat) := [])
  /-- RELEASED_SEND (R415): Every 256 packets or 1 µs the destination returns the released count to the source. -/
  | releasedSend (m : Nat)
  /-- RELEASED (R428): A source receives a RELEASED count and may send further packets of the pair. -/
  | released (link : Nat)
  /-- READ_REQ (R417): A READ_REQ from a peer is served with READ_RESP packets on the reverse pair. -/
  | readReq (m : Nat) (waits : List (Nat × Nat) := [])
  /-- READ_RESP (R417): READ_RESP packets deliver read data into the requester's reserved space. -/
  | readResp (m : Nat) (waits : List (Nat × Nat) := [])
  /-- ROUTE_HOLD_EXPIRE (R423): A packet held for want of an up link past HOLD_US is dropped, and its command gets
  LINK_DOWN. -/
  | routeHoldExpire (m : Nat)
  /-- MCAST_RESERVE (R426): A member receives MCAST_RESERVE and grants a free receive buffer when it has one. -/
  | mcastReserve (link : Nat)
  /-- MCAST_GRANT (R426): The source receives a grant and, once every member has granted, sends the transfer. -/
  | mcastGrant (link : Nat)
  /-- MCAST_RELEASE (R427): A member receives MCAST_RELEASE and frees the buffer it reserved for the transfer. -/
  | mcastRelease (link : Nat)
  /-- MCAST_GRANT_TIMEOUT (R427): After 64 µs without every grant, the source multicasts to the granting members and
  sends ordinary writes to the others. -/
  | mcastGrantTimeout (id : BitVec 32)
  /-- SYNC_FLIT_RECEIVE (R418): A sync flit is received and delivered to the sync lanes, or routed onward. -/
  | syncFlitReceive (link : Nat)
  /-- ENTROPY_WINDOW (R438): A 1,024-bit window of a source closes; its health tests are judged and it goes to the
  conditioner or is discarded. -/
  | entropyWindow (n : Nat) (raw : BitVec 1024) (began : BitVec 64)
  /-- CONDITIONED_BLOCK (R441): A conditioned 384-bit block enters the pool, and waiting draws are served in order. -/
  | conditionedBlock (n : Nat)
  /-- BIAS_TRIM_CHECK (R435): Every 65,536 raw bits a source's feedback loop steps BIAS_TRIM toward balance, or
  fails at its limit. -/
  | biasTrimCheck (n ones : Nat)
  /-- ENTROPY_WAIT_TIMEOUT (R445): A request held for entropy whose no-source time reaches NO_ENTROPY_US ends with
  NO_ENTROPY. -/
  | entropyWaitTimeout (w : EntWait)
  /-- ENT_CTRL_WRITE (R454): A write of ENT_CTRL changes the active sources and the reseed interval at once. -/
  | entCtrlWrite (value : BitVec 64)
  /-- BALANCE_WINDOW (R473): At the end of each 65,536 ns window the monitor sets MAX_RATIO and HOT_CHANNEL. -/
  | balanceWindow (counts : List Nat)
  /-- MSG_HEAD_WRITE (R502): A write of DEV_MSG_HEAD frees message ring space and releases queued messages. -/
  | msgHeadWrite (value : BitVec 32)
  /-- THRESHOLD_SPAN_END (R501): 2^20 ns after a CROSSING message, a field with suppressed crossings sends one
  message with SUPPRESSED. -/
  | thresholdSpanEnd (level unit cat : Nat)
  /-- SENSOR_PERIODIC (R505): At each multiple of SENSOR_PERIOD × 2^30 ns every sensor sends SENSOR_REPORT PERIODIC. -/
  | sensorPeriodic (values : List Int)
  /-- SENSOR_LIMIT (R505): A sensor reading leaves or re-enters its limits and sends HIGH, LOW or NORMAL. -/
  | sensorLimit (id : Nat) (value : Int)
  /-- HEARTBEAT (R508): Every 10 µs the active dispatcher writes a heartbeat to the spare. -/
  | heartbeat
  /-- DISPATCHER_TAKEOVER (R508): After 100 µs without a heartbeat, or on a checker failure, the spare dispatcher
  takes over and restores front-end state; `spare` says that it is the spare that has failed. -/
  | dispatcherTakeover (ns : Nat) (spare : Bool := false)
  /-- PEEK (R491): A write of DBG_PEEK_ADDR starts a 64-byte debug read of memory or a long register. -/
  | peek (addr : BitVec 64)
  /-- PEEK_DONE (R491): A peek completes into DBG_PEEK_DATA with its POISON and FAULT flags. -/
  | peekDone
  /-- RESUME (R493): A write of DBG_BREAK.RESUME ends a partition's halt. -/
  | resume (n : Nat)
  /-- STEP (R493): A write of DBG_BREAK.STEP ends the halt and arms a breakpoint after one operation. -/
  | step (n : Nat)
  /-- CLEAR (R494): A write of DBG_PERF_CTRL.CLEAR zeroes every performance counter. -/
  | clear
  /-- FREEZE (R494): A write of DBG_PERF_CTRL.FREEZE holds or releases the performance counters at the next beat of
  each die. -/
  | freeze (freeze : Bool)
  /-- REG_ACCESS (R492): A JTAG REG_ACCESS Update-DR performs a BAR0 read or write. -/
  | regAccess (write : Bool) (sel : BitVec 23) (data : BitVec 64)
  /-- REPETITION_COUNT_FAILURE (R437): A source produces 81 consecutive equal raw bits, fails the repetition count
  test and leaves service in that beat. -/
  | repetitionCountFailure (n : Nat)
  /-- COPY_ENGINE_DONE (R362): A port-die copy engine finishes a 64 KiB chunk or the whole range of a COPY, FILL,
  SCRUB, EXPORT or IMPORT, making watchdog progress or completing the command. -/
  | copyEngineDone (slot : Nat) (faults : List Upset) (waits : List (Nat × Nat) := [])
  /-- IMAGE_LOAD_DONE (R85): The copy of an image into staging completes and the key, signature, SVN, section,
  structure and staging stages run, ending the load as pending or failed. -/
  | imageLoadDone (slot : Nat)
  /-- HOST_COMPLETION_RECEIVE (R517): A PCIe completion arrives for a device read through a host window, delivering
  bytes, or poison for UR, CA or EP status. -/
  | hostCompletionReceive (tag status : Nat) (ep : Bool) (data : List Byte) (waits : List (Nat × Nat) := [])
  /-- COMPLETION_TIMEOUT (R517): A device read through a host window gets no completion within the completion
  timeout, and its bytes are delivered as poison. -/
  | completionTimeout (tag : Nat)
  /-- CONFIGURATION_REQUEST (R544): A host configuration request is answered with Request Retry Status until CHECKER
  ends, and is completed after that. -/
  | configurationRequest (port : Nat) (msix : Option (Bool × Bool))
  /-- HOST_LINK_UP (R534): A host port's PCIe link finishes training and the data link comes up, setting SPEED,
  WIDTH, FLIT and UP. -/
  | hostLinkUp (port speed width : Nat) (flit : Bool)
  /-- PRBS_TEST_DONE (R430): A PRBS_TEST duration expires, the per-lane error counts are written, and the command
  completes. -/
  | prbsTestDone (errs : List Nat)
  /-- RAW_CAPTURE_DONE (R452): A RAW_CAPTURE has copied BITS raw bits to DEST, and the source leaves the testing
  role as the command completes. -/
  | rawCaptureDone (raw : List Byte)
  /-- MARCH_ARM_EXCHANGE (R482): The peer's ARM values arrive and are compared, and ARM completes with OK or FORMAT. -/
  | marchArmExchange (slot : Nat) (key mask : BitVec 64) (parts : List (Nat × BitVec 128 × Nat))
  deriving DecidableEq, Repr

end Sys2Proof
end

