-- ==== Sys2Proof/Decode.lean ====
section
/-!
DEFINITION. Sys2Proof/Decode.lean: the commands that words spell. The opcode table of this block gives no row any bits, so no word
spells a command.
-/
namespace Sys2Proof

/-- The command that a word of nbits spells by the table's bits: none of its rows has any. -/
def decodeTableWord (_nbits _w : Nat) : Option Instr := none

end Sys2Proof
end

