-- ==== Sys2Proof/Machine/Bits.lean ====
section
/-!
DEFINITION. Sys2Proof/Machine/Bits.lean: bit fields, byte order (R7), saturation and signed readings.
-/
namespace Sys2Proof.Machine

/-- Bits [hi:lo] of v (R7). -/
def fld (v hi lo : Nat) : Nat := (v >>> lo) % 2 ^ (hi + 1 - lo)

/-- Bit i of v. -/
def bitOf (v i : Nat) : Bool := fld v i i == 1

/-- The value v placed at bit lo, cut to the field [hi:lo]. -/
def put (v hi lo : Nat) : Nat := (v % 2 ^ (hi + 1 - lo)) <<< lo

/-- v with bits [hi:lo] replaced by x. -/
def setFld (v hi lo x : Nat) : Nat := v - put (fld v hi lo) hi lo + put x hi lo

def boolBit (b : Bool) : Nat := if b then 1 else 0

/-- A counter of w bits that saturates (R10, R499). -/
def satTo (w n : Nat) : Nat := min n (2 ^ w - 1)

/-- v read as a signed w-bit number. -/
def signedOf (w v : Nat) : Int := if v % 2 ^ w < 2 ^ (w - 1) then (v % 2 ^ w : Nat) else (v % 2 ^ w : Nat) - (2 ^ w : Nat)

/-- The w low bits of an integer, as a two's complement word. -/
def wrapTo (w : Nat) (z : Int) : Nat := (z % (2 ^ w : Nat)).toNat

/-- An integer clipped to lo .. hi. -/
def clampInt (lo hi z : Int) : Int := if z < lo then lo else if hi < z then hi else z

/-- The n bytes of v, least significant first (R7). -/
def leBytes : Nat → Nat → List Byte
  | 0, _ => []
  | n + 1, v => BitVec.ofNat 8 v :: leBytes n (v >>> 8)

/-- The value of bytes stored least significant first (R7). -/
def ofLe : List Byte → Nat
  | [] => 0
  | b :: bs => b.toNat + 256 * ofLe bs

/-- The value of a big-endian byte string (R81). -/
def ofBe (bs : List Byte) : Nat := bs.foldl (fun a b => a * 256 + b.toNat) 0

/-- The n bytes of v, most significant first (R81). -/
def beBytes (n v : Nat) : List Byte := (leBytes n v).reverse

/-- Bytes lo .. hi of a little-endian block as one number. -/
def byteFld (v lo hi : Nat) : Nat := fld v (8 * hi + 7) (8 * lo)

/-- Bytes lo .. hi of a command (R345). -/
def cmdFld (c : CmdWord) (lo hi : Nat) : Nat := byteFld c.toNat lo hi

/-- The number of 1 bits among the low n bits of v. -/
def popUpTo : Nat → Nat → Nat
  | 0, _ => 0
  | n + 1, v => v % 2 + popUpTo n (v / 2)

/-- The positions of the 1 bits among the low n bits of v, rising. -/
def bitList (n v : Nat) : List Nat := (List.range n).filter (fun i => v.testBit i)

/-- The bytes as they lie, without poison. -/
def clean (bs : List Byte) : List PByte := bs.map (fun b => (b, false))

/-- The data of bytes that carry poison marks. -/
def dataOf (bs : List PByte) : List Byte := bs.map Prod.fst

/-- Some byte is poisoned. -/
def anyPoison (bs : List PByte) : Bool := bs.any Prod.snd

/-- Entry i of a list, or the value d past its end. -/
def nth {α : Type} (d : α) : List α → Nat → α
  | [], _ => d
  | x :: _, 0 => x
  | _ :: xs, n + 1 => nth d xs n

/-- The list with entry i replaced, unchanged past its end. -/
def setNth {α : Type} (x : α) : List α → Nat → List α
  | [], _ => []
  | _ :: ys, 0 => x :: ys
  | y :: ys, n + 1 => y :: setNth x ys n

/-- The least entry of a list under a measure, the first of equal ones. -/
def leastBy {α : Type} (f : α → Nat) : List α → Option α
  | [] => none
  | x :: xs =>
    match leastBy f xs with
    | none => some x
    | some y => if f y < f x then some y else some x

/-- x put into a list that rises by f, before entries of its own size. -/
def insertBy {α : Type} (f : α → Nat) (x : α) : List α → List α
  | [] => [x]
  | y :: ys => if f x ≤ f y then x :: y :: ys else y :: insertBy f x ys

/-- The list in rising order of f; entries of one size keep their order. -/
def sortBy {α : Type} (f : α → Nat) (l : List α) : List α := l.foldr (insertBy f) []

/-- x put into a list that rises by f, behind entries of its own size. -/
def appendBy {α : Type} (f : α → Nat) (x : α) : List α → List α
  | [] => [x]
  | y :: ys => if f x < f y then x :: y :: ys else y :: appendBy f x ys

/-- The integer square root, by fixed bit count: the largest r with r * r ≤ n, for n < 4 ^ k. -/
def isqrtUpTo : Nat → Nat → Nat → Nat
  | 0, _, r => r
  | k + 1, n, r =>
    let t := r + 2 ^ k
    if t * t ≤ n then isqrtUpTo k n t else isqrtUpTo k n r

/-- The integer square root of n. -/
def isqrt (n : Nat) : Nat := isqrtUpTo (n.log2 / 2 + 1) n 0

/-- The integer cube root of n, for n < 8 ^ k. -/
def icbrtUpTo : Nat → Nat → Nat → Nat
  | 0, _, r => r
  | k + 1, n, r =>
    let t := r + 2 ^ k
    if t * t * t ≤ n then icbrtUpTo k n t else icbrtUpTo k n r

end Sys2Proof.Machine
end

