-- ==== Sys2Proof/Machine/Crypto.lean ====
section
/-!
DEFINITION. Sys2Proof/Machine/Crypto.lean: the published algorithms that the spec names and does not spell out:
SHA-384 (R61, R82), AES-128 and AES-256 (R471, R447), ECDSA over P-384 (R82). Their constants come from the
standards themselves (PRESUMED, log entry 9). Everything is plain arithmetic on Nat, by structural recursion.
-/
namespace Sys2Proof.Machine

/-! ### SHA-384 (FIPS 180-4) -/

/-- The first 80 primes, by trial division. -/
def isPrime (n : Nat) : Bool := 1 < n && (List.range n).all (fun d => d < 2 || n % d != 0)

def primes80 : List Nat := (List.range 410).filter isPrime

/-- Round constants: the first 64 fraction bits of the cube roots of the first 80 primes. -/
def shaK : List Nat := primes80.map (fun p => icbrtUpTo 70 (p * 2 ^ 192) 0 % 2 ^ 64)

/-- Initial values: the first 64 fraction bits of the square roots of the ninth to sixteenth primes. -/
def shaInit : List Nat := ((primes80.drop 8).take 8).map (fun p => isqrtUpTo 70 (p * 2 ^ 128) 0 % 2 ^ 64)

def rotr64 (x n : Nat) : Nat := (x >>> n ||| x <<< (64 - n)) % 2 ^ 64

def shaPad (m : List Byte) : List Byte :=
  m ++ [0x80#8] ++ List.replicate ((111 + 128 - m.length % 128) % 128) 0#8 ++ beBytes 16 (8 * m.length)

/-- The message schedule, newest word first. -/
def shaSchedule : Nat → List Nat → List Nat
  | 0, ws => ws
  | n + 1, ws =>
    let w2 := nth 0 ws 1; let w7 := nth 0 ws 6; let w15 := nth 0 ws 14; let w16 := nth 0 ws 15
    let s0 := rotr64 w15 1 ^^^ rotr64 w15 8 ^^^ w15 >>> 7
    let s1 := rotr64 w2 19 ^^^ rotr64 w2 61 ^^^ w2 >>> 6
    shaSchedule n (((w16 + s0 + w7 + s1) % 2 ^ 64) :: ws)

def shaRound (h : List Nat) (kw : Nat × Nat) : List Nat :=
  match h with
  | [a, b, c, d, e, f, g, hh] =>
    let s1 := rotr64 e 14 ^^^ rotr64 e 18 ^^^ rotr64 e 41
    let ch := (e &&& f) ^^^ ((2 ^ 64 - 1 - e) &&& g)
    let t1 := hh + s1 + ch + kw.1 + kw.2
    let s0 := rotr64 a 28 ^^^ rotr64 a 34 ^^^ rotr64 a 39
    let mj := (a &&& b) ^^^ (a &&& c) ^^^ (b &&& c)
    [(t1 + s0 + mj) % 2 ^ 64, a, b, c, (d + t1) % 2 ^ 64, e, f, g]
  | _ => h

/-- The list cut into blocks of k entries, n of them at most: no block is empty. -/
def chunks {α : Type} (k : Nat) : Nat → List α → List (List α)
  | 0, _ => []
  | _ + 1, [] => []
  | n + 1, x :: xs => (x :: xs).take k :: chunks k n ((x :: xs).drop k)

def shaBlock (h : List Nat) (block : List Byte) : List Nat :=
  let w0 := (chunks 8 16 block).map ofBe
  let ws := (shaSchedule 64 w0.reverse).reverse
  let h' := (shaK.zip ws).foldl shaRound h
  (h.zip h').map (fun p => (p.1 + p.2) % 2 ^ 64)

/-- SHA-384 of a byte string, as a big-endian 384-bit number. -/
def sha384 (m : List Byte) : Nat :=
  let p := shaPad m
  let h := (chunks 128 (p.length / 128) p).foldl shaBlock shaInit
  (h.take 6).foldl (fun a w => a * 2 ^ 64 + w) 0

/-! ### AES (FIPS 197) -/

/-- Multiplication in GF(2^8) with the polynomial 0x11B. -/
def gfMul : Nat → Nat → Nat → Nat
  | 0, _, _ => 0
  | n + 1, a, b =>
    let rest := gfMul n (if a < 128 then 2 * a else (2 * a) ^^^ 0x11B) (b / 2)
    if b % 2 = 1 then a ^^^ rest else rest

def gfPow : Nat → Nat → Nat
  | 0, _ => 1
  | n + 1, a => gfMul 8 a (gfPow n a)

/-- The S-box: the inverse in GF(2^8) under the affine map. -/
def sboxOf (x : Nat) : Nat :=
  let i := gfPow 254 x
  let r := fun n => ((i <<< n) ||| (i >>> (8 - n))) % 256
  i ^^^ r 1 ^^^ r 2 ^^^ r 3 ^^^ r 4 ^^^ 0x63

def sboxList : List Nat := (List.range 256).map sboxOf

def subWord (w : List Nat) : List Nat := w.map (nth 0 sboxList)

def xorList (a b : List Nat) : List Nat := (a.zip b).map (fun p => p.1 ^^^ p.2)

/-- The key schedule of nk key words, newest word first, until `i + n` words stand. -/
def keyExpand (nk : Nat) : Nat → Nat → List (List Nat) → List (List Nat)
  | 0, _, ws => ws
  | n + 1, i, ws =>
    let prev := nth [] ws 0
    let old := nth [] ws (nk - 1)
    let t :=
      if i % nk = 0 then
        xorList (subWord (prev.drop 1 ++ prev.take 1)) [gfPow (i / nk - 1) 2, 0, 0, 0]
      else if nk = 8 ∧ i % 8 = 4 then subWord prev else prev
    keyExpand nk n (i + 1) (xorList old t :: ws)

def shiftRows (st : List Nat) : List Nat := (List.range 16).map (fun i => nth 0 st ((i + 4 * (i % 4)) % 16))

def mixColumn (c : List Nat) : List Nat :=
  (List.range 4).map (fun i =>
    gfMul 8 (nth 0 c i) 2 ^^^ gfMul 8 (nth 0 c ((i + 1) % 4)) 3 ^^^ nth 0 c ((i + 2) % 4) ^^^ nth 0 c ((i + 3) % 4))

def mixColumns (st : List Nat) : List Nat := (chunks 4 4 st).flatMap mixColumn

/-- AES encryption of a 16-byte block under a key of 16 or 32 bytes. -/
def aesEncrypt (key block : List Byte) : List Byte :=
  let kw := chunks 4 (key.length / 4) (key.map BitVec.toNat)
  let nk := kw.length
  let nr := nk + 6
  let ws := (keyExpand nk (4 * (nr + 1) - nk) nk kw.reverse).reverse
  let rk := (chunks 4 (nr + 1) ws).map List.flatten
  let st0 := xorList (block.map BitVec.toNat) (nth [] rk 0)
  let st := (List.range (nr - 1)).foldl
    (fun st r => xorList (mixColumns (shiftRows (subWord st))) (nth [] rk (r + 1))) st0
  (xorList (shiftRows (subWord st)) (nth [] rk nr)).map (BitVec.ofNat 8)

/-! ### P-384 and ECDSA (FIPS 186-5, SEC 1) -/

def p384P : Nat := 2 ^ 384 - 2 ^ 128 - 2 ^ 96 + 2 ^ 32 - 1
def p384N : Nat := 0xffffffffffffffffffffffffffffffffffffffffffffffffc7634d81f4372ddf581a0db248b0a77aecec196accc52973
def p384B : Nat := 0xb3312fa7e23ee7e4988e056be3f82d19181d9c6efe8141120314088f5013875ac656398d8a2ed19d2a85c8edd3ec2aef
def p384Gx : Nat := 0xaa87ca22be8b05378eb1c71ef320ad746e1d3b628ba79b9859f741e082542a385502f25dbf55296c3a545e3872760ab7
def p384Gy : Nat := 0x3617de4a96262c6f5d9e98bf9292dc29f8f41dbd289a147ce9da3113b5f0b8c00a60b1ce1d7e819d7a431d7c90ea0e5f

/-- a ^ e mod m over the n low bits of e. -/
def powMod : Nat → Nat → Nat → Nat → Nat
  | 0, _, _, _ => 1
  | n + 1, m, a, e =>
    let r := powMod n m (a * a % m) (e / 2)
    if e % 2 = 1 then a * r % m else r

/-- The inverse of a modulo the prime m. -/
def invMod (m a : Nat) : Nat := powMod 384 m (a % m) (m - 2)

/-- A point of the curve, none for the point at infinity. -/
abbrev Pt := Option (Nat × Nat)

def ptAdd : Pt → Pt → Pt
  | none, q => q
  | p, none => p
  | some (x1, y1), some (x2, y2) =>
    let p := p384P
    if x1 = x2 ∧ (y1 + y2) % p = 0 then none
    else
      let l :=
        if x1 = x2 ∧ y1 = y2 then (3 * x1 * x1 + (p - 3)) % p * invMod p (2 * y1) % p
        else (y2 + p - y1) % p * invMod p (x2 + p - x1) % p
      let x3 := (l * l + 2 * p - x1 - x2) % p
      some (x3, (l * (x1 + p - x3) + (p - y1)) % p)

/-- k times the point q, over the n low bits of k. -/
def ptMul : Nat → Nat → Pt → Pt
  | 0, _, _ => none
  | n + 1, k, q =>
    let r := ptMul n (k / 2) (ptAdd q q)
    if k % 2 = 1 then ptAdd q r else r

/-- The point lies on P-384 and its coordinates are reduced. -/
def onCurve (x y : Nat) : Bool :=
  x < p384P && y < p384P && (y * y) % p384P == (x * x * x + (p384P - 3) * x + p384B) % p384P

/-- ECDSA verification of signature (r, s) on digest e under the public key (qx, qy). -/
def ecdsaOk (e qx qy r s : Nat) : Bool :=
  onCurve qx qy && 0 < r && r < p384N && 0 < s && s < p384N &&
  (let w := invMod p384N s
   let u1 := e % p384N * w % p384N
   let u2 := r * w % p384N
   match ptAdd (ptMul 384 u1 (some (p384Gx, p384Gy))) (ptMul 384 u2 (some (qx, qy))) with
   | none => false
   | some (x, _) => x % p384N == r)

end Sys2Proof.Machine
end

