-- ==== Sys2Proof/Config.lean ====
section
/-!
DEFINITION. Sys2Proof/Config.lean: the values the spec leaves open. Each is a constant WITHOUT A BODY: nothing can
evaluate it, and a statement about it holds for every value. The state's counter `fresh` is applied to the first.
-/
namespace Sys2Proof.Config

/-- Value number n that the spec leaves open (log entry 4). The step that needs one reads the counter `fresh` of the
state and advances it. -/
opaque freeValue : Nat → Nat

/-- Rows of stack s that the HBM4 stack can still repair after packaging (R466: the stacks' own resources, whose
number the spec does not give; log entry 24). -/
opaque hbmRepairRows : Nat → Nat

/-- x coordinate of the Praurath firmware public key of boot ROM (R80; its value is in no file of the spec). -/
opaque firmwareKeyX : Nat

/-- y coordinate of the Praurath firmware public key of boot ROM (R80). -/
opaque firmwareKeyY : Nat

/-- rsqrt_t(-0), for which R204 states no result (log entry 4). -/
opaque rsqrtNegZero : Nat

/-- The byte that a read of sync-window address a returns: the spec gives the window's writes only (R385). -/
opaque syncRead : Nat → BitVec 8

/-- Whether a source's loop raises BIAS_TRIM when it sees too many ones: R435 moves it "one step toward balance" and
does not say which way that is (log entry 4). -/
opaque biasUp : Bool

/-- The 64-bit digest of a curve record that a setup sync point exchanges (R301): the spec does not give the function
(log entry 4). -/
opaque curveDigest : List (BitVec 8) → Nat

/-- Address and 8 bytes of an update or announce write of a split run (R297), by what it says: the spec gives these
writes no address and no layout (log entry 4). -/
opaque exchangeAddr : List Nat → Nat
opaque exchangeWord : List Nat → BitVec 64

/-- The 1,024-byte block of the peer to which the record of a window of a partition in March is written (R484), by partition and
window: the spec gives the record no address (log entry 4). -/
opaque recordBlock : Nat → Nat → Nat

/-- Whether a scalar firmware body holds the decode program of an index: the spec gives the body no layout (R79, R309;
log entry 4). -/
opaque hasProgram : List (BitVec 8) → Nat → Bool

/-- The beats of a cross-module stage, which no rule gives, as a function of what R44 lets them depend on: TREE_SHAPE,
the rate and the descriptor (log entry 18). -/
opaque crossBeats : List Nat → Nat

/-- The group column sum of a band that kept weights have without an integer load (R123, R168): by core, band and cell
column (log entry 4). -/
opaque columnSum : Nat → Nat → Nat → Int

/-- What the long register of a core that is no die's bottom edge holds after an operation has passed through it, by the
operation's free number and the register: no rule states it (R19; log entry 32). -/
opaque passedLong : Nat → Nat → Nat

/-- The token that the decode program produces from an entry's inputs, the session's cache positions 0 to CONTEXT − 1,
and the memory cells of weights and parameters: its arithmetic is firmware (R309, R322; log entry 4). -/
opaque decodeToken : List (BitVec 8) → List (BitVec 8) → List (Nat × BitVec 8) → Nat

/-- Byte i of the cache position that the decode program writes for an entry (R322; log entry 4). -/
opaque decodeCache : List (BitVec 8) → List (BitVec 8) → List (Nat × BitVec 8) → Nat → BitVec 8

/-- The work beats of a decode step, a function of model record, entries, contexts and inputs alone (R44, R324; log
entry 4); the model cuts it to R324's bound. -/
opaque decodeBeats : List (BitVec 8) → Nat

end Sys2Proof.Config
end

