-- ==== Sys2Proof/Machine/State.lean ====
section
/-!
DEFINITION. Sys2Proof/Machine/State.lean: the state of the module as plain data: every register, counter, queue,
buffer and mode that the spec gives it, with the queue of commands that wait, and the state right after reset.
-/
namespace Sys2Proof.Machine

/-! ### Sparse indexed storage -/

/-- Components numbered by a Nat, keys strictly rising; a component that is not listed stands at its reset value, and one
that stands there may be left out. -/
abbrev AMap (α : Type) := List (Nat × α)

/-! ### Fuses and good units (R3, R20 to R26, R83) -/

/-- The part's grade (R2, R3). -/
inductive Grade where
  | af
  | as
  deriving DecidableEq, Repr

/-- One key-hash slot (R83, R348). -/
structure KeySlot where
  programmed : Bool
  revoked : Bool
  hash : BitVec 384
  deriving DecidableEq, Repr

/-- Repair state of one physical row (R20, R24): columns failed at manufacture and the columns
retired in service, the latest first. -/
structure RowMap where
  fail0 : Option Nat
  fail1 : Option Nat
  retired : List Nat
  deriving DecidableEq, Repr

/-- What the fuses and the unit maps hold. `entFused` and `dispFused` are the manufacture maps; the others are the
units now in service (R25, R26). -/
structure FuseSt where
  grade : Grade
  stepping : BitVec 8
  rows : AMap RowMap
  entFused : BitVec 32
  entGood : BitVec 32
  dispFused : BitVec 2
  dispGood : BitVec 2
  slots : AMap KeySlot
  minSvn : Nat
  deriving DecidableEq, Repr

/-! ### Power, reset and boot (chapter 22) -/

/-- A reset that PWR_RESET, a watchdog or RESUME asked for and that waits (R549). -/
inductive ResetReq where
  | part (n : Nat)
  | core (c : Nat)
  deriving DecidableEq, Repr

structure PowerSt where
  standby : Bool
  mainGood : Bool
  state : Nat
  bootStep : Nat
  romCopy : Bool
  wakes : Nat
  lastReset : Nat
  lastOff : Nat
  coldBoot : Bool
  perst : Bool
  waiting : List ResetReq
  promoted : Nat
  bootTime : BitVec 64
  deriving DecidableEq, Repr

/-! ### Time (chapter 02) -/

/-- `steer` is the steering rate in parts per million of the module's own reference, `steerAcc` what it has added up to
since the count last moved by it, in millionths of a ns (R50); `goodBeacons` is 0 until the join step (R51);
`periodBest` is the link and the HOPS of the present beacon period's best beacon so far (R53). -/
structure TimeSt where
  count : BitVec 64
  boots : BitVec 32
  exhausted : Bool
  lowLatch : Option (BitVec 32)
  snapVal : BitVec 64
  snapTag : BitVec 64
  stepSize : BitVec 64
  align : Nat
  leader : Nat
  hops : Nat
  steps : Nat
  offset : BitVec 24
  goodBeacons : Nat
  lastBeacon : BitVec 64
  steer : Int
  steerAcc : Int
  parent : Option Nat
  parentFresh : Bool
  reRooted : Bool
  relayed : Nat × BitVec 64
  periodBest : Option (Nat × Nat)
  capture : BitVec 64
  disagree : Nat
  refclk156 : Bool
  deriving DecidableEq, Repr

/-! ### The rate lock (chapter 02) -/

/-- One die's loop. `err` is the cumulative error E in units of 1/20 beat, so that every rate is exact (R36);
`history` holds the replica beats of the last 64 windows, newest first, and `age` the windows, to 64, since the loop was
last given a rate. -/
structure DieRate where
  trim : Nat
  err : Int
  history : List Nat
  age : Nat
  measured : Nat
  events : Nat
  ceiling : Bool
  floor : Bool
  locked : Bool
  shortRun : Nat
  entered : BitVec 64
  deriving DecidableEq, Repr

structure RateSt where
  rate : Nat
  relocking : Bool
  dies : AMap DieRate
  deriving DecidableEq, Repr

/-! ### The image (chapter 03) -/

/-- The shape of a partition (R30, R67). -/
structure Shape where
  dieRect : Bool
  die : Nat
  loRow : Nat
  hiRow : Nat
  loCol : Nat
  hiCol : Nat
  deriving DecidableEq, Repr

/-- TREE_SHAPE (R68). -/
structure TreeShape where
  order : Nat
  transfer : Nat
  rootPos : Nat
  modules : List Nat
  deriving DecidableEq, Repr

/-- ANL_REGIONS (R73). -/
structure AnlRegions where
  regions : Nat
  colours : Nat
  tag : BitVec 64
  vars : Nat
  regionOf : List Nat
  colourOf : List Nat
  deriving DecidableEq, Repr

/-- ENTROPY_CLIENTS (R76). -/
structure EntClients where
  ctxMode : Nat
  annMode : Nat
  noEntropyUs : Nat
  overrides : AMap Nat
  deriving DecidableEq, Repr

/-- What the image in force holds for one partition. -/
structure PartImage where
  shape : Shape
  defaultMode : Nat
  defaultBand : Nat
  tree : TreeShape
  regions : AnlRegions
  clients : EntClients
  owners : List Byte
  rescale : List Byte
  uprog : List Byte
  firmware : List Byte
  buildId : BitVec 128
  deriving DecidableEq, Repr

/-- A queue's entry of QUEUE_POLICY (R70). -/
structure QueuePol where
  part : Nat
  kernel : Bool
  priority : Nat
  residency : Option Nat
  deriving DecidableEq, Repr

/-- A slot's entry of QUEUE_POLICY (R70). -/
structure SlotPol where
  watchdogUs : Nat
  minPriority : Nat
  deriving DecidableEq, Repr

/-- A link's entry of LINK_TOPOLOGY (R72). -/
structure LinkTopo where
  peer : Nat
  peerLink : Nat
  maxLanes : Nat
  tree : Bool
  deriving DecidableEq, Repr

/-- The interleave mapping in force (R77, R78). -/
structure Interleave where
  policy : Nat
  keySource : Nat
  key : BitVec 128
  lat150 : Nat
  lat135 : Nat
  lat120 : Nat
  deriving DecidableEq, Repr

/-- The image in force. -/
structure ImageForce where
  moduleId : Nat
  domainSize : Nat
  clearHbm : Bool
  rate : Nat
  parts : AMap PartImage
  queues : AMap QueuePol
  slots : AMap SlotPol
  leader : Nat
  beaconParent : Option Nat
  links : AMap LinkTopo
  routes : AMap (BitVec 32)
  interleave : Interleave
  scalarFw : List Byte
  dispFw : List Byte
  buildId : BitVec 128
  deriving DecidableEq, Repr

/-- One section of a staged image (R61), as copied. -/
structure Section where
  kind : Nat
  sversion : Nat
  scope : Nat
  part : Nat
  flags : Nat
  resv : Nat
  plen : Nat
  hash : BitVec 384
  payload : List Byte
  padOk : Bool
  deriving DecidableEq, Repr

/-- A load that has passed its checks (R88). -/
structure PendingLoad where
  whole : Bool
  tag : BitVec 64
  bytes : Nat
  rate : Nat
  buildId : BitVec 128
  key : Option (BitVec 128)
  sections : List Section
  deriving DecidableEq, Repr

/-- A load that is being copied and checked: the PARTITION_MASK of its header, its slot, the source and
the command's LENGTH, and the bytes copied so far; `asked` says that a read of the source is outstanding. -/
structure LoadRun where
  mask : BitVec 64
  slot : Nat
  source : Nat
  length : Nat
  data : List PByte
  asked : Bool
  deriving DecidableEq, Repr

/-- A configuration block instance (R101). -/
inductive Inst where
  | fe
  | arr (n : Nat)
  | qnt (n : Nat)
  | vec (n : Nat)
  | anl (n : Nat)
  | ses (n : Nat)
  | core (c : Nat)
  | bank (c : Nat)
  | sync (c : Nat)
  | lnk
  | ent
  | mem
  | pwr
  | dev
  | dbg
  | hst
  deriving DecidableEq, Repr

/-- A commit past its mask check: its slot (none: the boot's own commit), its mask and the scopes it drains. `insts` are
the instances whose shadows it has taken, and whose ports hold writes until it completes; `applied`: its sections are in
force, and what it staged waits for the step boundaries of partitions that it does not drain (R90, R110). -/
structure CommitRun where
  slot : Option Nat
  mask : BitVec 64
  drains : List Nat
  rateChange : Bool
  relockWait : Bool
  applied : Bool
  insts : List Inst
  deriving DecidableEq, Repr

structure ImageSt where
  force : Option ImageForce
  established : Bool
  pending : List PendingLoad
  loading : Option LoadRun
  committing : Option CommitRun
  lastStatus : Nat
  lastStage : Nat
  lastSection : Nat
  fails : Nat
  commits : Nat
  deriving DecidableEq, Repr

/-! ### Configuration registers (chapter 04) -/

/-- One register's writable fields: the values in force, the last live values that arrived, the shadow copy, and the
snapshot of a commit that waits for its boundary (R99, R102, R104). -/
structure CfgCell where
  active : BitVec 64
  last : BitVec 64
  shadow : BitVec 64
  snap : Option (BitVec 64)
  deriving DecidableEq, Repr

/-- The configuration status of one instance (R105), and writes its port holds during an image commit (R110). -/
structure InstSt where
  inst : Inst
  frozenWrites : Nat
  lastOffset : Nat
  lastStatus : Nat
  seen : Bool
  commitPending : Bool
  pairFailed : Bool
  held : List (Nat × BitVec 64)
  deriving DecidableEq, Repr

/-! ### Errors and messages (chapter 20) -/

/-- One error counter register (R499). -/
structure ErrCtr where
  corrected : Nat
  uncorrectable : Nat
  protocol : Nat
  hard : Nat
  deriving DecidableEq, Repr

/-- The limit of R501 on one category field: the count at its last CROSSING and the crossings since. -/
structure Crossing where
  at_ : BitVec 64
  suppressed : Nat
  deriving DecidableEq, Repr

structure MsgSt where
  queue : List Rec
  seq : BitVec 32
  tail : BitVec 32
  head : BitVec 32
  lost : Nat
  lostSince : Nat
  msixDue : Bool
  msixAt : Option (BitVec 64)
  deriving DecidableEq, Repr

/-- A core retirement that quiesces its row's partitions (R510): the slot of its MIGRATE, none for one that the device
began, why it was begun, the count at its quiesce, and the partitions whose runs it has paused. `cause` is R504's. -/
structure RetireRun where
  slot : Option Nat
  core : Nat
  cause : Nat
  since : BitVec 64
  paused : List Nat
  deriving DecidableEq, Repr

structure ErrSt where
  counters : AMap ErrCtr
  crossings : AMap Crossing
  outageNs : Nat
  retirements : Nat
  noSpare : Nat
  takeovers : Nat
  feRepairs : Nat
  sensorOut : AMap Nat
  sensorAt : AMap (BitVec 64)
  retire : Option RetireRun
  deriving DecidableEq, Repr

/-! ### Stored data (chapter 18) -/

/-- What is wrong with one codeword: stored bit positions whose value differs from the encoded one, the poison mark,
a cell fault that a write-back does not mend, and the stack's severity report (R457, R458, R459, R467). -/
structure EccCell where
  flips : List Nat
  poison : Bool
  hard : Bool
  report : Nat
  deriving DecidableEq, Repr

structure StackCtr where
  corrected : Nat
  softPpr : Nat
  exhausted : Nat
  uncorrectable : Nat
  deriving DecidableEq, Repr

structure DieRepair where
  sramRepaired : Nat
  bankRepaired : Nat
  exhausted : Nat
  checkerFails : Nat
  deriving DecidableEq, Repr

/-- POISON_SEEN per unit (R465). -/
structure PoisonSeen where
  sentAt : Option (BitVec 64)
  marked : Nat
  first : Nat
  deriving DecidableEq, Repr

structure IntegritySt where
  ecc : AMap EccCell
  uncorrectable : Nat
  hbmCorrected : Nat
  sramCorrected : Nat
  scratchCorrected : Nat
  consumed : Nat
  moved : Nat
  stackCtrs : AMap StackCtr
  dies : AMap DieRepair
  pprLogged : AMap Nat
  sramSparesUsed : AMap Nat
  bankSparesUsed : AMap Nat
  stackSparesUsed : AMap Nat
  badCheckers : List Nat
  seen : AMap PoisonSeen
  hotChannel : Nat
  maxRatio : Nat
  imbalance : Nat
  deriving DecidableEq, Repr

/-! ### Core banks (chapter 14) -/

structure BankSt where
  refused : Nat
  dmaWaitMax : Nat
  testFails : Nat
  failBanks : BitVec 4
  region : List Nat
  wraps : List Nat
  passes : Nat
  deriving DecidableEq, Repr

/-! ### The command front end (chapter 13) -/

/-- A fetched command with what R101 says it keeps from the moment of its fetch. -/
structure Fetched where
  bits : CmdWord
  poison : Bool
  ringBad : Bool
  index : BitVec 64
  addr : Nat
  buf : Option ConstBuf
  bufPoison : Bool
  cq : Nat
  sigAddr : Nat
  stamp : Nat
  cancelled : Bool
  deriving DecidableEq, Repr

/-- An outstanding EVENT_WAIT (R353): its slot, or none when it is parked. -/
structure Wait where
  event : Nat
  target : BitVec 64
  deadline : Option (BitVec 64)
  seen : BitVec 64
  slot : Option Nat
  cmd : Fetched
  deriving DecidableEq, Repr

/-- `woken` says that a parked wait of the queue has been satisfied and that the queue has not been resident since (R341,
R353). -/
structure QueueSt where
  readIndex : BitVec 32
  writeIndex : BitVec 32
  fetchIndex : BitVec 64
  pending : Bool
  busy : Bool
  overruns : Nat
  dropped : Nat
  slot : Option Nat
  fetched : List Fetched
  readySince : Option (BitVec 64)
  woken : Bool
  ringBad : Bool
  resetDue : Bool
  reading : Option Nat
  deriving DecidableEq, Repr

/-- A record that waits for space in its completion ring (R359), with the signal write that follows it. -/
structure Hold where
  cq : Nat
  record : Rec
  slot : Option Nat
  queue : Nat
  signal : Option (Nat × BitVec 64)
  deriving DecidableEq, Repr

/-- Progress of a copy engine on a COPY, FILL, SCRUB, EXPORT or IMPORT. -/
structure CopyRun where
  issued : Nat
  src : Nat
  dst : Nat
  total : Nat
  done : Nat
  pattern : BitVec 64
  partly : Bool
  corrected : Nat
  newPoison : Nat
  oldPoison : Nat
  repaired : Nat
  firstUe : Option Nat
  refused : Nat
  deriving DecidableEq, Repr

/-- Progress of a graph (R351): the node that runs or comes next with its STOP_ON_ERROR, and what the nodes before it left. -/
structure GraphRun where
  node : Nat
  stop : Bool
  statuses : List Nat
  beats : Nat
  firstBad : Nat
  dropped : Nat
  skew : Nat
  deriving DecidableEq, Repr

/-- A slot. `reached` numbers the commands in the order in which they reached slots (R94). -/
structure SlotSt where
  queue : Option Nat
  reached : Nat
  cmd : Option Fetched
  state : Nat
  hangs : Nat
  progress : BitVec 64
  since : BitVec 64
  started : BitVec 64
  late : Bool
  memStall : Nat
  linkStall : Nat
  shortfall : Nat
  flags : List Nat
  param : Option (List PByte)
  paramDue : Bool
  copy : CopyRun
  graph : GraphRun
  deriving DecidableEq, Repr

structure CqSt where
  tail : BitVec 32
  head : BitVec 32
  ringBad : Bool
  fullHolds : Nat
  msixDue : Bool
  msixAt : Option (BitVec 64)
  deriving DecidableEq, Repr

/-- A fault capture (R363). -/
structure Capture where
  bits : CmdWord
  ringAddr : Nat
  queue : Nat
  slot : Nat
  status : Nat
  reason : Nat
  part : Nat
  seq : BitVec 16
  count : BitVec 64
  boots : BitVec 32
  blocks : List (BitVec 64)
  words : List (BitVec 64)
  deriving DecidableEq, Repr

/-- `dueEvents` are events that a signal write of the module's own has changed and whose waiters are not yet evaluated (R352,
R360). `watchFrom` is the count from which a takeover restarted every watchdog (R508). -/
structure FrontEnd where
  queues : AMap QueueSt
  slots : AMap SlotSt
  cqs : AMap CqSt
  events : AMap (BitVec 64)
  dueEvents : List Nat
  waits : AMap Wait
  holds : List Hold
  captures : AMap Capture
  captureCount : Nat
  captureNext : Nat
  lastQueue : Nat
  lastSeq : Nat
  deadlocks : Nat
  abandoned : Nat
  rejected : Nat
  dispatcher : Nat
  stamp : Nat
  heartbeat : BitVec 64
  watchFrom : Option (BitVec 64)
  deriving DecidableEq, Repr

/-! ### The host interface (chapter 21) -/

/-- Why the device reads through a host window or from a peer. -/
inductive ReadFor where
  | ring (q : Nat) (entries : Nat)
  | param (slot : Nat)
  | msix (ring : Nat)
  | copy (slot off : Nat)
  | image (off : Nat)
  deriving DecidableEq, Repr

/-- A device read that awaits its completion (R517) or its READ_RESP packets (R417). -/
structure DevRead where
  tag : Nat
  port : Nat
  addr : Nat
  bytes : Nat
  got : List PByte
  why : ReadFor
  deriving DecidableEq, Repr

structure PortSt where
  speed : Nat
  width : Nat
  flit : Bool
  up : Bool
  holes : Nat
  cplErrors : Nat
  urSent : Nat
  deriving DecidableEq, Repr

/-- One MSI-X table entry (R531) and its pending bit. -/
structure MsixEntry where
  addr : BitVec 64
  data : BitVec 32
  masked : Bool
  pending : Bool
  deriving DecidableEq, Repr

structure HostSt where
  ports : AMap PortSt
  barSize : Nat
  msix : AMap MsixEntry
  msixEnable : BitVec 2
  msixMask : BitVec 2
  winFaults : AMap Nat
  winBad : List Nat
  reads : List DevRead
  nextTag : Nat
  deriving DecidableEq, Repr

/-! ### Partitions at work: the field array and its scales (chapters 05 to 07) -/

/-- A long register (R148, R149): its value in units of 2^-96, RANGE, and the marks that travel with a sum (R138,
R160, R172). -/
structure LongReg where
  value : Int
  range : Bool
  poison : Bool
  skew : Bool
  invalid : Bool
  deriving DecidableEq, Repr

/-- What kind of operation holds a partition. -/
inductive OpKind where
  | array
  | drain
  | vector
  | anlLoad
  | anlRun
  | decode
  | graph
  | leaving
  deriving DecidableEq, Repr

/-- The operation in flight on a partition, with what R92 says it keeps from its first beat. -/
structure OpRun where
  slot : Nat
  kind : OpKind
  desc : BitVec 2048
  tree : Bool
  band64 : Bool
  table : List PByte
  status : Nat
  started : BitVec 64
  deriving DecidableEq, Repr

/-- ARR_STATUS (R146), the loaded tiles with the FORMAT in which the group column sums were taken (R121, R168), the beats after
an OPEN operation's completion until its last sum has left (R136), the mismatches whose marks stand in the root registers
(R172, as DETAIL has them), and what the long registers above the dies' bottom edges hold: the number of the free value that
the last operation left there, none when they are clear, and the cores cleared since (log entry 32). -/
structure ArrSt where
  dropped : Nat
  poisoned : Nat
  preloadRounded : Nat
  weightsValid : Bool
  isOpen : Bool
  tiles : AMap (List PByte)
  scaleTiles : AMap (List PByte)
  sumFormat : Nat
  inFlight : Nat
  skewed : Nat
  passed : Option Nat
  cleared : List Nat
  deriving DecidableEq, Repr

structure QntSt where
  skewed : Nat
  outOfWindow : Nat
  firstToken : Nat
  firstGroup : Nat
  seen : Bool
  deriving DecidableEq, Repr

/-- One partition: the slot whose command holds it, the operation in flight, and its array and scale status. -/
structure PartSt where
  holder : Option Nat
  armed : Bool
  op : Option OpRun
  arr : ArrSt
  qnt : QntSt
  launching : Bool
  lastDesc : Nat
  deriving DecidableEq, Repr
/-! ### Entropy sources and expanders (chapter 17) -/

/-- One physical source: BIAS_TRIM, BLOCKS, the run of equal raw bits, whether its start-up test has passed, whether a
capture holds it in the testing role, and the count from which its windows may feed the pool. -/
structure EntSource where
  trim : Nat
  blocks : Nat
  started : Bool
  testing : Bool
  lastBit : Bool
  runLen : Nat
  activeAt : BitVec 64
  deriving DecidableEq, Repr

/-- A CTR_DRBG instance (R447). -/
structure Drbg where
  key : BitVec 256
  v : BitVec 128
  calls : Nat
  deriving DecidableEq, Repr

/-- One expander client: its instance, and the user seed and run id of its last seeded instantiation (R451). -/
structure Client where
  drbg : Option Drbg
  seed : BitVec 256
  runId : BitVec 64
  deriving DecidableEq, Repr

/-- A RAW_CAPTURE that runs, of a physical source; `failed` says that the source has left service meanwhile (R452). -/
structure RawCapture where
  slot : Nat
  source : Nat
  bits : Nat
  dest : Nat
  failed : Bool
  deriving DecidableEq, Repr

structure EntSt where
  sources : AMap EntSource
  hashing : AMap (List Byte)
  pool : List Byte
  draws : List Nat
  keyDrawn : Option (BitVec 128)
  thaw : Bool
  switches : Nat
  noEntropyEnds : Nat
  rctFails : Nat
  aptFails : Nat
  startupFails : Nat
  biasFails : Nat
  clients : AMap Client
  capture : Option RawCapture
  deriving DecidableEq, Repr

/-! ### Annealing (chapters 09 to 11) -/

/-- One constraint as loaded: b, the slack limit and the penalty weight (R220). -/
structure Constr where
  b : Int
  sigmaMax : Nat
  lambda : Nat
  deriving DecidableEq, Repr

/-- A problem as it is loaded: what the registers and the fixed part of the stores hold. Couplings and memberships
lie in stacked SRAM (R224, R226); `degrees` and `members` are the lengths of the lists there. -/
structure AnlProb where
  dense : Bool
  qubo : Bool
  int4 : Bool
  n : Nat
  nc : Nat
  jscale : Nat
  tag : BitVec 64
  base : Nat
  bytes : Nat
  e0 : Int
  offset : Int
  bound : Int
  spins0 : List Bool
  sigma0 : List Nat
  degrees : List Nat
  members : List Nat
  lin : List Int
  constrs : List Constr
  deriving DecidableEq, Repr

/-- The changing part of a problem (R218): spins (true: +1), fields g, row sums r, slacks and E. -/
structure AnlVars where
  spins : List Bool
  g : List Int
  r : List Int
  sigma : List Nat
  energy : Int
  deriving DecidableEq, Repr

/-- A load between its check pass and the end of its build pass (R231). -/
structure AnlLoad where
  slot : Nat
  desc : Nat
  base : Nat
  bytes : Nat
  deriving DecidableEq, Repr

/-- A steering command that waits for a step boundary (R279). -/
inductive Steer where
  | pause (slot : Nat)
  | resume (slot : Nat)
  | frost (slot : Nat)
  | read (slot : Nat)
  deriving DecidableEq, Repr

/-- The split table of a run over several modules (R296). -/
structure Split where
  modules : Nat
  leader : Nat
  epoch : Bool
  epochSteps : Nat
  nOwn : Nat
  beats : Nat
  timeoutUs : Nat
  key : BitVec 64
  domainTrace : Nat
  ghosts : List (Nat × Nat)
  exports : List (Nat × Nat × Nat)
  deriving DecidableEq, Repr

/-- Counts since the last trace record (R287). -/
structure TraceCounts where
  accepted : Nat
  withdrawn : Nat
  stale : Nat
  nulls : Nat
  ghosts : Nat
  newBest : Bool
  deriving DecidableEq, Repr

/-- A curve record in force (R260), with the step from which its index counts and G's index and value (R261). -/
structure Curve where
  bytes : List Byte
  addr : Nat
  n0 : Nat
  gIndex : Nat
  gValue : Nat
  deriving DecidableEq, Repr

/-- The state of a run in a multi-module problem (R297 to R299). `moved` holds the flips of the last step that were not
stale within the module (R252, R297), `lastDomain` the leader's domain record written last, and `since` the count at
which the present wait at a sync point began (R302). -/
structure SplitRun where
  table : Split
  lastSent : List Bool
  setupDone : Bool
  waiting : Bool
  quiet : Bool
  pendSpins : List Bool
  pendSigma : List Nat
  pendStep : Nat
  pendE : Int
  domainBest : Option Int
  promote : Bool
  endNext : Nat
  pauseNext : Bool
  resumeNext : Bool
  frostNext : Bool
  noticed : Bool
  pausedPeers : List Nat
  domainE : Int
  domainRecords : Nat
  moved : List Nat
  lastDomain : List Byte
  since : BitVec 64
  deriving DecidableEq, Repr

/-- A run between its start and its end (chapter 11). -/
structure AnlRun where
  slot : Nat
  state : Nat
  desc : BitVec 1024
  steps : Nat
  curve : Curve
  newCurve : Bool
  frost : Bool
  frostNext : Bool
  steer : List Steer
  temp : Nat
  phase : Nat
  clamp : List Bool
  coloured : Bool
  bestE : Option Int
  bestStep : Nat
  bestSpins : List Bool
  bestSigma : List Nat
  counts : TraceCounts
  records : Nat
  lastRecord : Option (Nat × List Byte)
  samples : Nat
  lost : Nat
  workBeats : Nat
  ended : Nat
  held : Bool
  drawn : AMap (List Byte)
  seed : List Byte
  image : List Byte
  split : Option SplitRun
  deriving DecidableEq, Repr

/-- One partition's annealer: problem, registers of R234, R235, R272 to R274, R305 and R306, and the run. -/
structure AnlSt where
  prob : Option AnlProb
  vars : AnlVars
  loading : Option AnlLoad
  lastCheck : Nat
  fenceRefused : Nat
  loads : Nat
  fails : Nat
  failIndex : Nat
  run : Option AnlRun
  temp : Nat
  phase : Nat
  colourPhase : Nat
  curveRejected : Nat
  lastCurveFail : Nat
  colourIgnored : Bool
  policy : Nat
  residence : Nat
  withdrawn : Nat
  stale : Nat
  nulls : Nat
  steps : Nat
  energy : Int
  best : Int
  clipped : Bool
  lastEnd : Nat
  traceLost : Nat
  runs : Nat
  syncPoints : Nat
  lastWait : Nat
  last : Option AnlRun
  deriving DecidableEq, Repr

/-! ### Sessions (chapter 12) -/

/-- One session entry (R307); `state` 0 free, 1 cold, 2 hot, 3 moving. -/
structure SessSt where
  state : Nat
  priv : Bool
  seeded : Bool
  lost : Bool
  part : Nat
  hotSlot : Nat
  epoch : BitVec 16
  staleDrops : Nat
  modelAddr : BitVec 64
  coldAddr : BitVec 64
  context : Nat
  ctxMax : Nat
  perToken : Nat
  lastToken : Nat
  tokens : BitVec 64
  steps : BitVec 64
  userTag : BitVec 64
  deriving DecidableEq, Repr

/-- An entry of a DECODE in flight (R320, R321): its session, the captured epoch, its checked status,
and the session's place, context and last token at the first beat. -/
structure DecEntry where
  bits : BitVec 128
  session : Nat
  epoch : BitVec 16
  status : Nat
  hotPart : Nat
  hotSlot : Nat
  context : Nat
  lastToken : Nat
  deriving DecidableEq, Repr

/-- A DECODE in flight on a partition. -/
structure DecRun where
  slot : Nat
  result : Nat
  model : List Byte
  entries : List DecEntry
  deriving DecidableEq, Repr

/-- A session move that copies (R316, R317, R327), or a command that waits for DECODEs to drain. -/
structure MoveRun where
  slot : Option Nat
  session : Nat
  kind : Nat
  copying : Bool
  toPart : Nat
  toSlot : Nat
  fromPart : Nat
  fromSlot : Nat
  model : BitVec 64
  hot : Bool
  drainFirst : Bool
  deriving DecidableEq, Repr

/-- SES_STATUS_n's counters (R332). -/
structure SesPart where
  stale : Nat
  moves : Nat
  lost : Nat
  deriving DecidableEq, Repr

structure SesSt where
  table : AMap SessSt
  latch : Option (Nat × List (BitVec 64))
  decs : AMap DecRun
  moves : List MoveRun
  parts : AMap SesPart
  deriving DecidableEq, Repr

/-! ### Equinox barriers and counters (chapter 15) -/

/-- Barrier state (R386, R403). -/
structure BarSt where
  sense : Bool
  arrived : Nat
  round : Nat
  overs : Nat
  hostArrivals : Nat
  deriving DecidableEq, Repr

/-- Counter state (R395, R405). -/
structure CtrSt where
  produced : BitVec 32
  consumed : BitVec 32
  deriving DecidableEq, Repr

structure SyncStatus where
  overs : Nat
  drifts : Nat
  abandoned : Nat
  faults : Nat
  refused : Nat
  lastDrift : BitVec 64
  deriving DecidableEq, Repr

/-- What a context of a scalar controller waits for (R386, R396). -/
inductive CtxWait where
  | bar (core bar : Nat) (sense : Bool)
  | data (ctr n : Nat)
  | space (ctr n : Nat)
  deriving DecidableEq, Repr

/-- A hardware context: its local senses that are not 0, by core * 32 + barrier of the home; what it waits for; the mark
its wake or refusal left (0 none, 1 woken, 2 refused, 3 abandoned, 4 a refusal is on its way, 5 woken with a refusal on
its way); whether the release of the round it waits for is on its way (R388); and whether the sync unit still holds its
announce (R393). -/
structure CtxSt where
  senses : List Nat
  wait : Option CtxWait
  mark : Nat
  owed : Bool
  held : Bool
  deriving DecidableEq, Repr

/-- Objects, contexts, and the last release that another module's barrier sent, by barrier name (R388). -/
structure SyncSt where
  bars : AMap BarSt
  ctrs : AMap CtrSt
  status : AMap SyncStatus
  ctxs : AMap CtxSt
  remoteReleases : List (Nat × Bool)
  deriving DecidableEq, Repr

/-! ### The vector unit (chapter 08) -/

/-- VEC_STATUS_n (R213), the cores whose URAND holds for entropy, and the URAND outputs that the operation in flight
has drawn so far, by core (R209). -/
structure VecSt where
  poisonLanes : Nat
  cvtRange : Nat
  nanQuant : Nat
  suppressed : Nat
  entropyWait : Bool
  waiting : List Nat
  rand : AMap (List (List Byte))
  deriving DecidableEq, Repr
/-! ### Amiok links (chapter 16) -/

/-- A data packet (R414): its header's fields and its bytes, each with its poison mark. `slot` is the command that
sent it, for the LINK_DOWN of R423. -/
structure Packet where
  typ : Nat
  dst : Nat
  src : Nat
  seq : Nat
  addr : Nat
  len : Nat
  offset : Nat
  tag : Nat
  inline : BitVec 64
  data : List PByte
  slot : Option Nat
  deriving DecidableEq, Repr

/-- One link (R408 to R413, R421, R422, R431 to R433). Flits are 512-bit words; the transmit queues and the receive
buffers are first in, first out. -/
structure LinkSt where
  state : Nat
  peerModule : Nat
  peerLink : Nat
  peerDomain : Nat
  peerLeader : Nat
  laneMask : Nat
  everUp : Bool
  trained : Bool
  trainers : List Nat
  txSeq : BitVec 32
  rxSeq : BitVec 32
  unacked : List (BitVec 32 × List Byte)
  resend : List (List Byte)
  resends : List Nat
  nakDue : Bool
  degradeReq : Option Nat
  switchAt : Option (BitVec 32 × Nat)
  switchOurs : Bool
  creditData : Nat
  creditResp : Nat
  creditSync : Nat
  creditMgmt : Nat
  freedData : Nat
  freedResp : Nat
  freedSync : Nat
  freedMgmt : Nat
  txData : List (List (BitVec 512))
  txResp : List (List (BitVec 512))
  txCur : List (BitVec 512)
  txSync : List (BitVec 512)
  txMgmt : List (BitVec 512)
  rxData : List (BitVec 512)
  rxSync : List (BitVec 512)
  rxMgmt : List (BitVec 512)
  reqOut : Option (BitVec 64 × Nat)
  reqIn : List (BitVec 64 × Nat)
  crcFails : Nat
  replays : Nat
  fecUnc : Nat
  retrains : Nat
  degrades : Nat
  fec : BitVec 64
  delay : Nat
  stallNs : BitVec 64
  formatDrops : Nat
  routeDrops : Nat
  deriving DecidableEq, Repr

/-- What a source keeps of the packets it sends to one module (R415): of each one not yet released, oldest first, the
slot that sent it (R393). -/
structure PairTx where
  next : BitVec 16
  unreleased : Nat
  sent : List (Option Nat)
  waiting : List Packet
  deriving DecidableEq, Repr

/-- What a destination keeps of the packets of one module (R415): the sequence it releases next, the reorder window,
and the released packets that no RELEASED has named. -/
structure PairRx where
  next : BitVec 16
  window : List Packet
  announce : List Packet
  unreported : Nat
  deriving DecidableEq, Repr

/-- A packet held for want of an up link (R423), since which count. -/
structure HeldPacket where
  pkt : Packet
  since : BitVec 64
  via : Option Nat
  deriving DecidableEq, Repr

/-- A multicast transfer at its source (R426, R427). -/
structure McastTx where
  group : Nat
  id : BitVec 32
  members : BitVec 64
  granted : BitVec 64
  sent : Bool
  offset : Nat
  data : List PByte
  slot : Option Nat
  owner : Nat
  deriving DecidableEq, Repr

structure McastCtr where
  transfers : Nat
  retried : Nat
  refused : Nat
  deriving DecidableEq, Repr

/-- A LINK_CONFIG PRBS_TEST that runs. -/
structure PrbsRun where
  slot : Nat
  links : List Nat
  dest : Nat
  deriving DecidableEq, Repr

structure LinksSt where
  links : AMap LinkSt
  tx : AMap PairTx
  rx : AMap PairRx
  held : List HeldPacket
  routeLost : BitVec 64
  mcast : List McastTx
  buffers : List (Nat × BitVec 32 × Nat)
  reserves : List (Nat × BitVec 32 × Nat)
  nextId : BitVec 32
  groups : AMap McastCtr
  prbs : Option PrbsRun
  deriving DecidableEq, Repr

/-! ### March mode, replay and debug (chapter 19) -/

/-- One partition in March (R483 to R486): the windows closed, the running signatures of its cores, its own and the
peer's window records that wait, and the final window. -/
structure MarchPart where
  window : Nat
  sigs : AMap Nat
  own : List (Nat × List (BitVec 64))
  peer : List (Nat × List (BitVec 64))
  final : Option Nat
  disarm : Bool
  deriving DecidableEq, Repr

/-- An ARM or DISARM that waits (R482, R486). -/
structure MarchWait where
  slot : Nat
  disarm : Bool
  mask : BitVec 64
  sent : Bool
  deriving DecidableEq, Repr

structure MarchSt where
  peerModule : Nat
  state : Nat
  key : BitVec 64
  parts : AMap MarchPart
  waits : List MarchWait
  window : Nat
  firstCore : Nat
  cores : Nat
  part : Nat
  localSigs : List (BitVec 64)
  peerSigs : List (BitVec 64)
  deriving DecidableEq, Repr

/-- Record and replay (R487 to R489): `log` is the log's bytes, `bad` the positions of poisoned
ones; `cursors` are the bytes consumed per partition, `partly` what the next STOP reports. -/
structure ReplaySt where
  state : Nat
  overflow : Bool
  ignored : Nat
  seq : BitVec 32
  mask : BitVec 64
  kinds : BitVec 64
  ranges : List (Nat × Nat)
  log : List Byte
  bad : List Nat
  partly : Bool
  beats : AMap Nat
  cursors : AMap Nat
  fetches : AMap (List (List Byte))
  admits : AMap (List Nat)
  entropy : AMap (List (List Byte))
  hostReads : List (Nat × List Byte)
  deriving DecidableEq, Repr

structure DbgSt where
  peekBusy : Bool
  peekPoison : Bool
  peekFault : Bool
  peekAddr : BitVec 64
  peekData : List (BitVec 64)
  jtagData : BitVec 64
  halted : AMap Nat
  drained : AMap Nat
  perf : AMap (BitVec 48)
  march : MarchSt
  replay : ReplaySt
  deriving DecidableEq, Repr
/-- What the block gives its surroundings, newest first (log entry 6). -/
inductive Output where
  | hostWrite (port : Nat) (addr : Nat) (data : List PByte) (relaxed noSnoop : Bool)
  | hostRead (tag port addr bytes : Nat) (noSnoop : Bool)
  | readData (data : List PByte)
  | unsupported (port : Nat)
  | msix (port : Nat) (addr : BitVec 64) (data : BitVec 32)
  | configRetry (port : Nat)
  | configDone (port : Nat)
  | i3cData (value : BitVec 64)
  | syncPulse (count : BitVec 64)
  | linkFrame (link : Nat) (lanes : List (BitVec 5440))
  | anlShare (part dest : Nat) (share : Share)
  | anlDoubled (part dest : Nat) (doubled : Int)
  | marchArm (peer : Nat) (key mask : BitVec 64) (parts : List (Nat × BitVec 128 × Nat))
  | arraySums (part : Nat) (sums : List RemoteSum)
  | marchRecord (peer part window : Nat) (sigs : List (BitVec 64)) (final : Bool)
  deriving DecidableEq, Repr

/-! ### Faults, refusals and the whole state -/

/-- Why a step stops with a fault. -/
inductive Fault where
  /-- No command raises it: the spec gives every command an effect (R496: the device does not stop itself for an
  error). It stands here so that the reasons form a closed type; raising it would be safe. -/
  | never
  deriving DecidableEq, Repr

/-- Why a step refuses a command. -/
inductive Refusal where
  /-- A command of the table that has no meaning yet, by its mnemonic; raised by the arms of exec only; safe. -/
  | notModelled (mnemonic : String)
  deriving DecidableEq, Repr

/-- The module. `pending` is the queue of commands that wait, first in, first out; `fresh` counts the free values
taken so far and `out` lists what the block has given its surroundings, newest first: these three are the model's own
fields (log entries 3, 4 and 6). -/
structure State where
  pending : List Instr
  fresh : Nat
  out : List Output
  fuse : FuseSt
  power : PowerSt
  time : TimeSt
  rate : RateSt
  image : ImageSt
  cfg : AMap CfgCell
  insts : List InstSt
  err : ErrSt
  msg : MsgSt
  mem : List Host.Cell
  integ : IntegritySt
  banks : AMap BankSt
  fe : FrontEnd
  host : HostSt
  parts : AMap PartSt
  longs : AMap LongReg
  ent : EntSt
  anl : AMap AnlSt
  ses : SesSt
  sync : SyncSt
  vec : AMap VecSt
  net : LinksSt
  dbg : DbgSt
  deriving DecidableEq, Repr

/-- The module right after a cold start (R538, R546): every field at the value the spec gives it, and the stored and
fused values as log entry 2 names them. -/
def State.reset : State where
  pending := []
  fresh := 0
  out := []
  fuse := { grade := .af, stepping := 0xA1#8, rows := [], entFused := 0xFFFFFFFF#32, entGood := 0xFFFFFFFF#32,
            dispFused := 3#2, dispGood := 3#2,
            slots := [(0, { programmed := true, revoked := false, hash := 0#384 })], minSvn := 0 }
  power := { standby := true, mainGood := false, state := 0, bootStep := 0, romCopy := false, wakes := 0,
             lastReset := 0, lastOff := 0, coldBoot := true, perst := false, waiting := [],
             promoted := 0, bootTime := 0#64 }
  time := { count := 0#64, boots := 1#32, exhausted := false, lowLatch := none, snapVal := 0#64, snapTag := 0#64,
            stepSize := 0#64, align := 0, leader := 0, hops := 0, steps := 0, offset := 0#24, goodBeacons := 0,
            lastBeacon := 0#64, steer := 0, steerAcc := 0, parent := none, parentFresh := false, reRooted := false,
            relayed := (0, 0#64), periodBest := none, capture := 0#64, disagree := 0, refclk156 := true }
  rate := { rate := 0, relocking := true, dies := [] }
  image := { force := none, established := false, pending := [], loading := none,
             committing := none, lastStatus := 0, lastStage := 0, lastSection := 0, fails := 0, commits := 0 }
  cfg := []
  insts := []
  err := { counters := [], crossings := [], outageNs := 0, retirements := 0, noSpare := 0, takeovers := 0,
           feRepairs := 0, sensorOut := [], sensorAt := [], retire := none }
  msg := { queue := [], seq := 0#32, tail := 0#32, head := 0#32, lost := 0, lostSince := 0, msixDue := false,
           msixAt := none }
  mem := []
  integ := { ecc := [], uncorrectable := 0, hbmCorrected := 0, sramCorrected := 0, scratchCorrected := 0,
             consumed := 0, moved := 0, stackCtrs := [], dies := [], pprLogged := [], sramSparesUsed := [],
             bankSparesUsed := [], stackSparesUsed := [], badCheckers := [], seen := [], hotChannel := 0, maxRatio := 0, imbalance := 0 }
  banks := []
  fe := { queues := [], slots := [], cqs := [], events := [], dueEvents := [], waits := [], holds := [], captures := [],
          captureCount := 0, captureNext := 0, lastQueue := 0, lastSeq := 0, deadlocks := 0, abandoned := 0,
          rejected := 0, dispatcher := 0, stamp := 0, heartbeat := 0#64, watchFrom := none }
  host := { ports := [], barSize := 0, msix := [], msixEnable := 0#2, msixMask := 0#2, winFaults := [], winBad := [], reads := [],
            nextTag := 0 }
  parts := []
  longs := []
  ent := { sources := [], hashing := [], pool := [], draws := [], keyDrawn := none, thaw := true, switches := 0,
           noEntropyEnds := 0, rctFails := 0, aptFails := 0, startupFails := 0, biasFails := 0, clients := [],
           capture := none }
  anl := []
  ses := { table := [], latch := none, decs := [], moves := [], parts := [] }
  sync := { bars := [], ctrs := [], status := [], ctxs := [], remoteReleases := [] }
  vec := []
  net := { links := [], tx := [], rx := [], held := [], routeLost := 0#64, mcast := [], buffers := [], reserves := [], nextId := 0#32,
           groups := [], prbs := none }
  dbg := { peekBusy := false, peekPoison := false, peekFault := false, peekAddr := 0#64, peekData := [], jtagData := 0#64, halted := [],
           drained := [], perf := [],
           march := { peerModule := 0, state := 0, key := 0#64, parts := [], waits := [], window := 0, firstCore := 0,
                      cores := 0, part := 0, localSigs := [], peerSigs := [] },
           replay := { state := 0, overflow := false, ignored := 0, seq := 0#32, mask := 0#64, kinds := 0#64,
                       ranges := [], log := [], bad := [], partly := false, beats := [], cursors := [], fetches := [], admits := [],
                       entropy := [], hostReads := [] } }

end Sys2Proof.Machine
end

