-- ==== Sys2Proof/Machine/Ops.lean ====
section
/-!
DEFINITION. Sys2Proof/Machine/Ops.lean: the named operations over the state's parts: sparse maps, the accessors of the
numbered components with their reset values, free values, outputs, messages (R502, R503) and error counters (R499 to
R501).
-/
namespace Sys2Proof.Machine

/-! ### Sparse maps -/

/-- The entry of key k, if it is listed. -/
def mfind {α : Type} : AMap α → Nat → Option α
  | [], _ => none
  | (i, v) :: m, k => if i = k then some v else mfind m k

/-- The component of key k, d when it is not listed. -/
def mget {α : Type} (d : α) (m : AMap α) (k : Nat) : α := (mfind m k).getD d

/-- The map without key k. -/
def mdel {α : Type} : AMap α → Nat → AMap α
  | [], _ => []
  | (i, v) :: m, k => if i = k then mdel m k else (i, v) :: mdel m k

/-- The map with (k, v) inserted in key order, in place of any entry of k. -/
def mins {α : Type} : AMap α → Nat → α → AMap α
  | [], k, v => [(k, v)]
  | (i, x) :: m, k, v =>
    if k < i then (k, v) :: (i, x) :: m
    else if i = k then (k, v) :: m
    else (i, x) :: mins m k v

/-- The component of key k set to v: no entry stands for the reset value d. -/
def mput {α : Type} [DecidableEq α] (d : α) (m : AMap α) (k : Nat) (v : α) : AMap α :=
  if v = d then mdel m k else mins m k v

/-! ### Numbered components and their reset values -/

def queue0 : QueueSt where
  readIndex := 0#32
  writeIndex := 0#32
  fetchIndex := 0#64
  pending := false
  busy := false
  overruns := 0
  dropped := 0
  slot := none
  fetched := []
  readySince := none
  woken := false
  ringBad := false
  resetDue := false
  reading := none

def copy0 : CopyRun where
  issued := 0
  src := 0
  dst := 0
  total := 0
  done := 0
  pattern := 0#64
  partly := false
  corrected := 0
  newPoison := 0
  oldPoison := 0
  repaired := 0
  firstUe := none
  refused := 0

def graph0 : GraphRun where
  node := 0
  stop := false
  statuses := []
  beats := 0
  firstBad := 0xFFFF
  dropped := 0
  skew := 0

def slot0 : SlotSt where
  queue := none
  reached := 0
  cmd := none
  state := 0
  hangs := 0
  progress := 0#64
  since := 0#64
  started := 0#64
  late := false
  memStall := 0
  linkStall := 0
  shortfall := 0
  flags := []
  param := none
  paramDue := false
  copy := copy0
  graph := graph0

def cq0 : CqSt where
  tail := 0#32
  head := 0#32
  ringBad := false
  fullHolds := 0
  msixDue := false
  msixAt := none

def bank0 : BankSt where
  refused := 0
  dmaWaitMax := 0
  testFails := 0
  failBanks := 0#4
  region := [0, 0, 0, 0]
  wraps := [0, 0, 0, 0]
  passes := 0

def errCtr0 : ErrCtr where
  corrected := 0
  uncorrectable := 0
  protocol := 0
  hard := 0

def port0 : PortSt where
  speed := 0
  width := 0
  flit := false
  up := false
  holes := 0
  cplErrors := 0
  urSent := 0

/-- An MSI-X entry after reset is masked, as PCIe lays down (PRESUMED, log entry 9). -/
def msixEntry0 : MsixEntry where
  addr := 0#64
  data := 0#32
  masked := true
  pending := false

def dieRate0 : DieRate where
  trim := 0x30
  err := 0
  history := []
  age := 0
  measured := 0
  events := 0
  ceiling := false
  floor := false
  locked := false
  shortRun := 0
  entered := 0#64

def stackCtr0 : StackCtr where
  corrected := 0
  softPpr := 0
  exhausted := 0
  uncorrectable := 0

def dieRepair0 : DieRepair where
  sramRepaired := 0
  bankRepaired := 0
  exhausted := 0
  checkerFails := 0

def poisonSeen0 : PoisonSeen where
  sentAt := none
  marked := 0
  first := 0

def rowMap0 : RowMap where
  fail0 := none
  fail1 := none
  retired := []

def keySlot0 : KeySlot where
  programmed := false
  revoked := false
  hash := 0#384

/-- A queue that QUEUE_POLICY does not name is disabled. -/
def queuePol0 : QueuePol where
  part := 0xFF
  kernel := false
  priority := 0
  residency := none

def slotPol0 : SlotPol where
  watchdogUs := 0
  minPriority := 0

def queueOf (s : State) (q : Nat) : QueueSt := mget queue0 s.fe.queues q
def slotOf (s : State) (k : Nat) : SlotSt := mget slot0 s.fe.slots k
def cqOf (s : State) (c : Nat) : CqSt := mget cq0 s.fe.cqs c
def bankOf (s : State) (c : Nat) : BankSt := mget bank0 s.banks c
def portOf (s : State) (p : Nat) : PortSt := mget port0 s.host.ports p
def dieRateOf (s : State) (d : Nat) : DieRate := mget dieRate0 s.rate.dies d
def stackOf (s : State) (k : Nat) : StackCtr := mget stackCtr0 s.integ.stackCtrs k
def dieRepairOf (s : State) (d : Nat) : DieRepair := mget dieRepair0 s.integ.dies d
def rowMapOf (s : State) (n : Nat) : RowMap := mget rowMap0 s.fuse.rows n
def keySlotOf (s : State) (k : Nat) : KeySlot := mget keySlot0 s.fuse.slots k
def eventOf (s : State) (e : Nat) : BitVec 64 := mget 0#64 s.fe.events e

def setQueue (s : State) (q : Nat) (v : QueueSt) : State :=
  { s with fe := { s.fe with queues := mput queue0 s.fe.queues q v } }
def setSlot (s : State) (k : Nat) (v : SlotSt) : State :=
  { s with fe := { s.fe with slots := mput slot0 s.fe.slots k v } }
def setCq (s : State) (c : Nat) (v : CqSt) : State :=
  { s with fe := { s.fe with cqs := mput cq0 s.fe.cqs c v } }
def setBank (s : State) (c : Nat) (v : BankSt) : State := { s with banks := mput bank0 s.banks c v }
def setPort (s : State) (p : Nat) (v : PortSt) : State :=
  { s with host := { s.host with ports := mput port0 s.host.ports p v } }
def setDieRate (s : State) (d : Nat) (v : DieRate) : State :=
  { s with rate := { s.rate with dies := mput dieRate0 s.rate.dies d v } }
def setStack (s : State) (k : Nat) (v : StackCtr) : State :=
  { s with integ := { s.integ with stackCtrs := mput stackCtr0 s.integ.stackCtrs k v } }
def setDieRepair (s : State) (d : Nat) (v : DieRepair) : State :=
  { s with integ := { s.integ with dies := mput dieRepair0 s.integ.dies d v } }
def setRowMap (s : State) (n : Nat) (v : RowMap) : State :=
  { s with fuse := { s.fuse with rows := mput rowMap0 s.fuse.rows n v } }
def setEvent (s : State) (e : Nat) (v : BitVec 64) : State :=
  { s with fe := { s.fe with events := mput 0#64 s.fe.events e v } }

/-! ### What only supplies, boot and resets change -/

/-- t with the queue, the fused values, the counts and the power state of s: nothing but what those parts of the model do
changes them (R2, R25, R47, R49, R537), and this says so by construction. -/
def keepSupply (s t : State) : State :=
  { t with
    pending := s.pending
    fuse := { t.fuse with grade := s.fuse.grade, stepping := s.fuse.stepping, entFused := s.fuse.entFused, dispFused := s.fuse.dispFused }
    time := { t.time with count := s.time.count, boots := s.time.boots, exhausted := s.time.exhausted }
    power := { s.power with waiting := t.power.waiting, promoted := t.power.promoted } }

/-! ### Free values, outputs -/

/-- The next value that the spec leaves open, below 2^w. -/
def takeFree (s : State) (w : Nat) : Nat × State :=
  (Config.freeValue s.fresh % 2 ^ w, { s with fresh := s.fresh + 1 })

/-- The block gives o to its surroundings. -/
def emit (s : State) (o : Output) : State := { s with out := o :: s.out }

/-! ### Time -/

/-- ns of the Solstice count since an earlier count (R47). -/
def sinceCount (s : State) (t : BitVec 64) : Nat := (s.time.count - t).toNat

/-! ### Messages (R502, R503) -/

/-- A message record without its PHASE and LOST, which the ring fills in. `body` holds bytes 20 to 31. -/
def msgRec (s : State) (typ sub arg body : Nat) : Rec :=
  BitVec.ofNat 256 (put typ 7 0 + put sub 15 8 + put arg 31 24 + put s.msg.seq.toNat 63 32
    + put s.time.count.toNat 127 64 + put s.time.boots.toNat 159 128 + put body 255 160)

/-- A message arises: it takes its SEQ as the on-device queue accepts it, or is dropped when 64 wait (R502). -/
def sendMsg (s : State) (typ sub arg body : Nat) : State :=
  if s.msg.queue.length < 64 then
    { s with msg := { s.msg with queue := s.msg.queue ++ [msgRec s typ sub arg body], seq := s.msg.seq + 1#32 } }
  else
    { s with msg := { s.msg with lost := satTo 16 (s.msg.lost + 1), lostSince := s.msg.lostSince + 1 } }

/-- Byte b of a message's body (20 .. 31), w bytes wide. -/
def msgAt (b w v : Nat) : Nat := put v (8 * (b - 20) + 8 * w - 1) (8 * (b - 20))

/-! ### Error counters (R499, R500, R501) -/

/-- The keys of the counter registers: a core's flat index, a die, a module unit. -/
def errCore (c : Nat) : Nat := c
def errDie (d : Nat) : Nat := 4096 + d
def errUnit (u : Nat) : Nat := 8192 + u
def errHbm : Nat := errUnit 0
def errLink : Nat := errUnit 1
def errFe : Nat := errUnit 2
def errHost : Nat := errUnit 3
def errConfig : Nat := errUnit 4
def errLockstep : Nat := errUnit 5

/-- The level and unit that an ERROR_THRESHOLD message names (R504). -/
def errLevel (key : Nat) : Nat := if key < 4096 then 0 else if key < 8192 then 1 else 2
def errUnitNo (key : Nat) : Nat := key % 4096

/-- The categories of R499, in order. -/
def catCorrected : Nat := 0
def catUncorrectable : Nat := 1
def catProtocol : Nat := 2
def catHard : Nat := 3

def errCtrOf (s : State) (key : Nat) : ErrCtr := mget errCtr0 s.err.counters key

def catField (c : ErrCtr) (cat : Nat) : Nat :=
  match cat with
  | 0 => c.corrected
  | 1 => c.uncorrectable
  | 2 => c.protocol
  | _ => c.hard

def setCat (c : ErrCtr) (cat v : Nat) : ErrCtr :=
  match cat with
  | 0 => { c with corrected := v }
  | 1 => { c with uncorrectable := v }
  | 2 => { c with protocol := v }
  | _ => { c with hard := v }

/-- The value in force of the register at BAR0 offset off, `d` being its reset value (R102). -/
def regActive (s : State) (off d : Nat) : Nat :=
  match mfind s.cfg off with
  | some c => c.active.toNat
  | none => d

/-! ### Performance counters (R494, R495) -/

def perfFrozen (s : State) : Bool := bitOf (regActive s 0x00D00000 0) 0

/-- A counter of the performance set, by its BAR0 offset, advances and wraps. -/
def perfAdd (s : State) (off n : Nat) : State :=
  if perfFrozen s then s
  else { s with dbg := { s.dbg with perf := mput 0#48 s.dbg.perf off (mget 0#48 s.dbg.perf off + BitVec.ofNat 48 n) } }

def perfCore (c k : Nat) : Nat := 0x00D10000 + 0x40 * c + 8 * k
def perfDie (d k : Nat) : Nat := 0x00D01000 + 0x40 * d + 8 * k

/-! ### Errors -/

/-- DEV_ERR_THRESH's reset value (R501). -/
def errThreshReset : Nat := 0x1000000101000001

/-- The threshold of a category (R501). -/
def threshold (s : State) (cat : Nat) : Nat :=
  let v := regActive s 0x4000 errThreshReset
  fld v (63 - 16 * cat) (48 - 16 * cat)

/-- ERROR_THRESHOLD CROSSING of one category field, which opens the field's span of 2^20 ns (R501). -/
def sendCrossing (s : State) (key cat suppressed : Nat) : State :=
  let s1 := sendMsg s 0x01 0x01 (errLevel key)
    (msgAt 20 2 (errUnitNo key) + msgAt 22 1 cat + msgAt 24 2 (catField (errCtrOf s key) cat)
      + msgAt 26 2 (satTo 16 suppressed))
  { s1 with err := { s1.err with crossings := mins s1.err.crossings (4 * key + cat) { at_ := s1.time.count, suppressed := 0 } } }

/-- One fault adds 1 to one field of one counter, saturating, and crosses its threshold (R500, R501). -/
def countErr (s : State) (key cat : Nat) : State :=
  let c := errCtrOf s key
  let v := satTo 16 (catField c cat + 1)
  let s1 := { s with err := { s.err with counters := mput errCtr0 s.err.counters key (setCat c cat v) } }
  let t := threshold s cat
  if catField c cat = v ∨ t = 0 ∨ v % t ≠ 0 then s1
  else
    match mfind s1.err.crossings (4 * key + cat) with
    | none => sendCrossing s1 key cat 0
    | some x =>
      if sinceCount s1 x.at_ < 2 ^ 20 then
        let cs := mins s1.err.crossings (4 * key + cat) { x with suppressed := x.suppressed + 1 }
        { s1 with err := { s1.err with crossings := cs } }
      else sendCrossing s1 key cat x.suppressed

/-- n faults of one kind. -/
def countErrN : Nat → State → Nat → Nat → State
  | 0, s, _, _ => s
  | n + 1, s, key, cat => countErrN n (countErr s key cat) key cat

/-- ERROR_THRESHOLD of another cause (R504): the unit, category and counter value, and DETAIL. -/
def sendErrMsg (s : State) (sub key cat detail : Nat) : State :=
  sendMsg s 0x01 sub (errLevel key)
    (msgAt 20 2 (errUnitNo key) + msgAt 22 1 cat + msgAt 24 2 (catField (errCtrOf s key) cat) + msgAt 28 4 detail)

end Sys2Proof.Machine
end

