-- ==== Sys2Proof/Machine/Map.lean ====
section
/-!
DEFINITION. Sys2Proof/Machine/Map.lean: the shapes of the part's grade (R6, R30, R33), the device address map (R525,
R526, R528), the host windows (R529) and the HBM interleave (R471).
-/
namespace Sys2Proof.Machine

/-! ### Grade and geometry -/

/-- CORES_PER_ROW (R3). -/
def cprOf (g : Grade) : Nat :=
  match g with
  | .af => 11
  | .as => 10

/-- LOGICAL_CORES (R3): 16 dies of 8 rows. -/
def coresOf (g : Grade) : Nat := 128 * cprOf g

def cpr (s : State) : Nat := cprOf s.fuse.grade
def logicalCores (s : State) : Nat := coresOf s.fuse.grade

/-- The flat index of logical core die.row.col (R6). -/
def flatIndex (g : Grade) (die row col : Nat) : Nat := die * (8 * cprOf g) + row * cprOf g + col

/-- The die, row and column of a flat index (R6). -/
def coreDie (g : Grade) (c : Nat) : Nat := c / (8 * cprOf g)
def coreRow (g : Grade) (c : Nat) : Nat := c % (8 * cprOf g) / cprOf g
def coreCol (g : Grade) (c : Nat) : Nat := c % cprOf g

/-- lo, lo + 1, .., hi. -/
def rangeFrom (lo hi : Nat) : List Nat := (List.range (hi + 1 - lo)).map (· + lo)

/-- The dies of a shape, in die order. -/
def shapeDies (p : Shape) : List Nat :=
  if p.dieRect then (rangeFrom p.loRow p.hiRow).flatMap (fun r => (rangeFrom p.loCol p.hiCol).map (fun c => 4 * r + c))
  else [p.die]

/-- The cores of a shape in flat-index order (R30). -/
def shapeCores (g : Grade) (p : Shape) : List Nat :=
  if p.dieRect then
    (shapeDies p).flatMap (fun d => (List.range (8 * cprOf g)).map (fun k => d * (8 * cprOf g) + k))
  else
    (rangeFrom p.loRow p.hiRow).flatMap (fun r => (rangeFrom p.loCol p.hiCol).map (fun c => flatIndex g p.die r c))

/-- Core c lies in the shape. -/
def inShape (g : Grade) (p : Shape) (c : Nat) : Bool :=
  let d := coreDie g c
  if p.dieRect then
    c < coresOf g && p.loRow ≤ d / 4 && d / 4 ≤ p.hiRow && p.loCol ≤ d % 4 && d % 4 ≤ p.hiCol
  else
    c < coresOf g && d == p.die && p.loRow ≤ coreRow g c && coreRow g c ≤ p.hiRow &&
      p.loCol ≤ coreCol g c && coreCol g c ≤ p.hiCol

/-- Array rows and columns of a shape (R30). -/
def arrayRows (p : Shape) : Nat := (if p.dieRect then 512 else 64) * (p.hiRow + 1 - p.loRow)
def arrayCols (g : Grade) (p : Shape) : Nat := (if p.dieRect then 64 * cprOf g else 64) * (p.hiCol + 1 - p.loCol)

/-- The partition's part of the image in force, none when it is not declared. -/
def partImg (s : State) (n : Nat) : Option PartImage :=
  match s.image.force with
  | none => none
  | some f => mfind f.parts n

/-- The cores of partition n, none when it is not declared. -/
def partCores (s : State) (n : Nat) : List Nat :=
  match partImg s n with
  | none => []
  | some p => shapeCores s.fuse.grade p.shape

/-- The partition that holds core c (R31: at most one). -/
def partOfCore (s : State) (c : Nat) : Option Nat :=
  match s.image.force with
  | none => none
  | some f => ((f.parts.filter (fun kp => inShape s.fuse.grade kp.2.shape c)).head?).map Prod.fst

/-- This module's id and the size of its domain (R66); before any image it is in no domain. -/
def moduleId (s : State) : Nat := match s.image.force with | none => 0 | some f => f.moduleId
def domainSize (s : State) : Nat := match s.image.force with | none => 1 | some f => f.domainSize

/-! ### Host windows (R529, R536) -/

structure Window where
  hostAddr : Nat
  size : Nat
  ro : Bool
  port : Nat
  noSnoop : Bool
  write : Bool
  read : Bool
  en : Bool
  deriving DecidableEq, Repr

def winOf (v : Nat) : Window where
  hostAddr := fld v 63 12 * 4096
  size := fld v 11 7
  ro := bitOf v 5
  port := fld v 4 4
  noSnoop := bitOf v 3
  write := bitOf v 2
  read := bitOf v 1
  en := bitOf v 0

def winOffset (k : Nat) : Nat := 0x00F01000 + 0x10 * k

def window (s : State) (k : Nat) : Window := winOf (regActive s (winOffset k) 0)

/-! ### The device address map (R525, R526) -/

/-- Where a device address lies. -/
inductive Region where
  | hbm
  | feHbm
  | events
  | sram (die off : Nat)
  | scratch (core off : Nat)
  | bitSet (core off : Nat)
  | bitClear (core off : Nat)
  | syncWin (core off : Nat)
  | coreBeyond
  | hostWin (k off : Nat)
  | peer (m off : Nat)
  | mcast (g off : Nat)
  | hole
  deriving DecidableEq, Repr

/-- FE_EVENT_BASE (R352). -/
def eventBase : Nat := 0x00FFFFF80000

def coreRegion (g : Grade) (mk : Nat → Nat → Region) (size off : Nat) : Region :=
  if off / size < coresOf g then mk (off / size) (off % size) else .coreBeyond

/-- The range of R525 that holds address a. -/
def region (g : Grade) (a : Nat) : Region :=
  if a < 0x00FC00000000 then .hbm
  else if a < eventBase then .feHbm
  else if a < 0x010000000000 then .events
  else if a < 0x011000000000 then .sram ((a - 0x010000000000) / 2 ^ 32) (a % 2 ^ 32)
  else if a < 0x014000000000 then coreRegion g .scratch 0x400000 (a - 0x011000000000)
  else if a < 0x016000000000 then coreRegion g .bitSet 0x400000 (a - 0x014000000000)
  else if a < 0x018000000000 then coreRegion g .bitClear 0x400000 (a - 0x016000000000)
  else if a < 0x020000000000 then coreRegion g .syncWin 0x1000 (a - 0x018000000000)
  else if a < 0x220000000000 then .hostWin ((a - 0x020000000000) / 2 ^ 36) (a % 2 ^ 36)
  else if a < 0x400000000000 then .hole
  else if a < 0x800000000000 then .peer ((a - 0x400000000000) / 2 ^ 40) (a % 2 ^ 40)
  else if a < 0x800000000000 + 256 * 2 ^ 40 then .mcast ((a - 0x800000000000) / 2 ^ 40) (a % 2 ^ 40)
  else .hole

/-- The peer window's fold (R528): the address in module m that offset x reaches. -/
def peerFold (x : Nat) : Option Nat :=
  if x < 0xE000000000 then some x
  else if x < 0xF000000000 then some (0x010000000000 + (x - 0xE000000000))
  else if x < 0xF200000000 then some (0x011000000000 + (x - 0xF000000000))
  else if x < 0xF400000000 then some (0x014000000000 + (x - 0xF200000000))
  else if x < 0xF600000000 then some (0x016000000000 + (x - 0xF400000000))
  else if x < 0xF601000000 then some (0x018000000000 + (x - 0xF600000000))
  else if 0xF800000000 ≤ x ∧ x < 0xF800080000 then some (eventBase + (x - 0xF800000000))
  else none

/-- Local memory (R527): HBM through the sync window, less the reserved HBM. -/
def isLocal (g : Grade) (a : Nat) : Bool :=
  match region g a with
  | .hbm | .sram _ _ | .scratch _ _ | .bitSet _ _ | .bitClear _ _ | .syncWin _ _ => true
  | _ => false

/-- Memory that holds bytes: HBM, stacked SRAM and scratchpads. -/
def isStore (g : Grade) (a : Nat) : Bool :=
  match region g a with
  | .hbm | .sram _ _ | .scratch _ _ => true
  | _ => false

/-- The address names an enabled window within its SIZE (R526). -/
def windowHolds (s : State) (k off : Nat) : Bool :=
  let w := window s k
  w.en && off < 2 ^ (12 + w.size)

/-- The address lies in the address map (R526). -/
def inMap (s : State) (a : Nat) : Bool :=
  match region s.fuse.grade a with
  | .hbm | .feHbm | .events | .sram _ _ | .scratch _ _ | .bitSet _ _ | .bitClear _ _ | .syncWin _ _ => true
  | .coreBeyond | .hole => false
  | .hostWin k off => windowHolds s k off
  | .peer m off => m != moduleId s && m < domainSize s && (peerFold off).isSome
  | .mcast g _ => g < 64

/-- Which ranges a requester may name (R527). -/
inductive Ranges where
  | localOnly
  | copy
  | copyDst
  | scrub
  | rings
  | signal
  | store
  deriving DecidableEq, Repr

/-- Address a lies in a range that requester class r may name (R526, R527). -/
def allowed (s : State) (r : Ranges) (a : Nat) : Bool :=
  inMap s a &&
  match region s.fuse.grade a with
  | .hbm | .sram _ _ | .scratch _ _ => true
  | .bitSet _ _ | .bitClear _ _ | .syncWin _ _ => r != .scrub
  | .hostWin _ _ => r == .copy || r == .copyDst || r == .rings || r == .signal
  | .peer _ _ => r == .copy || r == .copyDst || r == .signal
  | .mcast _ off => (r == .copyDst || r == .store) && off < 0x00FC00000000
  | .feHbm | .events | .coreBeyond | .hole => false

/-- The two ends of a range lie in one row of the map: the rows of R525 hold no gap inside. -/
def sameRow (g : Grade) (a b : Nat) : Bool :=
  match region g a, region g b with
  | .hbm, .hbm => true
  | .feHbm, .feHbm => true
  | .events, .events => true
  | .sram _ _, .sram _ _ => true
  | .scratch _ _, .scratch _ _ => true
  | .bitSet _ _, .bitSet _ _ => true
  | .bitClear _ _, .bitClear _ _ => true
  | .syncWin _ _, .syncWin _ _ => true
  | .hostWin k _, .hostWin l _ => k == l
  | .peer m _, .peer n _ => m == n
  | .mcast m _, .mcast n _ => m == n
  | _, _ => false

/-- The bytes a .. a + n - 1 lie wholly in ranges the requester may name: both ends do and no row ends between them,
or the rows between them are local memory throughout (HBM ends where the reserved HBM begins, so only the rows from
stacked SRAM to the scratchpads join). -/
def rangeAllowed (s : State) (r : Ranges) (a n : Nat) : Bool :=
  n != 0 && a + n ≤ 2 ^ 48 && allowed s r a && allowed s r (a + n - 1) &&
  (sameRow s.fuse.grade a (a + n - 1) ||
   (match region s.fuse.grade a, region s.fuse.grade (a + n - 1) with
    | .sram _ _, .scratch _ _ => true
    | _, _ => false))

/-! ### The HBM interleave (R471) -/

/-- The keyed hash of group j: bits of AES-128(KEY, j). -/
def interleaveHash (key : BitVec 128) (j width : Nat) : Nat :=
  ofLe (aesEncrypt (leBytes 16 key.toNat) (leBytes 16 j)) % 2 ^ width

/-- The channel 0 .. 511 of a software HBM address. -/
def hbmChannel (i : Interleave) (a : Nat) : Nat :=
  if i.policy = 0 then
    let g := a / 256
    (g % 512) ^^^ interleaveHash i.key (g / 512) 9
  else
    let p := a / (126 * 2 ^ 30)
    let g := (a - p * (126 * 2 ^ 30)) / 256
    64 * p + ((g % 64) ^^^ interleaveHash i.key (g / 64) 6)

/-- The granule within its channel, its bank and its row. -/
def hbmGranule (i : Interleave) (a : Nat) : Nat :=
  if i.policy = 0 then a / 256 / 512 else (a % (126 * 2 ^ 30)) / 256 / 64
def hbmBank (i : Interleave) (a : Nat) : Nat := hbmGranule i a % 64
def hbmRow (i : Interleave) (a : Nat) : Nat := hbmGranule i a / 64 / 4

/-- The stack of a software HBM address. Before a whole image no mapping is established (R78): the stack is then a free
value (log entry 4). -/
def hbmStack (s : State) (a : Nat) : Nat :=
  match s.image.force with
  | none => Config.freeValue a % 16
  | some f => if s.image.established then hbmChannel f.interleave a / 32 else Config.freeValue a % 16

end Sys2Proof.Machine
end

