-- ==== Sys2Proof/Machine/Integrity.lean ====
section
/-!
DEFINITION. Sys2Proof/Machine/Integrity.lean: stored data. Bytes of HBM, stacked SRAM and scratchpads, the codes of
R456 to R459, narrow writes (R460, R461), poison (R462, R463, R465) and repair (R467). Every read of memory goes
through `readMem` and every write through `storeMem`.
-/
namespace Sys2Proof.Machine

/-! ### Bytes -/

/-- The byte at a: an unlisted byte reads as zero, because the boot clears every memory (R379, R542). -/
def memByte (s : State) (a : Nat) : Byte := mget 0#8 s.mem a

def setByte (m : List Host.Cell) (a : Nat) (b : Byte) : List Host.Cell := mput 0#8 m a b

/-- The n bytes from a. -/
def memBytes : Nat → State → Nat → List Byte
  | 0, _, _ => []
  | n + 1, s, a => memByte s a :: memBytes n s (a + 1)

/-- The bytes bs stored from a. -/
def setBytes : List Host.Cell → Nat → List Byte → List Host.Cell
  | m, _, [] => m
  | m, a, b :: bs => setBytes (setByte m a b) (a + 1) bs

/-! ### Codewords (R456, R457, R458) -/

def isScratchAddr (a : Nat) : Bool := 0x011000000000 ≤ a && a < 0x014000000000
def isSramAddr (a : Nat) : Bool := 0x010000000000 ≤ a && a < 0x011000000000

/-- Data bytes of a codeword at address a. -/
def cwBytes (a : Nat) : Nat := if isScratchAddr a then 8 else 32

/-- The codeword's first byte. -/
def cwBase (a : Nat) : Nat := a / cwBytes a * cwBytes a

/-- The data columns of a Hsiao code with r check bits, in order (R457). -/
def hsiaoColumns (r : Nat) : List Nat :=
  (List.range (2 ^ r)).filter (fun v => popUpTo r v == 3) ++ (List.range (2 ^ r)).filter (fun v => popUpTo r v == 5)

/-- The column of stored bit b of a word with k data bits: data bits first, then check bits. -/
def hsiaoColumn (r k b : Nat) : Nat := if b < k then nth 0 (hsiaoColumns r) b else 2 ^ (b - k)

/-- The syndrome that flipped bits leave. -/
def syndromeOf (r k : Nat) (flips : List Nat) : Nat := flips.foldl (fun s b => s ^^^ hsiaoColumn r k b) 0

/-- What the decoder does with one word (R457). -/
inductive EccOut where
  | clean
  | corrected (bit : Nat)
  | poison
  | uncorrectable
  deriving DecidableEq, Repr

def hsiaoDecode (r k mark syndrome : Nat) : EccOut :=
  if syndrome = 0 then .clean
  else
    match (List.range (k + r)).find? (fun b => hsiaoColumn r k b == syndrome) with
    | some b => .corrected b
    | none => if syndrome = mark then .poison else .uncorrectable

/-- The decoder's outcome on a whole codeword at address a: the bits it flips back, or its verdict (R456 to R459). -/
inductive CwOut where
  | clean
  | corrected (bits : List Nat)
  | poison
  | uncorrectable
  deriving DecidableEq, Repr

def sramHalf (e : EccCell) (w : Nat) : EccOut :=
  let flips := (e.flips.filter (fun p => p % 2 == w)).map (· / 2)
  hsiaoDecode 9 128 0x1FE (syndromeOf 9 128 flips ^^^ (if e.poison then 0x1FE else 0))

def cwDecode (a : Nat) (e : EccCell) : CwOut :=
  if e.report = 2 then .uncorrectable
  else if isSramAddr a then
    match sramHalf e 0, sramHalf e 1 with
    | .uncorrectable, _ => .uncorrectable
    | _, .uncorrectable => .uncorrectable
    | .poison, _ => .poison
    | _, .poison => .poison
    | .corrected i, .corrected j => .corrected [2 * i, 2 * j + 1]
    | .corrected i, .clean => .corrected [2 * i]
    | .clean, .corrected j => .corrected [2 * j + 1]
    | .clean, .clean => .clean
  else
    let r := if isScratchAddr a then 8 else 10
    let k := if isScratchAddr a then 64 else 256
    let mark := if isScratchAddr a then 0xFF else 0x3FF
    match hsiaoDecode r k mark (syndromeOf r k e.flips ^^^ (if e.poison then mark else 0)) with
    | .clean => .clean
    | .corrected b => .corrected [b]
    | .poison => .poison
    | .uncorrectable => .uncorrectable

/-- Data bit d of the codeword at base, flipped in the stored bytes (R457: bit d mod 8 of byte d div 8). -/
def flipData (m : List Host.Cell) (base d : Nat) : List Host.Cell :=
  let a := base + d / 8
  setByte m a (mget 0#8 m a ^^^ BitVec.ofNat 8 (2 ^ (d % 8)))

def flipAll (m : List Host.Cell) (base : Nat) (bits : List Nat) : List Host.Cell :=
  bits.foldl (fun m d => if d < 8 * cwBytes base then flipData m base d else m) m

/-! ### The unit that a codeword belongs to -/

def ecc0 : EccCell where
  flips := []
  poison := false
  hard := false
  report := 0

def setEcc (s : State) (base : Nat) (e : EccCell) : State :=
  { s with integ := { s.integ with ecc := mput ecc0 s.integ.ecc base e } }

/-- The error counter of the memory's unit (R462, R500). -/
def memErrKey (s : State) (a : Nat) : Nat :=
  match region s.fuse.grade a with
  | .scratch c _ => errCore c
  | .sram d _ => errDie d
  | _ => errHbm

/-- The memory unit's key for POISON_SEEN and the checkers: a core, a die, or a stack (R465, R468). -/
def memUnit (s : State) (a : Nat) : Nat :=
  match region s.fuse.grade a with
  | .scratch c _ => c
  | .sram d _ => 4096 + d
  | _ => 8192 + hbmStack s a

def memSubtype (s : State) (a : Nat) : Nat :=
  match region s.fuse.grade a with
  | .scratch _ _ => 1
  | .sram _ _ => 2
  | _ => 3

/-- The checker that reads address a goes through (R468): a core's bank, a die's SRAM controller, an HBM channel. -/
def checkerKey (s : State) (a : Nat) : Nat :=
  match region s.fuse.grade a with
  | .scratch c off => 4 * c + off / 2 ^ 20
  | .sram d _ => 2 ^ 16 + d
  | _ =>
    match s.image.force with
    | none => 2 ^ 17
    | some f => 2 ^ 17 + 1 + hbmChannel f.interleave a

/-- A POISON_SEEN message of unit u went out less than 2^20 ns ago. -/
def reportedLately (s : State) (u : Nat) : Bool :=
  match (mget poisonSeen0 s.integ.seen u).sentAt with
  | none => false
  | some t => decide (sinceCount s t < 2 ^ 20)

/-- POISON_SEEN of the codeword's unit: at most one message in 2^20 ns, which carries what was marked meanwhile (R465). -/
def reportPoison (s : State) (base : Nat) : State :=
  let u := memUnit s base
  let p := mget poisonSeen0 s.integ.seen u
  let first := if p.marked = 0 then base else p.first
  let marked := p.marked + 1
  if reportedLately s u then
    { s with integ := { s.integ with seen := mput poisonSeen0 s.integ.seen u { p with marked := marked, first := first } } }
  else
    let s4 := sendMsg s 0x02 (memSubtype s base) 0 (msgAt 20 2 (u % 4096) + msgAt 22 6 first + msgAt 28 4 marked)
    let seen := mput poisonSeen0 s4.integ.seen u { sentAt := some s4.time.count, marked := 0, first := 0 }
    { s4 with integ := { s4.integ with seen := seen } }

/-- The stack of an HBM codeword counts it (R474). -/
def stackPoison (s : State) (base : Nat) : State :=
  match region s.fuse.grade base with
  | .hbm =>
    let k := hbmStack s base
    setStack s k { stackOf s k with uncorrectable := satTo 16 ((stackOf s k).uncorrectable + 1) }
  | _ => s

/-- A codeword newly marked: MEM_ECC.UNCORRECTABLE, the unit's counters and POISON_SEEN (R462, R465, R477). -/
def notePoison (s : State) (base : Nat) : State :=
  let s1 := countErr s (memErrKey s base) catUncorrectable
  let s2 := { s1 with integ := { s1.integ with uncorrectable := satTo 16 (s1.integ.uncorrectable + 1) } }
  reportPoison (stackPoison s2 base) base

/-- A corrected codeword is counted at its unit (R462, R474). -/
def noteCorrected (s : State) (base : Nat) : State :=
  let s1 := countErr s (memErrKey s base) catCorrected
  let i := s1.integ
  match region s.fuse.grade base with
  | .scratch _ _ => { s1 with integ := { i with scratchCorrected := satTo 16 (i.scratchCorrected + 1) } }
  | .sram _ _ => { s1 with integ := { i with sramCorrected := satTo 16 (i.sramCorrected + 1) } }
  | _ => { s1 with integ := { i with hbmCorrected := satTo 16 (i.hbmCorrected + 1) } }

/-! ### Repair (R466, R467) -/

/-- The die of a scratchpad or SRAM address. -/
def dieOfAddr (s : State) (a : Nat) : Nat :=
  match region s.fuse.grade a with
  | .scratch c _ => coreDie s.fuse.grade c
  | .sram d _ => d
  | _ => 0

/-- The row cannot be repaired: it is counted (R467, R500). -/
def repairExhausted (s : State) (base : Nat) : State :=
  match region s.fuse.grade base with
  | .hbm =>
    let k := hbmStack s base
    countErr (setStack s k { stackOf s k with exhausted := satTo 8 ((stackOf s k).exhausted + 1) }) errHbm catHard
  | _ =>
    let d := dieOfAddr s base
    countErr (setDieRepair s d { dieRepairOf s d with exhausted := satTo 8 ((dieRepairOf s d).exhausted + 1) })
      (errDie d) catHard

/-- A hard fault is found on the re-read after a write-back: the row moves to a free spare row, or the stack repairs
it softly and the repair is logged in flash. Answers whether the row was repaired (R467). -/
def repairRow (s : State) (base : Nat) : Bool × State :=
  match region s.fuse.grade base with
  | .scratch c off =>
    let key := 4 * c + off / 2 ^ 20
    let used := mget 0 s.integ.bankSparesUsed key
    if used < 8 then
      let d := coreDie s.fuse.grade c
      let s1 := { s with integ := { s.integ with bankSparesUsed := mput 0 s.integ.bankSparesUsed key (used + 1) } }
      (true, setDieRepair s1 d { dieRepairOf s1 d with bankRepaired := satTo 16 ((dieRepairOf s1 d).bankRepaired + 1) })
    else (false, repairExhausted s base)
  | .sram d off =>
    let key := 128 * d + off / 2 ^ 25
    let used := mget 0 s.integ.sramSparesUsed key
    if used < 16 then
      let s1 := { s with integ := { s.integ with sramSparesUsed := mput 0 s.integ.sramSparesUsed key (used + 1) } }
      (true, setDieRepair s1 d { dieRepairOf s1 d with sramRepaired := satTo 16 ((dieRepairOf s1 d).sramRepaired + 1) })
    else (false, repairExhausted s base)
  | _ =>
    let k := hbmStack s base
    let c := stackOf s k
    let used := mget 0 s.integ.stackSparesUsed k
    if used < Config.hbmRepairRows k then
      let s0 := { s with integ := { s.integ with stackSparesUsed := mput 0 s.integ.stackSparesUsed k (used + 1) } }
      let s1 := setStack s0 k { c with softPpr := satTo 16 (c.softPpr + 1) }
      let logged := mput 0 s1.integ.pprLogged k (satTo 8 (mget 0 s1.integ.pprLogged k + 1))
      (true, { s1 with integ := { s1.integ with pprLogged := logged } })
    else (false, repairExhausted s base)

/-- The write-back `e` of a codeword is re-read; a hard fault has its row repaired, and a codeword of a row that
cannot be repaired is `stay`: it holds the poison mark until a whole write clears it (R467, log entry 15). -/
def writeBack (s : State) (base : Nat) (hard : Bool) (e stay : EccCell) : State :=
  if hard then
    let r := repairRow s base
    setEcc r.2 base (if r.1 then e else stay)
  else setEcc s base e

/-! ### Reading (R457, R459, R462) -/

/-- The stack's own report of a correction is counted; the device's decoder then sees clean data (R459). -/
def takeReport (s : State) (base : Nat) (e : EccCell) : State × EccCell :=
  if e.report = 1 then
    let k := hbmStack s base
    let s1 := setStack s k { stackOf s k with corrected := satTo 16 ((stackOf s k).corrected + 1) }
    let e1 := { e with report := 0 }
    (setEcc (countErr s1 errHbm catCorrected) base e1, e1)
  else (s, e)

/-- One codeword is read: a correction is counted and written back, an uncorrectable error is counted and marked. -/
def touchCw (s : State) (base : Nat) (e0 : EccCell) : State :=
  let (s0, e) := takeReport s base e0
  match cwDecode base e with
  | .clean => s0
  | .poison => s0
  | .corrected bits =>
    let s1 := noteCorrected { s0 with mem := flipAll s0.mem base bits } base
    writeBack s1 base e.hard ecc0 { ecc0 with poison := true }
  | .uncorrectable =>
    let s1 := notePoison s0 base
    writeBack s1 base e.hard { ecc0 with poison := true } { ecc0 with poison := true }

/-- Codeword base meets the bytes a .. a + n - 1. -/
def meets (a n base : Nat) : Bool := base < a + n && a < base + cwBytes base

/-- Every faulty codeword that a read of n bytes from a meets is decoded. -/
def touch (s : State) (a n : Nat) : State :=
  (s.integ.ecc.filter (fun ce => meets a n ce.1)).foldl (fun s ce => touchCw s ce.1 ce.2) s

/-- A codeword is delivered with poison: it holds the mark, flips leave the same syndrome, or it holds an
uncorrectable error (R457, R458). -/
def cwPoisoned (base : Nat) (e : EccCell) : Bool :=
  if e.flips.isEmpty then e.poison || e.report == 2
  else
    match cwDecode base e with
    | .clean | .corrected _ => false
    | .poison | .uncorrectable => true

/-- The byte at a is delivered with poison: its codeword is, or its checker failed at boot (R458, R468). -/
def poisonAt (s : State) (a : Nat) : Bool :=
  cwPoisoned (cwBase a) (mget ecc0 s.integ.ecc (cwBase a)) || s.integ.badCheckers.contains (checkerKey s a)

/-- The byte at a with its poison, as a read of it now delivers it. -/
def peekByte (s : State) (a : Nat) : PByte := (memByte s a, poisonAt s a)

def peekBytes : Nat → State → Nat → List PByte
  | 0, _, _ => []
  | n + 1, s, a => peekByte s a :: peekBytes n s (a + 1)

/-- A checked read of n bytes from a. -/
def readMem (s : State) (a n : Nat) : List PByte × State :=
  let s1 := touch s a n
  (peekBytes n s1 a, s1)

/-! ### Writing (R460, R461, R463, R476) -/

/-- Codeword base lies wholly in the bytes a .. a + n - 1. -/
def covers (a n base : Nat) : Bool := a ≤ base && base + cwBytes base ≤ a + n

/-- A narrow write of a codeword: it is read and corrected, and its check bits are written anew, with the mark where
the read found poison (R460, R461). -/
def narrowCw (s : State) (base : Nat) (e : EccCell) : State :=
  let s1 := touchCw s base e
  let e1 := mget ecc0 s1.integ.ecc base
  setEcc s1 base { ecc0 with poison := cwPoisoned base e1, hard := e1.hard }

/-- The read half of the narrow writes at the two ends of a range (R460, R461). -/
def touchNarrow (s : State) (a n : Nat) : State :=
  (s.integ.ecc.filter (fun ce => meets a n ce.1 && !covers a n ce.1)).foldl (fun s ce => narrowCw s ce.1 ce.2) s

/-- The poisoned bytes among those stored from a mark their codewords (R463). -/
def markPoisoned : AMap EccCell → Nat → List PByte → AMap EccCell
  | m, _, [] => m
  | m, a, (_, p) :: bs =>
    markPoisoned (if p then mins m (cwBase a) { ecc0 with poison := true } else m) (a + 1) bs

/-- MEM_INJECT (R476). -/
def injectOffset : Nat := 0x00C00010

/-- The injection that the next whole-codeword write covering ADDR stores (R476). -/
def inject (s : State) (a n : Nat) : State :=
  let v := regActive s injectOffset 0
  let base := cwBase (fld v 47 0)
  let mode := fld v 63 62
  if mode = 0 ∨ !covers a n base then s
  else
    let e0 := mget ecc0 s.integ.ecc base
    let e :=
      match mode with
      | 1 => { e0 with flips := [0] }
      | 2 => { e0 with flips := [0, 1] }
      | _ => { e0 with poison := true }
    let s1 := { s with mem := flipAll s.mem base e.flips,
                       cfg := mins s.cfg injectOffset
                         { active := BitVec.ofNat 64 (fld v 61 0), last := BitVec.ofNat 64 (fld v 61 0),
                           shadow := 0#64, snap := none } }
    setEcc s1 base e

/-- A write of the bytes bs from a into memory that holds bytes. Whole codewords are written fresh; the two ends are
read, merged and written (R460, R461); poison marks every codeword it overlaps (R463). -/
def storeMem (s : State) (a : Nat) (bs : List PByte) : State :=
  let n := bs.length
  let s1 := touchNarrow s a n
  let kept := s1.integ.ecc.filter (fun ce => !covers a n ce.1)
  let s2 := { s1 with mem := setBytes s1.mem a (dataOf bs),
                      integ := { s1.integ with ecc := markPoisoned kept a bs } }
  inject s2 a n

/-- Bit b of the codeword turns over: twice is none. -/
def toggle (l : List Nat) (b : Nat) : List Nat := if l.contains b then l.filter (· != b) else l ++ [b]

/-- The upset takes effect on the stored bits. What an HBM stack has corrected by itself reaches the device clean (R459). -/
def upset (s : State) (u : Upset) : State :=
  if !isStore s.fuse.grade u.addr then s
  else
    let base := cwBase u.addr
    let e := mget ecc0 s.integ.ecc base
    let flips := if u.report = 1 ∧ region s.fuse.grade u.addr = .hbm then [] else u.flips
    setEcc { s with mem := flipAll s.mem base flips } base
      { flips := flips.foldl toggle e.flips, poison := e.poison, hard := e.hard || u.hard, report := max e.report u.report }

def upsets (s : State) (us : List Upset) : State := us.foldl upset s

/-- n units of poison are moved, or consumed (R464, R475). -/
def noteMoved (s : State) (n : Nat) : State :=
  { s with integ := { s.integ with moved := satTo 32 (s.integ.moved + n) } }
def noteConsumed (s : State) (n : Nat) : State :=
  { s with integ := { s.integ with consumed := satTo 32 (s.integ.consumed + n) } }

/-- Poisoned 8-byte units among bytes that start on a unit (R463: the finest grain; log entry 14). -/
def poisonUnits : List PByte → Nat
  | b0 :: b1 :: b2 :: b3 :: b4 :: b5 :: b6 :: b7 :: rest =>
    (if b0.2 || b1.2 || b2.2 || b3.2 || b4.2 || b5.2 || b6.2 || b7.2 then 1 else 0) + poisonUnits rest
  | rest => if rest.any Prod.snd then 1 else 0

end Sys2Proof.Machine
end

