-- ==== Sys2Proof/Machine/Access.lean ====
section
/-!
DEFINITION. Sys2Proof/Machine/Access.lean: who may reach which byte. Bank ownership and DMA sharing (R366 to R368),
the annealer's fence (R229), refused accesses (R367), and the alias windows' atomics (R374 to R376).
-/
namespace Sys2Proof.Machine

/-! ### Components of partitions -/

def anlVars0 : AnlVars where
  spins := []
  g := []
  r := []
  sigma := []
  energy := 0

def anl0 : AnlSt where
  prob := none
  vars := anlVars0
  loading := none
  lastCheck := 0
  fenceRefused := 0
  loads := 0
  fails := 0
  failIndex := 0
  run := none
  temp := 0
  phase := 0
  colourPhase := 0
  curveRejected := 0
  lastCurveFail := 0
  colourIgnored := false
  policy := 0
  residence := 0
  withdrawn := 0
  stale := 0
  nulls := 0
  steps := 0
  energy := 0
  best := 2 ^ 63 - 1
  clipped := false
  lastEnd := 0
  traceLost := 0
  runs := 0
  syncPoints := 0
  lastWait := 0
  last := none

def anlOf (s : State) (n : Nat) : AnlSt := mget anl0 s.anl n
def setAnl (s : State) (n : Nat) (v : AnlSt) : State := { s with anl := mput anl0 s.anl n v }

def syncStatus0 : SyncStatus where
  overs := 0
  drifts := 0
  abandoned := 0
  faults := 0
  refused := 0
  lastDrift := 0#64

def syncStatusOf (s : State) (c : Nat) : SyncStatus := mget syncStatus0 s.sync.status c
def setSyncStatus (s : State) (c : Nat) (v : SyncStatus) : State :=
  { s with sync := { s.sync with status := mput syncStatus0 s.sync.status c v } }

/-- A refused signal or window write at a home (R385, R406). -/
def syncRefused (s : State) (c : Nat) : State :=
  setSyncStatus s c { syncStatusOf s c with refused := satTo 12 ((syncStatusOf s c).refused + 1) }

/-! ### Ownership (R366, R368, R380) -/

/-- The owner codes of R366. -/
def ownFeeder : Nat := 0
def ownVector : Nat := 1
def ownAnnealer : Nat := 2
def ownDma : Nat := 3
def ownRemote : Nat := 4

def bankReg (c : Nat) : Nat := 0x00600000 + 0x40 * c
def bankWord (s : State) (c : Nat) : Nat := regActive s (bankReg c) 0x3210
def bankOwner (s : State) (c b : Nat) : Nat := fld (bankWord s c) (4 * b + 2) (4 * b)
def bankShare (s : State) (c b : Nat) : Bool := bitOf (bankWord s c) (16 + b)

/-- Bank b of core c admits requester r (R366, R368). -/
def bankAdmits (s : State) (r c b : Nat) : Bool := bankOwner s c b == r || (r == ownDma && bankShare s c b)

/-! ### Banks held for a hand-over (R371, R372) -/

/-- The snapshot of a pending commit of BANK_OWNER_c. -/
def bankSnap (s : State) (c : Nat) : Option (BitVec 64) :=
  match mfind s.cfg (bankReg c) with
  | some x => x.snap
  | none => none

/-- Bank b is affected: its owner or its DMA_SHARE bit will change. -/
def bankAffected (s : State) (c b : Nat) : Bool :=
  match bankSnap s c with
  | none => false
  | some v =>
    fld v.toNat (4 * b + 2) (4 * b) != bankOwner s c b || bitOf v.toNat (16 + b) != bankShare s c b

/-- BANK_STATUS.HELD. -/
def heldBanks (s : State) (c : Nat) : List Nat := (List.range 4).filter (bankAffected s c)

/-- Some core of partition n holds an affected bank of one of these owners, which stays at rest (R372). -/
def partHeld (s : State) (n : Nat) (owners : List Nat) : Bool :=
  (s.insts.filter (fun x => x.commitPending)).any (fun x =>
    match x.inst with
    | .bank c => partOfCore s c == some n && (heldBanks s c).any (fun b => owners.contains (bankOwner s c b))
    | _ => false)

/-! ### Fences (R229) -/

/-- The region that a partition's problem, or the load that replaces it, fences: its base and length. -/
def fenceOf (a : AnlSt) : Option (Nat × Nat) :=
  match a.loading with
  | some l => some (l.base, l.bytes)
  | none =>
    match a.prob with
    | some p => some (p.base, p.bytes)
    | none => none

def partDies (s : State) (n : Nat) : List Nat :=
  match partImg s n with
  | none => []
  | some p => shapeDies p.shape

/-- The partition whose fence holds offset off of die d. -/
def fencedBy (s : State) (d off : Nat) : Option Nat :=
  ((s.anl.filter (fun na =>
    match fenceOf na.2 with
    | none => false
    | some f => (partDies s na.1).contains d && f.1 ≤ off && off < f.1 + f.2)).head?).map Prod.fst

/-- Where fences begin and end in a die's SRAM. -/
def fenceEdges (s : State) : List Nat :=
  s.anl.flatMap (fun na => match fenceOf na.2 with | none => [] | some f => [f.1, f.1 + f.2])

/-- Some fence meets the bytes a .. a + n - 1. -/
def meetsFence (s : State) (a n : Nat) : Bool :=
  s.anl.any (fun na =>
    match fenceOf na.2 with
    | none => false
    | some f => (partDies s na.1).any (fun d =>
        let lo := 0x010000000000 + d * 2 ^ 32 + f.1
        decide (lo < a + n) && decide (a < lo + f.2)))

/-! ### Pieces of an access -/

/-- Why an access is refused (R229, R367). -/
inductive Refuse where
  | bank (c : Nat)
  | fence (n : Nat)
  | sync (c : Nat)
  deriving DecidableEq, Repr

/-- Requester r is refused at address a; a read of the sync window is not. -/
def refusedAt (s : State) (r : Nat) (write : Bool) (a : Nat) : Option Refuse :=
  match region s.fuse.grade a with
  | .scratch c off | .bitSet c off | .bitClear c off =>
    if bankAdmits s r c (off / 2 ^ 20) then none else some (.bank c)
  | .sram d off => (fencedBy s d off).map .fence
  | .syncWin c _ => if write then some (.sync c) else none
  | _ => none

/-- Bytes of the piece that starts at a: to the end of the bank, of the die, or to the next edge of a fence. -/
def pieceLen (s : State) (a n : Nat) : Nat :=
  match region s.fuse.grade a with
  | .scratch _ off | .bitSet _ off | .bitClear _ off => min n (2 ^ 20 - off % 2 ^ 20)
  | .sram _ off =>
    (fenceEdges s).foldl (fun k e => if off < e ∧ e < off + k then e - off else k) (min n (2 ^ 32 - off))
  | .syncWin _ off => min n (0x1000 - off)
  | _ => n

/-- The pieces of a range, in order; `fuel` bounds their number. -/
def piecesUpTo : Nat → State → Nat → Nat → List (Nat × Nat)
  | 0, _, _, _ => []
  | fuel + 1, s, a, n =>
    if n = 0 then []
    else
      let k := max 1 (pieceLen s a n)
      (a, min k n) :: piecesUpTo fuel s (a + k) (n - k)

def pieces (s : State) (a n : Nat) : List (Nat × Nat) := piecesUpTo (n / 2 ^ 12 + 2 * s.anl.length + 20) s a n

/-- A refused access is counted (R229, R367, R385). -/
def countRefused (s : State) (w : Refuse) : State :=
  match w with
  | .bank c =>
    countErr (setBank s c { bankOf s c with refused := satTo 16 ((bankOf s c).refused + 1) }) (errCore c) catProtocol
  | .fence n => setAnl s n { anlOf s n with fenceRefused := satTo 16 ((anlOf s n).fenceRefused + 1) }
  | .sync c => syncRefused s c

/-! ### Reads -/

/-- The bytes of memory that an address names: an alias window reads the plain contents (R375). -/
def plainAddr (s : State) (a : Nat) : Nat :=
  match region s.fuse.grade a with
  | .bitSet c off | .bitClear c off => 0x011000000000 + c * 0x400000 + off
  | _ => a

/-- The byte at a local address as a read by r now delivers it; a refused read returns zero without poison (R367). The
spec states no value for a read of the sync window. -/
def peekAs (s : State) (r a : Nat) : PByte :=
  match refusedAt s r false a with
  | some _ => (0#8, false)
  | none =>
    match region s.fuse.grade a with
    | .syncWin _ _ => (Config.syncRead a, false)
    | _ => peekByte s (plainAddr s a)

def peekRange (s : State) (r a n : Nat) : List PByte := (List.range n).map (fun i => peekAs s r (a + i))

/-- What an access answers: the bytes read, whether a piece was refused, and the state after it. -/
structure Access where
  bytes : List PByte
  refused : Bool
  state : State
  deriving DecidableEq, Repr

def readPiece (r : Nat) (x : Access) (p : Nat × Nat) : Access :=
  match refusedAt x.state r false p.1 with
  | some w => { bytes := x.bytes ++ clean (List.replicate p.2 0#8), refused := true, state := countRefused x.state w }
  | none =>
    let s1 := touch x.state (plainAddr x.state p.1) p.2
    { bytes := x.bytes ++ peekRange s1 r p.1 p.2, refused := x.refused, state := s1 }

/-- A read of local memory by requester r. -/
def localRead (s : State) (r a n : Nat) : Access :=
  (pieces s a n).foldl (readPiece r) { bytes := [], refused := false, state := s }

/-- The counting and correcting side of a read whose bytes are looked up later. -/
def localTouch (s : State) (r a n : Nat) : Bool × State :=
  let x := (pieces s a n).foldl (fun (x : Bool × State) p =>
    match refusedAt x.2 r false p.1 with
    | some w => (true, countRefused x.2 w)
    | none => (x.1, touch x.2 (plainAddr x.2 p.1) p.2)) (false, s)
  x

/-- Ranges that an operation reads, in turn: whether a bank or a fence refused a piece, and the state. -/
def touchAll (s : State) (owner : Nat) (rs : List (Nat × Nat)) : Bool × State :=
  rs.foldl (fun (x : Bool × State) r => let y := localTouch x.2 owner r.1 r.2; (x.1 || y.1, y.2)) (false, s)

/-! ### Writes and atomics (R374 to R376) -/

/-- One byte of a SET or CLEAR. -/
def aliasByte (set : Bool) (m v : Byte) : Byte := if set then m ||| v else m &&& ~~~v

/-- A SET or CLEAR acts on each word of its range; a word that holds poison keeps it and is not written (R374, R376). -/
def aliasWord (set : Bool) (s : State) (a : Nat) (vs : List PByte) : State :=
  if poisonAt s a then noteConsumed s 1
  else
    let old := peekBytes vs.length s a
    storeMem s a ((old.zip vs).map (fun p => (aliasByte set p.1.1 p.2.1, p.2.2)))

/-- The bytes of a range cut at 8-byte words: (address, bytes). -/
def wordsOf : Nat → Nat → List PByte → List (Nat × List PByte)
  | 0, _, _ => []
  | fuel + 1, a, bs =>
    match bs with
    | [] => []
    | _ =>
      let k := 8 - a % 8
      (a, bs.take k) :: wordsOf fuel (a + k) (bs.drop k)

def aliasWrite (set : Bool) (s : State) (a : Nat) (bs : List PByte) : State :=
  (wordsOf (bs.length + 1) a bs).foldl (fun s w => aliasWord set s w.1 w.2) (touch s a bs.length)

/-- A write of one piece that nothing refuses. -/
def writePiece (s : State) (a : Nat) (bs : List PByte) : State :=
  match region s.fuse.grade a with
  | .bitSet c off => aliasWrite true s (0x011000000000 + c * 0x400000 + off) bs
  | .bitClear c off => aliasWrite false s (0x011000000000 + c * 0x400000 + off) bs
  | .hbm | .sram _ _ | .scratch _ _ => storeMem s a bs
  | _ => s

/-- A write of bs by requester r into local memory: whether a bank or a fence refused a piece, and the state. -/
def localWrite (s : State) (r a : Nat) (bs : List PByte) : Bool × State :=
  (pieces s a bs.length).foldl (fun (x : Bool × State) p =>
    match refusedAt x.2 r true p.1 with
    | some (.sync c) => (x.1, countRefused x.2 (.sync c))
    | some w => (true, countRefused x.2 w)
    | none => (x.1, writePiece x.2 p.1 ((bs.drop (p.1 - a)).take p.2))) (false, s)

/-- The longest wait of a shared DMA access to a bank of core c (R370): 16 beats behind an annealer, 1 behind a remote
master; behind the array feeder or the vector unit what the operation left, which the surroundings give. -/
def waitLimit (s : State) (c : Nat) : Nat :=
  ((List.range 4).map (fun b =>
    if bankShare s c b then (match bankOwner s c b with | 0 | 1 => 65535 | 2 => 16 | 4 => 1 | _ => 0) else 0)).foldl max 0

/-- The beats that an access waited at core c: the longest stands in its BANK_STATUS (R370), and DMA_WAIT_BEATS counts them all
(R495). -/
def noteDmaWait (s : State) (w : Nat × Nat) : State :=
  if w.1 < logicalCores s then
    let n := min w.2 (waitLimit s w.1)
    perfAdd (setBank s w.1 { bankOf s w.1 with dmaWaitMax := max (bankOf s w.1).dmaWaitMax n }) (perfCore w.1 5) n
  else s

def noteDmaWaits (s : State) (ws : List (Nat × Nat)) : State := ws.foldl noteDmaWait s

/-- An access of the DMA engine meets a bank that it owns and that a pending commit affects: it is delayed (R372). -/
def dmaHeld (s : State) (a n : Nat) : Bool :=
  (pieces s a n).any (fun p =>
    match region s.fuse.grade p.1 with
    | .scratch c off | .bitSet c off | .bitClear c off => bankOwner s c (off / 2 ^ 20) == ownDma && bankAffected s c (off / 2 ^ 20)
    | _ => false)

/-! ### Operands of operations -/

def scratchAddr (core off : Nat) : Nat := 0x011000000000 + core * 0x400000 + off
def sramAddr (die off : Nat) : Nat := 0x010000000000 + die * 2 ^ 32 + off

/-- A remote-master read of space 0x0 (R366, R367). -/
def rmBytes (s : State) (a n : Nat) : List PByte := peekRange s ownRemote a n

/-- An operand in stacked SRAM: the fence refuses it as it refuses any access (R229). -/
def sramBytes (s : State) (die off n : Nat) : List PByte := peekRange s ownRemote (sramAddr die off) n

/-- The array feeder's read of the register table: zero where the bank is not the feeder's (R181, R367). -/
def feederBytes (s : State) (core off n : Nat) : List PByte := peekRange s ownFeeder (scratchAddr core off) n

end Sys2Proof.Machine
end

