-- ==== Sys2Proof/Machine/Fp.lean ====
section
/-!
DEFINITION. Sys2Proof/Machine/Fp.lean: the number formats and their one rounding, to nearest with ties to even: FP32,
FP16, BF16, FP8 E4M3 and E5M2 (R137, R155, R174 to R176), and FP32 arithmetic on exact values.
-/
namespace Sys2Proof.Machine

/-- What a code stands for: a finite value is (-1)^neg * m * 2^e. -/
inductive FpVal where
  | nan
  | inf (neg : Bool)
  | fin (neg : Bool) (m : Nat) (e : Int)
  deriving DecidableEq, Repr

/-- A binary format: precision, least exponent, greatest exponent and exponent bits. -/
structure Fmt where
  p : Nat
  emin : Int
  emax : Int
  ebits : Nat
  deriving DecidableEq, Repr

def fp32 : Fmt := { p := 24, emin := -126, emax := 127, ebits := 8 }
def fp16 : Fmt := { p := 11, emin := -14, emax := 15, ebits := 5 }
def bf16 : Fmt := { p := 8, emin := -126, emax := 127, ebits := 8 }
def e4m3 : Fmt := { p := 4, emin := -6, emax := 8, ebits := 4 }
def e5m2 : Fmt := { p := 3, emin := -14, emax := 15, ebits := 5 }

/-- All bits but the sign. -/
def Fmt.magBits (f : Fmt) : Nat := f.ebits + (f.p - 1)

/-- The value of a code of an IEEE format: exponent all ones is infinite or NaN. -/
def decodeIeee (f : Fmt) (w : Nat) : FpVal :=
  let neg := bitOf w f.magBits
  let ex := fld w (f.magBits - 1) (f.p - 1)
  let fr := w % 2 ^ (f.p - 1)
  if ex = 2 ^ f.ebits - 1 then (if fr = 0 then .inf neg else .nan)
  else if ex = 0 then .fin neg fr (f.emin - (f.p - 1 : Nat))
  else .fin neg (fr + 2 ^ (f.p - 1)) (f.emin + (ex - 1 : Nat) - (f.p - 1 : Nat))

/-- E4M3 has no infinity: only exponent and fraction all ones is NaN (R116, R137). -/
def decodeE4m3 (w : Nat) : FpVal :=
  if w % 128 = 127 then .nan
  else
    let ex := fld w 6 3
    if ex = 0 then .fin (bitOf w 7) (w % 8) (-9) else .fin (bitOf w 7) (w % 8 + 8) ((ex : Int) - 10)

def decodeFp32 (w : Nat) : FpVal := decodeIeee fp32 w
def decodeFp16 (w : Nat) : FpVal := decodeIeee fp16 w
def decodeBf16 (w : Nat) : FpVal := decodeIeee bf16 w
def decodeE5m2 (w : Nat) : FpVal := decodeIeee e5m2 w

/-- r or r + 1 by the remainder n mod d: nearest, ties to even. -/
def rneDiv (n d : Nat) : Nat :=
  let r := n / d
  let m := n % d
  if d < 2 * m ∨ (2 * m = d ∧ r % 2 = 1) then r + 1 else r

/-- The exact fraction n / d times 2^e as a numerator and denominator. -/
def scalePow (n d : Nat) (e : Int) : Nat × Nat :=
  if 0 ≤ e then (n * 2 ^ e.toNat, d) else (n, d * 2 ^ (-e).toNat)

/-- The exponent of the leading bit of n / d * 2^e, for positive n and d. -/
def topExp (n d : Nat) (e : Int) : Int :=
  let l := (n.log2 : Int) - d.log2
  let q := scalePow n d (-l)
  (if q.2 ≤ q.1 then l else l - 1) + e

/-- The significand r and quantum 2^q of n / d * 2^e rounded to a format (R155). -/
def roundSig (f : Fmt) (n d : Nat) (e : Int) : Nat × Int :=
  let q := max (topExp n d e) f.emin - (f.p - 1 : Nat)
  let nd := scalePow n d (e - q)
  (rneDiv nd.1 nd.2, q)

/-- The code of r * 2^q without sign, r at most 2^p; `over` where the exponent passes emax. -/
def encodeMag (f : Fmt) (r : Nat) (q : Int) (overs : Nat) : Nat :=
  let r1 := if r = 2 ^ f.p then r / 2 else r
  let q1 := if r = 2 ^ f.p then q + 1 else q
  let e := q1 + (f.p - 1 : Nat)
  if r1 < 2 ^ (f.p - 1) then r1
  else if f.emax < e then overs
  else (e - f.emin + 1).toNat * 2 ^ (f.p - 1) + (r1 - 2 ^ (f.p - 1))

/-- What lies above the largest finite value: infinity for FP32, FP16 and BF16, the largest value for FP8 (R137). -/
def overMag (f : Fmt) : Nat :=
  if f.ebits = 4 then 0x7E else if f.p = 3 then 0x7B else (2 ^ f.ebits - 1) * 2 ^ (f.p - 1)

/-- The code of (-1)^neg * n / d * 2^e, rounded once to a format; a zero keeps its sign. -/
def roundTo (f : Fmt) (neg : Bool) (n d : Nat) (e : Int) : Nat :=
  let sign := if neg then 2 ^ f.magBits else 0
  if n = 0 then sign
  else
    let rq := roundSig f n d e
    let m := encodeMag f rq.1 rq.2 (overMag f)
    sign + (if f.ebits = 4 then min m 0x7E else m)

/-- The code of an integer times 2^e, rounded once; an exact zero is +0 (R137, R155). -/
def roundInt (f : Fmt) (z : Int) (e : Int) : Nat := roundTo f (decide (z < 0)) z.natAbs 1 e

/-- The quiet NaN that each format writes (R137's drop values). -/
def nanOf (f : Fmt) : Nat :=
  if f.ebits = 4 then 0x7F else if f.p = 3 then 0x7E
  else (2 ^ f.ebits - 1) * 2 ^ (f.p - 1) + 2 ^ (f.p - 2)

/-- The code of any value in a format. -/
def encodeVal (f : Fmt) (v : FpVal) : Nat :=
  match v with
  | .nan => nanOf f
  | .inf neg => (if neg then 2 ^ f.magBits else 0) + overMag f
  | .fin neg m e => roundTo f neg m 1 e

/-! ### Exact values -/

/-- A finite value as an integer over a common power of two. -/
def finInt (neg : Bool) (m : Nat) : Int := if neg then -(m : Int) else m

/-- The exact sum of two values: an exact zero is +0 unless both are -0. -/
def vAdd (a b : FpVal) : FpVal :=
  match a, b with
  | .nan, _ => .nan
  | _, .nan => .nan
  | .inf x, .inf y => if x = y then .inf x else .nan
  | .inf x, _ => .inf x
  | _, .inf y => .inf y
  | .fin n1 m1 e1, .fin n2 m2 e2 =>
    let e := min e1 e2
    let z := finInt n1 (m1 * 2 ^ (e1 - e).toNat) + finInt n2 (m2 * 2 ^ (e2 - e).toNat)
    if z = 0 then .fin (n1 && n2) 0 e else .fin (decide (z < 0)) z.natAbs e

def vNeg (a : FpVal) : FpVal :=
  match a with
  | .nan => .nan
  | .inf x => .inf (!x)
  | .fin n m e => .fin (!n) m e

def vAbs (a : FpVal) : FpVal :=
  match a with
  | .nan => .nan
  | .inf _ => .inf false
  | .fin _ m e => .fin false m e

def vMul (a b : FpVal) : FpVal :=
  match a, b with
  | .nan, _ => .nan
  | _, .nan => .nan
  | .inf x, .inf y => .inf (x != y)
  | .inf x, .fin n m _ => if m = 0 then .nan else .inf (x != n)
  | .fin n m _, .inf y => if m = 0 then .nan else .inf (n != y)
  | .fin n1 m1 e1, .fin n2 m2 e2 => .fin (n1 != n2) (m1 * m2) (e1 + e2)

/-- a < b over the numbers; false with NaN. -/
def vLt (a b : FpVal) : Bool :=
  match a, b with
  | .nan, _ => false
  | _, .nan => false
  | .inf x, .inf y => x && !y
  | .inf x, _ => x
  | _, .inf y => !y
  | .fin n1 m1 e1, .fin n2 m2 e2 =>
    let e := min e1 e2
    finInt n1 (m1 * 2 ^ (e1 - e).toNat) < finInt n2 (m2 * 2 ^ (e2 - e).toNat)

def isNan (a : FpVal) : Bool := match a with | .nan => true | _ => false

/-! ### FP32 operations on codes: each rounds once -/

def f32Add (a b : Nat) : Nat := encodeVal fp32 (vAdd (decodeFp32 a) (decodeFp32 b))
def f32Sub (a b : Nat) : Nat := encodeVal fp32 (vAdd (decodeFp32 a) (vNeg (decodeFp32 b)))
def f32Mul (a b : Nat) : Nat := encodeVal fp32 (vMul (decodeFp32 a) (decodeFp32 b))
def f32Lt (a b : Nat) : Bool := vLt (decodeFp32 a) (decodeFp32 b)
def f32One : Nat := 0x3F800000
def f32NegInf : Nat := 0xFF800000
def f32PosInf : Nat := 0x7F800000

/-- The nearest integer, ties to even, of n / d * 2^e. -/
def rneInt (neg : Bool) (n d : Nat) (e : Int) : Int :=
  let nd := scalePow n d e
  finInt neg (rneDiv nd.1 nd.2)

/-! ### The scale word (R150, R163) -/

/-- The exponent x of a scale word. -/
def scaleExp (w : Nat) : Int := signedOf 8 (fld w 15 8)

/-- The mantissa m. -/
def scaleMant (w : Nat) : Nat := w % 256

/-- The word lies in the window: its mantissa is at least 128 and its exponent from -25 to 18 (R150, R163). -/
def inWindow (w : Nat) : Bool := 128 ≤ scaleMant w && -25 ≤ scaleExp w && scaleExp w ≤ 18

/-! ### The quantiser (R176) -/

inductive QTarget where
  | uint8
  | int8
  | int4
  | fp8e4m3
  | fp8e5m2
  deriving DecidableEq, Repr

/-- The code of an FP32 value under a scale word and a zero point: the exact quotient is rounded once (R176). The
word's value is m * 2^(x - 7), whatever its exponent. -/
def quantise (t : QTarget) (scale z : Nat) (x : FpVal) : Nat :=
  let m := scaleMant scale
  let sx := scaleExp scale - 7
  let q := fun (neg : Bool) (n : Nat) (e : Int) => rneInt neg n m (e - sx)
  match t with
  | .uint8 =>
    (match x with
     | .nan => z
     | .inf neg => if neg then 0 else 255
     | .fin neg n e => (clampInt 0 255 (q neg n e + z)).toNat)
  | .int8 =>
    (match x with
     | .nan => 0
     | .inf neg => if neg then 128 else 127
     | .fin neg n e => wrapTo 8 (clampInt (-128) 127 (q neg n e)))
  | .int4 =>
    (match x with
     | .nan => 0
     | .inf neg => if neg then 8 else 7
     | .fin neg n e => wrapTo 4 (clampInt (-8) 7 (q neg n e)))
  | .fp8e4m3 =>
    (match x with
     | .nan => 0x7F
     | .inf neg => (if neg then 0x80 else 0) + 0x7E
     | .fin neg n e => roundTo e4m3 neg n m (e - sx))
  | .fp8e5m2 =>
    (match x with
     | .nan => 0x7E
     | .inf neg => (if neg then 0x80 else 0) + 0x7B
     | .fin neg n e => roundTo e5m2 neg n m (e - sx))

end Sys2Proof.Machine
end

