-- ==== Sys2Proof/Machine/TableFns.lean ====
section
/-!
DEFINITION. Sys2Proof/Machine/TableFns.lean: the table functions of R202 to R205. The knots are computed as R202
defines them, from exact integer roots, quotients and a fixed-point logarithm.
-/
namespace Sys2Proof.Machine

/-- log2(e) and ln 2 in 30 fraction bits (R202). -/
def constLB : Nat := 0x5C551D95
def constLN2Q : Nat := 0x2C5C85FE

/-- n square roots in a row. -/
def isqrtN : Nat → Nat → Nat
  | 0, x => x
  | n + 1, x => isqrtN n (isqrt x)

/-- TE[i] = rne(2^(i/256) * 2^30): half of the integer 256th root of 2^(7936 + i), rounded. -/
def tableE (i : Nat) : Nat := (isqrtN 8 (2 ^ (7936 + i)) + 1) / 2

/-- TR[i] = rne(2^31 / (1 + i/256)). -/
def tableR (i : Nat) : Nat := rneDiv (2 ^ 39) (256 + i)

/-- TS0[i] = rne(2^31 / sqrt(1 + i/256)). -/
def tableS0 (i : Nat) : Nat := (isqrt (2 ^ 72 / (256 + i)) + 1) / 2

/-- TS1[i] = rne(2^31 / sqrt(2 (1 + i/256))). -/
def tableS1 (i : Nat) : Nat := (isqrt (2 ^ 71 / (256 + i)) + 1) / 2

/-- n binary digits of the logarithm of x / 2^120, for x from 2^120 up to 2^121: square, and halve when above 2. -/
def log2Digits : Nat → Nat → Nat → Nat
  | 0, _, acc => acc
  | n + 1, x, acc =>
    let y := x * x / 2 ^ 120
    if 2 ^ 121 ≤ y then log2Digits n (y / 2) (2 * acc + 1) else log2Digits n y (2 * acc)

/-- TL[i] = rne(log2(1 + i/256) * 2^30), from 40 digits. -/
def tableL (i : Nat) : Nat :=
  if i = 256 then 2 ^ 30 else rneDiv (log2Digits 40 ((256 + i) * 2 ^ 112) 0) (2 ^ 10)

/-- Interpolation of a table at fraction f of w bits (R202). -/
def interpolate (t : Nat → Nat) (f w : Nat) : Int :=
  let i := f / 2 ^ (w - 8)
  let r := f % 2 ^ (w - 8)
  let d : Int := (t (i + 1) : Int) - t i
  (t i : Int) + rneInt (decide (d < 0)) (d.natAbs * r) (2 ^ (w - 8)) 0

def canonNan32 : Nat := 0x7FC00000

/-- |x| = 2^e (1 + mu / 2^23): the exponent and the 23-bit fraction of a finite nonzero value of FP32. -/
def normal32 (m : Nat) (e : Int) : Int × Nat :=
  let l := m.log2
  let mu := if l ≤ 23 then m * 2 ^ (23 - l) else m / 2 ^ (l - 23)
  (e + l, mu - 2 ^ 23)

/-- exp_t (R203), on FP32 codes. -/
def expT (x : Nat) : Nat :=
  match decodeFp32 x with
  | .nan => canonNan32
  | .inf neg => if neg then 0 else f32PosInf
  | .fin neg m e =>
    let u := rneInt neg (m * constLB) 1 (e - 6)
    if (128 * 2 ^ 24 : Int) ≤ u then f32PosInf
    else if u < -(150 * 2 ^ 24 : Int) then 0
    else
      let n := u / (2 ^ 24 : Int)
      let f := (u - n * (2 ^ 24 : Int)).toNat
      roundInt fp32 (interpolate tableE f 24) (n - 30)

/-- log_t (R204). -/
def logT (x : Nat) : Nat :=
  match decodeFp32 x with
  | .nan => canonNan32
  | .inf neg => if neg then canonNan32 else f32PosInf
  | .fin neg m e =>
    if m = 0 then f32NegInf
    else if neg then canonNan32
    else
      let p := normal32 m e
      roundInt fp32 ((p.1 * (2 ^ 30 : Int) + interpolate tableL p.2 23) * constLN2Q) (-60)

/-- rcp_t (R204). -/
def rcpT (x : Nat) : Nat :=
  match decodeFp32 x with
  | .nan => canonNan32
  | .inf neg => if neg then 0x80000000 else 0
  | .fin neg m e =>
    if m = 0 then (if neg then f32NegInf else f32PosInf)
    else
      let p := normal32 m e
      roundTo fp32 neg (interpolate tableR p.2 23).toNat 1 (-p.1 - 31)

/-- rsqrt_t (R204); its value at -0 is not stated (log entry 4). -/
def rsqrtT (x : Nat) : Nat :=
  match decodeFp32 x with
  | .nan => canonNan32
  | .inf neg => if neg then canonNan32 else 0
  | .fin neg m e =>
    if m = 0 then (if neg then Config.rsqrtNegZero % 2 ^ 32 else f32PosInf)
    else if neg then canonNan32
    else
      let p := normal32 m e
      if p.1 % 2 = 0 then roundInt fp32 (interpolate tableS0 p.2 23) (-(p.1 / 2) - 31)
      else roundInt fp32 (interpolate tableS1 p.2 23) (-((p.1 - 1) / 2) - 31)

/-- The code with its sign bit turned over; every NaN becomes the canonical one (R190). -/
def f32Neg (x : Nat) : Nat := encodeVal fp32 (vNeg (decodeFp32 x))

/-- sigmoid_t (R204). -/
def sigmoidT (x : Nat) : Nat :=
  match decodeFp32 x with
  | .nan => canonNan32
  | v =>
    if f32Lt x 0 && !(match v with | .fin _ 0 _ => true | _ => false) then
      let y := expT x
      f32Mul y (rcpT (f32Add f32One y))
    else rcpT (f32Add f32One (expT (f32Neg x)))

/-- boltz_t (R205): the weight of an energy change at a 16.16 temperature, in units of 2^-24. -/
def boltzT (dE : Int) (t : Nat) : Nat :=
  if dE ≤ 0 then 2 ^ 24
  else if t = 0 then 0
  else
    let q := rneDiv (dE.toNat * constLB * 2 ^ 10) t
    let n2 := -(q : Int) / (2 ^ 24 : Int)
    let f := (-(q : Int) - n2 * (2 ^ 24 : Int)).toNat
    let sh := 6 - n2
    if (32 : Int) ≤ sh then 0
    else min (2 ^ 24) (rneDiv (interpolate tableE f 24).toNat (2 ^ sh.toNat))

end Sys2Proof.Machine
end

