-- ==== Sys2Proof/Machine/Array.lean ====
section
/-!
DEFINITION. Sys2Proof/Machine/Array.lean: the field array: geometry (R112), the descriptor and its checks (R143, R144),
weight tiles (R121 to R123), the exact sums (R116, R118, R149 to R151, R168 to R171), preload (R130, R131), drain,
drops and statistics (R135 to R141, R161), rescale tables (R178 to R183), narrow transfer (R159) and work beats (R129).
-/
namespace Sys2Proof.Machine

/-! ### Geometry (R112) -/

/-- Core columns, core rows, core rows per die, die-columns and die-rows of a shape. -/
structure Geo where
  shape : Shape
  grade : Grade
  cols : Nat
  rows : Nat
  dieRowCores : Nat
  dieColCores : Nat
  dieCols : Nat
  dieRows : Nat
  deriving DecidableEq, Repr

def geoOf (g : Grade) (p : Shape) : Geo :=
  let h := p.hiRow + 1 - p.loRow
  let w := p.hiCol + 1 - p.loCol
  if p.dieRect then
    { shape := p, grade := g, cols := cprOf g * w, rows := 8 * h, dieRowCores := 8, dieColCores := cprOf g,
      dieCols := w, dieRows := h }
  else
    { shape := p, grade := g, cols := w, rows := h, dieRowCores := h, dieColCores := w, dieCols := 1, dieRows := 1 }

/-- The flat index of the core at partition core row q, core column c. -/
def Geo.core (o : Geo) (q c : Nat) : Nat :=
  if o.shape.dieRect then
    flatIndex o.grade ((o.shape.loRow + q / 8) * 4 + o.shape.loCol + c / cprOf o.grade) (q % 8) (c % cprOf o.grade)
  else flatIndex o.grade o.shape.die (o.shape.loRow + q) (o.shape.loCol + c)

/-- The row and column of a core among the partition's cores of its die (R122). -/
def Geo.qd (o : Geo) (q : Nat) : Nat := q % o.dieRowCores
def Geo.cd (o : Geo) (c : Nat) : Nat := c % o.dieColCores

/-- The core row of the roots: the partition's bottom core row (R17, R128). -/
def Geo.rootRow (o : Geo) : Nat := o.rows - 1

/-! ### The descriptor (R143) -/

structure ArrDesc where
  opType : Nat
  format : Nat
  mode : Nat
  group : Nat
  acc : Nat
  preload : Nat
  outFmt : Nat
  flags : Nat
  m : Nat
  k : Nat
  n : Nat
  spaces : Nat
  rescaleTable : Nat
  wAddr : Nat
  wsAddr : Nat
  aAddr : Nat
  asAddr : Nat
  pAddr : Nat
  outAddr : Nat
  statsAddr : Nat
  rtAddr : Nat
  aStride : Nat
  pStride : Nat
  outStride : Nat
  statsScale : Nat
  resv : Nat
  deriving DecidableEq, Repr

def arrDesc (d : Nat) : ArrDesc where
  opType := byteFld d 0 0
  format := byteFld d 1 1
  mode := byteFld d 2 2
  group := byteFld d 3 3
  acc := byteFld d 4 4
  preload := byteFld d 5 5
  outFmt := byteFld d 6 6
  flags := byteFld d 7 7
  m := byteFld d 8 11
  k := byteFld d 12 13
  n := byteFld d 14 15
  spaces := byteFld d 16 19
  rescaleTable := byteFld d 20 21
  wAddr := byteFld d 24 31
  wsAddr := byteFld d 32 39
  aAddr := byteFld d 40 47
  asAddr := byteFld d 48 55
  pAddr := byteFld d 56 63
  outAddr := byteFld d 64 71
  statsAddr := byteFld d 72 79
  rtAddr := byteFld d 80 87
  aStride := byteFld d 88 91
  pStride := byteFld d 92 95
  outStride := byteFld d 96 99
  statsScale := byteFld d 100 103
  resv := byteFld d 22 23 + byteFld d 104 127

/-- A DRAIN_OUT descriptor with the fields that DRAIN ignores taken as absent: one token, no operand but the outputs. -/
def drainDesc (d : ArrDesc) : ArrDesc :=
  { d with format := 2, mode := 0xA, group := 2, acc := 0, preload := 0, flags := d.flags % 4, m := 1, k := 1,
           outStride := 0, resv := 0 }

def ArrDesc.add (d : ArrDesc) : Bool := bitOf d.acc 0
def ArrDesc.opens (d : ArrDesc) : Bool := bitOf d.acc 1
def ArrDesc.stats (d : ArrDesc) : Bool := bitOf d.flags 0
def ArrDesc.rescale (d : ArrDesc) : Bool := bitOf d.flags 1
def ArrDesc.keep (d : ArrDesc) : Bool := bitOf d.flags 2
def ArrDesc.drains (d : ArrDesc) : Bool := d.opType == 2
def ArrDesc.preSource (d : ArrDesc) : Nat := fld d.preload 3 0
def ArrDesc.preFmt (d : ArrDesc) : Nat := fld d.preload 7 4
def ArrDesc.groupSize (d : ArrDesc) : Nat := 32 * 2 ^ d.group

/-- The space nibbles of R143, in order W, WS, A, AS, P, OUT, STATS, RT. -/
def ArrDesc.space (d : ArrDesc) (i : Nat) : Nat := fld d.spaces (4 * i + 3) (4 * i)

/-- P of a pairing (R115): weights per cell. -/
def pairP (format : Nat) : Nat := if format = 3 ∨ format = 4 ∨ format = 5 then 2 else 1

/-- Bits of an activation code (R124). -/
def codeBits (format : Nat) : Nat := if format = 5 then 4 else 8

/-- The pairing has an activation zero point (R162). -/
def hasZero (format : Nat) : Bool := format == 1 || format == 3

/-- Fraction bits of the band word (R115, R152). -/
def bandFrac (format : Nat) : Nat := if format = 6 then 18 else if 7 ≤ format then 32 else 0

/-- Bytes of one token's block for an entry core (R124). -/
def codeBlock (format : Nat) : Nat := 64 * pairP format * codeBits format / 8

def preBytes (fmt : Nat) : Nat := if fmt = 0 then 4 else 2
def outBytes (fmt : Nat) : Nat := match fmt with | 0 => 4 | 1 => 2 | 2 => 2 | _ => 1

/-- Groups over K (R166) and bytes of a token's records in space 0x0 (R167). -/
def ArrDesc.groups (d : ArrDesc) : Nat := (d.k + d.groupSize - 1) / d.groupSize
def ArrDesc.recBytes (d : ArrDesc) : Nat := 64 * ((d.groups + 15) / 16)

def ceilLog2 (n : Nat) : Nat := if n ≤ 1 then 0 else (n - 1).log2 + 1

/-! ### Rescale tables of the image (R178, R182) -/

/-- The directory entry of image table `index`: (ENTRIES, FIRST). -/
def imageTable (p : List Byte) (index : Nat) : Option (Nat × Nat) :=
  match (List.range (ofLe (p.take 2))).find? (fun i => ofLe ((p.drop (8 + 16 * i)).take 2) == index) with
  | none => none
  | some i => some (ofLe ((p.drop (12 + 16 * i)).take 4), ofLe ((p.drop (16 + 16 * i)).take 8))

/-- The rescale entries that an image table gives columns 0 .. n - 1. -/
def imageTableBytes (p : List Byte) (index n : Nat) : List Byte :=
  match imageTable p index with
  | none => []
  | some (_, first) => (p.drop first).take (8 * n)

/-- QNT_RT of partition n (R185): (COUNT, BASE). -/
def qntOffset (n : Nat) : Nat := 0x00410000 + 0x100 * n
def regTable (s : State) (n : Nat) : Nat × Nat :=
  let v := regActive s (qntOffset n) 0
  (fld v 47 32, fld v 21 0)

/-! ### Checks at the first beat (R144) -/

/-- The bytes of an operand in space 0x0 lie where an operation may name them. -/
def space0Ok (s : State) (r : Ranges) (a n : Nat) : Bool := rangeAllowed s r a n

/-- The bytes off .. off + n - 1 of each core's scratchpad lie below 4 MiB in banks that the owner holds (R144). -/
def space1Ok (s : State) (owner : Nat) (cores : List Nat) (off n : Nat) : Bool :=
  off + n ≤ 2 ^ 22 && cores.all (fun c => (rangeFrom (off / 2 ^ 20) ((off + n - 1) / 2 ^ 20)).all (fun b => bankOwner s c b == owner))

/-- One operand's range in its space: sizes for spaces 0, 1 and 2, and the cores that read or write space 1. -/
def operandOk (s : State) (r : Ranges) (space addr : Nat) (cores : List Nat) (n0 n1 n2 : Nat) : Bool :=
  addr % 64 == 0 &&
  (match space with
   | 0 => space0Ok s r addr n0
   | 1 => space1Ok s 0 cores addr n1
   | 2 => addr + n2 ≤ 2 ^ 32
   | _ => false)

/-- The columns' root cores whose segments hold a column below n. -/
def rootCores (o : Geo) (n : Nat) : List Nat := (List.range ((n + 63) / 64)).map (o.core o.rootRow)

def allCores (o : Geo) : List Nat := (List.range o.rows).flatMap (fun q => (List.range o.cols).map (o.core q))
def entryCores (o : Geo) : List Nat := (List.range o.rows).map (fun q => o.core q 0)

/-- RESCALE_TABLE is usable for n columns (R180, R186). -/
def tableOk (s : State) (part : Nat) (img : PartImage) (pairFailed : Bool) (d : ArrDesc) : Bool :=
  if d.rescaleTable ≤ 0x3F then
    (match imageTable img.rescale d.rescaleTable with | none => false | some (entries, _) => decide (d.n ≤ entries))
  else if d.rescaleTable = 0xFFFE then !pairFailed && d.n ≤ (regTable s part).1
  else d.rescaleTable == 0xFFFF

/-- Band height: the descriptor's, or ARR_CTRL.BAND (R143, R145). -/
def descBand64 (ctrl : Nat) (d : ArrDesc) : Bool :=
  match fld d.mode 3 2 with | 0 => false | 1 => true | _ => fld ctrl 5 4 == 1

def descTree (ctrl : Nat) (d : ArrDesc) : Bool :=
  match fld d.mode 1 0 with | 0 => false | 1 => true | _ => fld ctrl 1 0 == 1

def bandRows (b64 : Bool) : Nat := if b64 then 64 else 32

/-- The operand ranges of R144 that apply, with the strides of the operands that are used. DESIGN CHOICE (log entry 17): a range
in space 0x1 or 0x2 is taken over whole blocks of 64 elements, a partial last segment's block included, and over every entry
core, rows wholly at or beyond K included. -/
def rangesOk (s : State) (o : Geo) (d : ArrDesc) : Bool :=
  let matmul := !d.drains
  let cores := o.rows * o.cols
  let rd := o.dieRowCores
  let eb := preBytes d.preFmt
  let ob := outBytes d.outFmt
  let roots := rootCores o d.n
  let pm := if d.preSource = 2 then d.m else 1
  let rq := o.qd o.rootRow
  (!(matmul && !d.keep) ||
    (operandOk s .localOnly (d.space 0) d.wAddr (allCores o) (cores * 4096) 4096 (rd * o.dieColCores * 4096) &&
     operandOk s .localOnly (d.space 1) d.wsAddr (allCores o) (cores * 256) 256 (rd * o.dieColCores * 256))) &&
  (!matmul ||
    (operandOk s .localOnly (d.space 2) d.aAddr (entryCores o) ((d.m - 1) * d.aStride + (d.k * codeBits d.format + 7) / 8)
       (d.m * codeBlock d.format) (rd * d.m * codeBlock d.format) &&
     d.aStride % 64 == 0 &&
     operandOk s .localOnly (d.space 3) d.asAddr (entryCores o) (d.m * d.recBytes) (d.m * 8) (rd * d.m * 8))) &&
  (!(matmul && d.preSource != 0) ||
    (operandOk s .localOnly (d.space 4) d.pAddr roots ((pm - 1) * d.pStride + d.n * eb) (pm * 64 * eb)
       ((rq + 1) * pm * 64 * eb) &&
     d.pStride % 64 == 0)) &&
  (d.opens ||
    (operandOk s .store (d.space 5) d.outAddr roots ((d.m - 1) * d.outStride + d.n * ob) (d.m * 64 * ob)
       ((rq + 1) * d.m * 64 * ob) &&
     d.outStride % 64 == 0)) &&
  (!(d.stats && !d.opens) || operandOk s .store (d.space 6) d.statsAddr [] (d.m * 16) 0 0) &&
  (!(d.rescale && d.rescaleTable == 0xFFFF) ||
    operandOk s .localOnly (d.space 7) d.rtAddr roots (d.n * 8) (d.n * 8) (d.n * 8))

/-- The checks of R144 on a descriptor whose OP_TYPE matches its command. -/
def arrChecks (s : State) (part : Nat) (img : PartImage) (st : ArrSt) (pairFailed : Bool) (ctrl : Nat) (d : ArrDesc) : Bool :=
  let o := geoOf s.fuse.grade img.shape
  let codes := 1 ≤ d.format && d.format ≤ 9 && fld d.mode 1 0 ≤ 2 && fld d.mode 3 2 ≤ 2 && d.mode < 16 && d.group ≤ 2 &&
    d.acc ≤ 3 && d.preSource ≤ 2 && d.preFmt ≤ 2 && d.outFmt ≤ 5 && d.flags ≤ 7 && d.resv == 0
  let extents := 1 ≤ d.m && d.m ≤ 2 ^ 24 && 1 ≤ d.k && d.k ≤ 64 * o.rows * pairP d.format && 1 ≤ d.n && d.n ≤ 64 * o.cols
  let bands := bandRows (descBand64 ctrl d) * pairP d.format ≤ d.groupSize
  let accum := (!d.add || (d.m == 1 && d.preSource == 0)) && (!d.opens || d.m == 1) &&
    (!st.isOpen || d.drains || d.add)
  let output := (d.outFmt != 5 || (d.rescale && !d.stats)) && (!d.stats || d.space 6 == 0) &&
    (!d.rescale || tableOk s part img pairFailed d)
  let weights := !d.keep || st.weightsValid
  codes && extents && bands && accum && output && weights && rangesOk s o d

/-! ### Reading operands -/

/-- Bytes of an operand: space 0x0 by the remote master, space 0x1 in a core's own scratchpad, space 0x2 in its die's
stacked SRAM. -/
def spaceBytes (s : State) (space core addr n : Nat) : List PByte :=
  match space with
  | 0 => rmBytes s addr n
  | 1 => peekBytes n s (scratchAddr core addr)
  | _ => sramBytes s (coreDie s.fuse.grade core) addr n

/-- The device address that an operand's bytes lie at, for the checked read that precedes the sums. -/
def spaceAddr (s : State) (space core addr : Nat) : Nat :=
  match space with
  | 0 => addr
  | 1 => scratchAddr core addr
  | _ => sramAddr (coreDie s.fuse.grade core) addr

/-- Address of a core's tile (R122). -/
def tileAddr (o : Geo) (space addr bytes q c : Nat) : Nat :=
  match space with
  | 0 => addr + (q * o.cols + c) * bytes
  | 1 => addr
  | _ => addr + (o.qd q * o.dieColCores + o.cd c) * bytes

/-- Address of token m's block for a core at row q (R124, R130, R138). -/
def blockAddr (o : Geo) (space addr bytes tokens q m : Nat) : Nat :=
  match space with
  | 1 => addr + m * bytes
  | _ => addr + (o.qd q * tokens + m) * bytes

/-- Every tile of the partition loads (R121): the tiles by core, with poison. -/
def loadTiles (s : State) (o : Geo) (space addr bytes : Nat) : AMap (List PByte) :=
  (List.range o.rows).foldl (fun m q => (List.range o.cols).foldl (fun m c =>
    let k := o.core q c
    mins m k (spaceBytes s space k (tileAddr o space addr bytes q c) bytes)) m) []

/-- The ranges that loading tiles reads. -/
def tileRanges (s : State) (o : Geo) (space addr bytes : Nat) : List (Nat × Nat) :=
  (List.range o.rows).flatMap (fun q => (List.range o.cols).map (fun c =>
    (spaceAddr s space (o.core q c) (tileAddr o space addr bytes q c), bytes)))

/-! ### Codes, weights and records -/

def nibble (b : Nat) (odd : Bool) : Nat := if odd then b / 16 else b % 16

/-- The activation code of token m, index k, with its poison (R124). -/
def actCode (s : State) (o : Geo) (d : ArrDesc) (m k : Nat) : Nat × Bool :=
  let bits := codeBits d.format
  let q := k / (64 * pairP d.format)
  let off := (k - q * (64 * pairP d.format)) * bits / 8
  let core := o.core q 0
  let b :=
    match d.space 2 with
    | 0 => spaceBytes s 0 core (d.aAddr + m * d.aStride + k * bits / 8) 1
    | sp => spaceBytes s sp core (blockAddr o sp d.aAddr (codeBlock d.format) d.m q m + off) 1
  let x := nth (0#8, false) b 0
  (if bits = 4 then nibble x.1.toNat (k % 2 == 1) else x.1.toNat, x.2)

/-- The weight code of index k, column n, with its poison (R113, R117, R121). -/
def weightCode (st : ArrSt) (o : Geo) (d : ArrDesc) (k n : Nat) : Nat × Bool :=
  let p := pairP d.format
  let i := k / p
  let tile := mget [] st.tiles (o.core (i / 64) (n / 64))
  let x := nth (0#8, false) tile (i % 64 * 64 + n % 64)
  (if p = 2 then nibble x.1.toNat (k % 2 == 1) else x.1.toNat, x.2)

/-- The weight scale word of the band that starts at index k0, column n (R121, R164). -/
def weightScale (st : ArrSt) (o : Geo) (d : ArrDesc) (k0 n : Nat) : Nat × Bool :=
  let span := 64 * pairP d.format
  let q := k0 / span
  let lg := (k0 - q * span) / d.groupSize
  let tile := mget [] st.scaleTiles (o.core q (n / 64))
  let bs := (tile.drop ((lg * 64 + n % 64) * 2)).take 2
  (ofLe (dataOf bs), anyPoison bs)

/-- The scale record of token m for the band that starts at index k0 (R165, R167). -/
def scaleRecord (s : State) (o : Geo) (d : ArrDesc) (m k0 : Nat) : Nat × Bool :=
  let span := 64 * pairP d.format
  let q := k0 / span
  let lg := (k0 - q * span) / d.groupSize
  let core := o.core q 0
  let bs :=
    match d.space 3 with
    | 0 => spaceBytes s 0 core (d.asAddr + m * d.recBytes + k0 / d.groupSize * 4) 4
    | sp => spaceBytes s sp core (blockAddr o sp d.asAddr 8 d.m q m + lg * 4) 4
  (ofLe (dataOf bs), anyPoison bs)

/-- An operand's value: an integer code, or an FP8 code as a significand and exponent; none when it is not finite. -/
def actValue (format code : Nat) : Option (Int × Int) :=
  match format with
  | 1 | 3 => some (code, 0)
  | 2 | 4 => some (signedOf 8 code, 0)
  | 5 => some (signedOf 4 code, 0)
  | 6 | 7 => (match decodeE4m3 code with | .fin neg m e => some (finInt neg m, e) | _ => none)
  | _ => (match decodeE5m2 code with | .fin neg m e => some (finInt neg m, e) | _ => none)

def weightValue (format code : Nat) : Option (Int × Int) :=
  match format with
  | 1 | 2 => some (signedOf 8 code, 0)
  | 3 | 4 | 5 => some (signedOf 4 code, 0)
  | 6 | 8 => (match decodeE4m3 code with | .fin neg m e => some (finInt neg m, e) | _ => none)
  | _ => (match decodeE5m2 code with | .fin neg m e => some (finInt neg m, e) | _ => none)

/-- One exact product on the band word's grid, and whether an operand is not finite (R116, R169). -/
def product (format : Nat) (z : Nat) (a w : Nat) : Int × Bool :=
  match actValue format a, weightValue format w with
  | some (x, ex), some (y, ey) => ((x - z) * y * 2 ^ (ex + ey + bandFrac format).toNat, false)
  | _, _ => (0, true)

/-! ### Group column sums (R168) -/

/-- The weight codes of cell row i, cell column j in a tile, read as FORMAT's P weights (R113, R117). -/
def cellWeights (format : Nat) (tile : List PByte) (i j : Nat) : List Int :=
  let b := (nth (0#8, false) tile (i * 64 + j)).1.toNat
  if pairP format = 2 then [signedOf 4 (b % 16), signedOf 4 (b / 16)] else [signedOf 8 b]

/-- The column sum of a band of `rows` cell rows from cell row i0, as the load took it (R168): over the integer weights of the
FORMAT it loaded in. After a load of FP8 weights there is none. -/
def columnSum (st : ArrSt) (core rows i0 j : Nat) : Int :=
  if 1 ≤ st.sumFormat ∧ st.sumFormat ≤ 5 then
    (List.range rows).foldl (fun t i =>
      (cellWeights st.sumFormat (mget [] st.tiles core) (i0 + i) j).foldl (· + ·) t) 0
  else Config.columnSum core (i0 / rows) j

/-! ### One band of one element (R169, R170, R171) -/

/-- What a rescale stage passes on for one band: the contribution in units of 2^-96 and its marks, and whether a scale
word lay outside the window. -/
structure BandOut where
  sum : Int
  poison : Bool
  skew : Bool
  invalid : Bool
  outOfWindow : Bool
  deriving DecidableEq, Repr

/-- The weights of a band at indices at or beyond K, where codes enter as the zero point (R170). -/
def beyondSum (st : ArrSt) (o : Geo) (d : ArrDesc) (rows n band : Nat) : Int :=
  let p := pairP d.format
  let k0 := band * rows * p
  ((List.range (rows * p)).filter (fun i => decide (d.k ≤ k0 + i))).foldl (fun t i =>
    match weightValue d.format (weightCode st o d (k0 + i) n).1 with
    | some w => t + w.1
    | none => t) 0

/-- The contribution of one band (R169 to R171). Where the column sums were taken in the running FORMAT, d is the sum of (a − z) · w
over the indices below K; else it is b less z times the sum that the load left (R123, R168). -/
def bandOut (s : State) (st : ArrSt) (o : Geo) (d : ArrDesc) (rows m n band : Nat) : BandOut :=
  let p := pairP d.format
  let k0 := band * rows * p
  let ks := (List.range (min (rows * p) (d.k - k0))).map (· + k0)
  let rec_ := scaleRecord s o d m k0
  let word := weightScale st o d k0 n
  let codes := ks.map (fun k => (actCode s o d m k, weightCode st o d k n))
  let poison := rec_.2 || word.2 || codes.any (fun c => c.1.2 || c.2.2)
  let seq := (m * d.groups + k0 / d.groupSize) % 16
  let skew := !poison && fld rec_.1 27 24 != seq
  let aw := rec_.1 % 2 ^ 16
  let inside := inWindow word.1 && inWindow aw
  let z := if hasZero d.format then fld rec_.1 23 16 else 0
  let same := !hasZero d.format || st.sumFormat == d.format
  let ps := codes.map (fun c => product d.format (if same then z else 0) c.1.1 c.2.1)
  let bsum := ps.foldl (fun t x => t + x.1) 0
  let dsum := if same then bsum else bsum + z * (beyondSum st o d rows n band - columnSum st (o.core (k0 / (64 * p)) (n / 64)) rows (band * rows % 64) (n % 64))
  let e := (82 : Int) - bandFrac d.format + scaleExp word.1 + scaleExp aw
  { sum := if poison || skew || !inside then 0
           else dsum * (scaleMant word.1 * scaleMant aw : Nat) * 2 ^ e.toNat
    poison := poison
    skew := skew
    invalid := ps.any Prod.snd
    outOfWindow := !poison && !skew && !inside }

/-- Bands that hold an index below K (R170). -/
def bandCount (d : ArrDesc) (rows : Nat) : Nat := (d.k + rows * pairP d.format - 1) / (rows * pairP d.format)

def long0 : LongReg where
  value := 0
  range := false
  poison := false
  skew := false
  invalid := false

/-- A long add (R149): RANGE sets when the internal value leaves ±2^103. -/
def longAdd (r : LongReg) (z : Int) : LongReg :=
  let v := r.value + z
  { r with value := v, range := r.range || decide (v < -(2 ^ 199)) || decide ((2 ^ 199 : Int) ≤ v) }

/-- The value lies in the range of R148. -/
def inLongRange (v : Int) : Bool := decide (-(2 ^ 191 : Int) ≤ v) && decide (v < 2 ^ 191)

def addBand (r : LongReg) (b : BandOut) : LongReg :=
  let r1 := longAdd r b.sum
  { r1 with range := r1.range || b.outOfWindow, poison := r1.poison || b.poison, skew := r1.skew || b.skew,
            invalid := r1.invalid || b.invalid }

/-- The exact sum of element (m, n) over the bands, from `start` (R118, R153). -/
def elementSum (s : State) (st : ArrSt) (o : Geo) (d : ArrDesc) (rows : Nat) (start : LongReg) (m n : Nat) : LongReg :=
  (List.range (bandCount d rows)).foldl (fun r b => addBand r (bandOut s st o d rows m n b)) start

/-- Band contributions of element (m, n) lost to a scale word outside the window (R187). -/
def windowLosses (s : State) (st : ArrSt) (o : Geo) (d : ArrDesc) (rows m n : Nat) : Nat :=
  ((List.range (bandCount d rows)).filter (fun b => (bandOut s st o d rows m n b).outOfWindow)).length

/-- The (token, group) pairs with a tag mismatch at the leftmost column's stages, in token and group order (R172). -/
def skewPairs (s : State) (st : ArrSt) (o : Geo) (d : ArrDesc) (rows : Nat) : List (Nat × Nat) :=
  (List.range d.m).flatMap (fun m =>
    ((List.range d.groups).filter (fun g =>
      (List.range (bandCount d rows)).any (fun b =>
        b * rows * pairP d.format / d.groupSize == g && (bandOut s st o d rows m 0 b).skew))).map (fun g => (m, g)))

/-! ### Preload (R130, R131) -/

/-- A preload element on the long grid: its value, whether it was rounded, and whether it is invalid. -/
def preloadLong (fmt w : Nat) : Int × Bool × Bool :=
  let v := match fmt with | 0 => decodeFp32 w | 1 => decodeBf16 w | _ => decodeFp16 w
  match v with
  | .fin neg m e =>
    let big := decide (m ≠ 0) && decide ((95 : Int) ≤ topExp m 1 e)
    let z := rneInt neg m 1 (e + 96)
    let exact := decide (0 ≤ e + 96) || decide (m % 2 ^ (-(e + 96)).toNat = 0)
    if big then (0, false, true) else (z, !exact, false)
  | _ => (0, false, true)

/-- The preload element of token m, column n, with its poison (R130). -/
def preloadWord (s : State) (o : Geo) (d : ArrDesc) (m n : Nat) : Nat × Bool :=
  let eb := preBytes d.preFmt
  let tok := if d.preSource = 2 then m else 0
  let toks := if d.preSource = 2 then d.m else 1
  let core := o.core o.rootRow (n / 64)
  let bs :=
    match d.space 4 with
    | 0 => spaceBytes s 0 core (d.pAddr + tok * d.pStride + n * eb) eb
    | sp => spaceBytes s sp core (blockAddr o sp d.pAddr (64 * eb) toks o.rootRow tok + n % 64 * eb) eb
  (ofLe (dataOf bs), anyPoison bs)

/-- The root adds the preload after the tree sum (R130, R153). -/
def addPreload (s : State) (o : Geo) (d : ArrDesc) (r : LongReg) (m n : Nat) : LongReg :=
  if d.preSource = 0 then r
  else
    let w := preloadWord s o d m n
    let p := preloadLong d.preFmt w.1
    let r1 := longAdd r p.1
    { r1 with poison := r1.poison || w.2, invalid := r1.invalid || p.2.2 }

/-- Preload elements that conversion rounds (R131, R146). DESIGN CHOICE (log entry 17): a poisoned element whose bytes would be
rounded counts too. -/
def preloadRounded (s : State) (o : Geo) (d : ArrDesc) : Nat :=
  if d.preSource = 0 then 0
  else
    (List.range (if d.preSource = 2 then d.m else 1)).foldl (fun t m =>
      t + ((List.range d.n).filter (fun n => (preloadLong d.preFmt (preloadWord s o d m n).1).2.1)).length) 0

/-- The exact sum of element (m, n) over die-row r's own bands, as it leaves the die's bottom edge (R125, R126). -/
def dieSum (s : State) (st : ArrSt) (o : Geo) (d : ArrDesc) (rows m n r : Nat) : LongReg :=
  ((List.range (bandCount d rows)).filter (fun b => b * rows / 64 / o.dieRowCores == r)).foldl
    (fun l b => addBand l (bandOut s st o d rows m n b)) long0

/-! ### The cross-module stage (R159, R160) -/

/-- fp32() of R159 on the long grid: round_out with FP32 (R155, R156). -/
def toFp32Long (z : Int) : Int :=
  match decodeFp32 (roundInt fp32 z (-96)) with
  | .fin neg m e => if 0 ≤ e + 96 then finInt neg m * 2 ^ (e + 96).toNat else finInt neg (m / 2 ^ (-(e + 96)).toNat)
  | _ => z

/-- A leaf before the tree: FP32 rounding under narrow transfer; the value must leave its register in range (R149). -/
def leafOut (narrow : Bool) (r : LongReg) : LongReg :=
  let r1 := { r with range := r.range || !inLongRange r.value }
  if narrow then { r1 with value := toFp32Long r1.value, invalid := r1.invalid || r1.range } else r1

def joinLong (a b : LongReg) : LongReg :=
  let r := longAdd a b.value
  { r with range := r.range || b.range, poison := a.poison || b.poison, skew := a.skew || b.skew,
           invalid := a.invalid || b.invalid }

/-- h of R159. -/
def treeHalf (n : Nat) : Nat := 2 ^ (ceilLog2 n - 1)

/-- node(lo, n) of R159, no root, at the module whose position is lo: from its own leaf and from the nodes that the modules at
the right halves' positions send. `fuel` bounds the depth. -/
def nodeAt (own : LongReg) (recv : Nat → LongReg) : Nat → Nat → Nat → LongReg
  | 0, _, _ => leafOut true own
  | fuel + 1, lo, n =>
    if n ≤ 1 then leafOut true own
    else
      let v := joinLong (nodeAt own recv fuel lo (treeHalf n)) (recv (lo + treeHalf n))
      { v with value := toFp32Long v.value }

/-- Positions of the largest node below (lo, n) that the module at position p computes (R160). -/
def nodeSize : Nat → Nat → Nat → Nat → Nat
  | 0, _, _, _ => 1
  | fuel + 1, lo, n, p =>
    if p = lo ∨ n ≤ 1 then n
    else if p < lo + treeHalf n then nodeSize fuel lo (treeHalf n) p
    else nodeSize fuel (lo + treeHalf n) (n - treeHalf n) p

/-- The node that the module at position p of n computes and, unless it stands next to the root, sends: its value. -/
def ownNode (n p : Nat) (own : LongReg) (recv : Nat → LongReg) : LongReg :=
  let h := treeHalf n
  nodeAt own recv 8 p (if p < h then nodeSize 8 0 h p else nodeSize 8 h (n - h) p)

/-- What the module at a position sends for element (m, n), as it arrives over the links. -/
def remoteLeaf (remote : List RemoteSum) (pos m n : Nat) : LongReg :=
  match remote.find? (fun r => r.pos == pos && r.token == m && r.col == n) with
  | none => long0
  | some r => { value := r.value, range := r.range, poison := r.poison, skew := r.skew, invalid := false }

/-- This module's position in MODULE_ORDER. -/
def treePos (img : PartImage) (me : Nat) : Nat := (img.tree.modules.findIdx? (· == me)).getD 0

/-- The sum that the root takes for element (m, n): its own die-row sum joined with the other modules' (R157 to R160). Under full
transfer every module's long sum joins; under narrow transfer the root node joins the nodes (0, h) and (h, n − h). -/
def crossSum (img : PartImage) (me : Nat) (remote : List RemoteSum) (own : LongReg) (m n : Nat) : LongReg :=
  let k := img.tree.modules.length
  let p := treePos img me
  let recv := fun q => remoteLeaf remote q m n
  if k ≤ 1 then own
  else if img.tree.transfer = 1 then
    let part := fun q => if q = p then ownNode k p own recv else recv q
    joinLong (part 0) (part (treeHalf k))
  else ((List.range k).filter (· != p)).foldl (fun v q => joinLong v (recv q)) (leafOut false own)

/-- The value that this module sends on for element (m, n), to the root or to the module that computes the node above. -/
def sentValue (img : PartImage) (me : Nat) (remote : List RemoteSum) (own : LongReg) (m n : Nat) : LongReg :=
  if img.tree.transfer = 1 then ownNode img.tree.modules.length (treePos img me) own (fun q => remoteLeaf remote q m n)
  else leafOut false own

/-- This module sends its value on: not the root module, unless under narrow transfer its node stands below another's. -/
def sendsValue (img : PartImage) (me : Nat) : Bool :=
  let k := img.tree.modules.length
  let p := treePos img me
  decide (1 < k) && (img.tree.rootPos != p || (img.tree.transfer == 1 && p != 0 && p != treeHalf k))

/-- This module holds the partition's root (R68). -/
def holdsRoot (img : PartImage) (me : Nat) : Bool :=
  img.tree.modules.length ≤ 1 || nth me img.tree.modules img.tree.rootPos == me

/-! ### Drain (R137, R138, R178 to R180) -/

def rescaleMult (e : Nat) : Int := signedOf 32 (fld e 31 0)
def rescaleShift (e : Nat) : Nat := fld e 46 40
def rescaleZp (e : Nat) : Int := signedOf 8 (fld e 39 32)

/-- The exact value after step 2 of R137: an integer times a power of two. -/
def drained (d : ArrDesc) (entry : Nat) (v : Int) : Int × Int :=
  if d.rescale then (v * rescaleMult entry, -96 - rescaleShift entry) else (v, -96)

def outFormat (code : Nat) : Fmt :=
  match code with
  | 0 => fp32
  | 1 => fp16
  | 2 => bf16
  | 3 => e4m3
  | _ => e5m2

def dropValue (code : Nat) : Nat :=
  match code with
  | 0 => 0x7FC00000
  | 1 => 0x7E00
  | 2 => 0x7FC0
  | 3 => 0x7F
  | 4 => 0x7E
  | _ => 0x00

/-- The element's code when it is not dropped (R137, R155, R179). -/
def outCode (d : ArrDesc) (entry : Nat) (v : Int) : Nat :=
  let x := drained d entry v
  if d.outFmt = 5 then
    wrapTo 8 (clampInt (-128) 127 (rneInt (decide (x.1 < 0)) x.1.natAbs 1 x.2 + rescaleZp entry))
  else roundInt (outFormat d.outFmt) x.1 x.2

/-- One output element: its code, and why it was dropped if it was (R138). -/
structure OutElem where
  code : Nat
  value : Int
  exp : Int
  dropped : Bool
  poison : Bool
  skew : Bool
  deriving DecidableEq, Repr

def outElem (d : ArrDesc) (entry : Nat × Bool) (r : LongReg) : OutElem :=
  let poison := r.poison || (d.rescale && entry.2)
  let dropped := poison || r.skew || r.invalid || r.range || !inLongRange r.value
  let x := drained d entry.1 r.value
  { code := if dropped then dropValue d.outFmt else outCode d entry.1 r.value, value := x.1, exp := x.2,
    dropped := dropped, poison := poison, skew := !poison && r.skew }

/-- The rescale entries of columns 0 .. n - 1 that the drain stage uses, with poison (R180, R183). -/
def tableEntries (s : State) (part : Nat) (img : PartImage) (o : Geo) (d : ArrDesc) : List PByte :=
  if !d.rescale then []
  else if d.rescaleTable ≤ 0x3F then clean (imageTableBytes img.rescale d.rescaleTable d.n)
  else
    (List.range d.n).flatMap (fun n =>
      let core := o.core o.rootRow (n / 64)
      if d.rescaleTable = 0xFFFE then feederBytes s core ((regTable s part).2 + 8 * n) 8
      else spaceBytes s (d.space 7) core (d.rtAddr + 8 * n) 8)

def entryAt (table : List PByte) (n : Nat) : Nat × Bool :=
  let bs := (table.drop (8 * n)).take 8
  (ofLe (dataOf bs), anyPoison bs)

/-! ### Fused statistics (R140, R141, R161) -/

structure RowStat where
  top : Nat
  sum : Nat
  count : Nat
  deriving DecidableEq, Repr

def rowStat0 : RowStat where
  top := f32NegInf
  sum := 0
  count := 0

def statStep (scale : Nat) (t : RowStat) (e : OutElem) : RowStat :=
  if e.dropped then t
  else
    let x := f32Mul (roundInt fp32 e.value e.exp) scale
    if f32Lt t.top x then
      { top := x, sum := f32Add (f32Mul t.sum (expT (f32Sub t.top x))) f32One, count := t.count + 1 }
    else { t with sum := f32Add t.sum (expT (f32Sub x t.top)), count := t.count + 1 }

def statMerge (a b : RowStat) : RowStat :=
  if b.count = 0 then a
  else if a.count = 0 then b
  else
    let m := if f32Lt a.top b.top then b.top else a.top
    { top := m
      sum := f32Add (f32Mul a.sum (expT (f32Sub a.top m))) (f32Mul b.sum (expT (f32Sub b.top m)))
      count := a.count + b.count }

/-- The segments of a token merge over the tree of R159. -/
def statTree : Nat → List RowStat → RowStat
  | 0, ls => nth rowStat0 ls 0
  | fuel + 1, ls =>
    match ls with
    | [] => rowStat0
    | [x] => x
    | _ =>
      let h := 2 ^ (ceilLog2 ls.length - 1)
      statMerge (statTree fuel (ls.take h)) (statTree fuel (ls.drop h))

def rowStats (o : Geo) (d : ArrDesc) (row : List OutElem) : RowStat :=
  let w := 64 * o.dieColCores
  statTree 4 ((List.range o.dieCols).map (fun g => ((row.drop (g * w)).take w).foldl (statStep d.statsScale) rowStat0))

def statBytes (t : RowStat) : List PByte := clean (leBytes 4 t.top ++ leBytes 4 t.sum ++ leBytes 4 t.count ++ leBytes 4 0)

/-! ### Work beats (R122, R124, R128, R129, R133, R136) -/

/-- LAT at the rate in force (R46, R77). -/
def latBeats (s : State) : Nat :=
  match s.image.force with
  | none => 0
  | some f => match s.rate.rate with | 0 => f.interleave.lat120 | 1 => f.interleave.lat135 | _ => f.interleave.lat150

def isHbm (s : State) (a : Nat) : Bool := match region s.fuse.grade a with | .hbm => true | _ => false

def loadBeats (s : State) (space addr : Nat) : Nat :=
  match space with
  | 0 => if isHbm s addr then latBeats s + 8 else 48
  | 1 => 16
  | _ => 8

def feedBeats (s : State) (space addr : Nat) : Nat :=
  match space with
  | 0 => if isHbm s addr then latBeats s + 6 else 48
  | _ => 6

def dieTreeBeats (o : Geo) (order : Nat) : Nat :=
  match o.dieRows with
  | 2 => 26
  | 3 => 52
  | 4 => if order = 0 then 76 else 78
  | _ => 0

def fillBeats (o : Geo) : Nat := (o.cols - 1) + 4 * (o.dieCols - 1)

def columnBeats (o : Geo) (tree b64 : Bool) : Nat :=
  if tree then (if b64 then 6 else 5) + 4 + 4 * ceilLog2 o.dieRowCores else 132 * o.dieRowCores

def drainStageBeats (d : ArrDesc) : Nat := 4 + (if d.stats then 8 else 0)

/-- Beats until the last activation row has entered every entry core (R133). -/
def entryBeats (s : State) (o : Geo) (d : ArrDesc) (tree : Bool) : Nat :=
  (if d.keep then 0 else max (loadBeats s (d.space 0) d.wAddr) (loadBeats s (d.space 1) d.wsAddr))
    + max (feedBeats s (d.space 2) d.aAddr) (feedBeats s (d.space 3) d.asAddr)
    + (if tree then 0 else 132 * (o.dieRowCores - 1)) + (d.m - 1)

/-- Beats from an operation's first beat until its last sum has reached the root (R129). -/
def sumBeats (s : State) (o : Geo) (order : Nat) (d : ArrDesc) (tree b64 : Bool) : Nat :=
  (if d.keep then 0 else max (loadBeats s (d.space 0) d.wAddr) (loadBeats s (d.space 1) d.wsAddr))
    + max (feedBeats s (d.space 2) d.aAddr) (feedBeats s (d.space 3) d.asAddr)
    + fillBeats o + columnBeats o tree b64 + dieTreeBeats o order + (d.m - 1)

/-- Beats of a drain token with nothing ahead of it until it has left every root (R136). -/
def tokenBeats (o : Geo) (order : Nat) : Nat := fillBeats o + o.dieRowCores + dieTreeBeats o order

/-- Beats by which items in flight hold back a DRAIN's tokens: what the surroundings bring, within what the last OPEN operation
has left to do after its completion (R136). -/
def behindBeats (st : ArrSt) (o : Geo) (order extra : Nat) : Nat :=
  if st.isOpen then min extra (st.inFlight - tokenBeats o order) else 0

def workBeats (s : State) (o : Geo) (order : Nat) (d : ArrDesc) (tree b64 : Bool) : Nat :=
  if d.drains then tokenBeats o order + drainStageBeats d + 8
  else if d.opens then entryBeats s o d tree
  else sumBeats s o order d tree b64 + drainStageBeats d + 8

end Sys2Proof.Machine
end

