-- ==== Sys2Proof/Machine/LinkNet.lean ====
section
/-!
DEFINITION. Sys2Proof/Machine/LinkNet.lean: what a module puts on its links: packets and their flits (R408, R414), pair
sequences (R415), routes and held packets (R423), sync and management flits (R418, R428), multicast transfers (R425 to
R427).
-/
namespace Sys2Proof.Machine

def link0 : LinkSt where
  state := 0
  peerModule := 0x7F
  peerLink := 0
  peerDomain := 0
  peerLeader := 0
  laneMask := 0
  everUp := false
  trained := false
  trainers := []
  txSeq := 0#32
  rxSeq := 0xFFFFFFFF#32
  unacked := []
  resend := []
  resends := []
  nakDue := false
  degradeReq := none
  switchAt := none
  switchOurs := false
  creditData := 0
  creditResp := 0
  creditSync := 0
  creditMgmt := 0
  freedData := 0
  freedResp := 0
  freedSync := 0
  freedMgmt := 0
  txData := []
  txResp := []
  txCur := []
  txSync := []
  txMgmt := []
  rxData := []
  rxSync := []
  rxMgmt := []
  reqOut := none
  reqIn := []
  crcFails := 0
  replays := 0
  fecUnc := 0
  retrains := 0
  degrades := 0
  fec := 0#64
  delay := 0
  stallNs := 0#64
  formatDrops := 0
  routeDrops := 0

def pairTx0 : PairTx where
  next := 0#16
  unreleased := 0
  sent := []
  waiting := []

def pairRx0 : PairRx where
  next := 0#16
  window := []
  announce := []
  unreported := 0

def mcastCtr0 : McastCtr where
  transfers := 0
  retried := 0
  refused := 0

def linkOf (s : State) (l : Nat) : LinkSt := mget link0 s.net.links l
def setLink (s : State) (l : Nat) (v : LinkSt) : State :=
  { s with net := { s.net with links := mput link0 s.net.links l v } }
def pairTxOf (s : State) (m : Nat) : PairTx := mget pairTx0 s.net.tx m
def setPairTx (s : State) (m : Nat) (v : PairTx) : State :=
  { s with net := { s.net with tx := mput pairTx0 s.net.tx m v } }
def pairRxOf (s : State) (m : Nat) : PairRx := mget pairRx0 s.net.rx m
def setPairRx (s : State) (m : Nat) (v : PairRx) : State :=
  { s with net := { s.net with rx := mput pairRx0 s.net.rx m v } }
def mcastCtrOf (s : State) (g : Nat) : McastCtr := mget mcastCtr0 s.net.groups g
def setMcastCtr (s : State) (g : Nat) (v : McastCtr) : State :=
  { s with net := { s.net with groups := mput mcastCtr0 s.net.groups g v } }

/-! ### Topology and routes -/

/-- A link's entry of LINK_TOPOLOGY; without an image no link has a peer. -/
def linkTopo (s : State) (l : Nat) : LinkTopo :=
  match s.image.force with
  | none => { peer := 0xFF, peerLink := 0, maxLanes := 8, tree := false }
  | some f => mget { peer := 0xFF, peerLink := 0, maxLanes := 8, tree := false } f.links l

def routeMask (s : State) (m : Nat) : Nat :=
  match s.image.force with
  | none => 0
  | some f => (mget 0#32 f.routes m).toNat

/-- STATE up (R431). -/
def isUp (s : State) (l : Nat) : Bool := (linkOf s l).state == 3

/-- The up links of the route to module m (R423). -/
def upRoute (s : State) (m : Nat) : List Nat := (bitList 32 (routeMask s m)).filter (isUp s)

def upLinks (s : State) : List Nat := (List.range 32).filter (isUp s)

/-! ### Flits (R414) -/

def flitByte (f : BitVec 512) (lo hi : Nat) : Nat := byteFld f.toNat lo hi

/-- The data flits of a packet: its bytes from OFFSET on, zero elsewhere. -/
def dataFlits (p : Packet) : List (List PByte) :=
  match p.data with
  | [] => []
  | _ => chunks 64 ((p.data.length + p.offset + 63) / 64) (clean (List.replicate p.offset 0#8) ++ p.data)

def padFlit (bs : List PByte) : BitVec 512 := BitVec.ofNat 512 (ofLe (dataOf bs))

def poisonMask (fs : List (List PByte)) : Nat :=
  ((List.range fs.length).filter (fun i => anyPoison (nth [] fs i))).foldl (fun t i => t + 2 ^ i) 0

/-- The header flit (R414). -/
def headerFlit (p : Packet) : BitVec 512 :=
  let fs := dataFlits p
  BitVec.ofNat 512 (put p.typ 7 0 + put p.dst 15 8 + put p.src 23 16 + put fs.length 31 24 + put p.seq 47 32
    + put (poisonMask fs) 63 48 + put p.addr 111 64 + put p.len 143 128 + put p.offset 151 144 + put p.tag 191 160
    + put p.inline.toNat 255 192)

def packetFlits (p : Packet) : List (BitVec 512) := headerFlit p :: (dataFlits p).map padFlit

/-- The packet whose flits stand at the head of a buffer, and the flits left. -/
def packetHead (fs : List (BitVec 512)) : Option (Packet × List (BitVec 512)) :=
  match fs with
  | [] => none
  | h :: rest =>
    let n := flitByte h 3 3
    if rest.length < n then none
    else
      let mask := flitByte h 6 7
      let len := flitByte h 16 17
      let off := flitByte h 18 18
      let bytes := ((rest.take n).mapIdx (fun (i : Nat) (f : BitVec 512) =>
        (leBytes 64 f.toNat).map (fun b => (b, mask.testBit i)))).flatten
      let p : Packet := { typ := flitByte h 0 0, dst := flitByte h 1 1, src := flitByte h 2 2, seq := flitByte h 4 5,
                          addr := flitByte h 8 13, len := len, offset := off, tag := flitByte h 20 23,
                          inline := BitVec.ofNat 64 (flitByte h 24 31), data := (bytes.drop off).take len, slot := none }
      some (p, rest.drop n)

/-! ### Sending packets (R415, R423) -/

/-- Data flits that wait to leave on a link: each will take a credit of it. -/
def queuedData (x : LinkSt) : Nat := (x.txData.map List.length).foldl (· + ·) 0

/-- The up link of a route with the most data credit left beside the packets that already wait for it, the lowest number
on a tie. -/
def bestLink (s : State) (ls : List Nat) : Option Nat :=
  leastBy (fun l => 2 ^ 16 + queuedData (linkOf s l) - (linkOf s l).creditData) ls

/-- A numbered packet leaves on its route, or is held for want of an up link (R423); `via` is the link whose receive
buffer it then goes on holding. -/
def forwardFrom (via : Option Nat) (s : State) (p : Packet) : State :=
  match bestLink s (upRoute s p.dst) with
  | some l =>
    let x := linkOf s l
    setLink s l (if p.typ = 4 then { x with txResp := x.txResp ++ [packetFlits p] }
                 else { x with txData := x.txData ++ [packetFlits p] })
  | none => { s with net := { s.net with held := s.net.held ++ [{ pkt := p, since := s.time.count, via := via }] } }

/-- A packet of this module leaves, or is held. -/
def forward (s : State) (p : Packet) : State := forwardFrom none s p

/-- The slot whose command waits for a packet of this module (R415, R423). -/
def slotOfPacket (s : State) (p : Packet) : Option Nat :=
  let t := pairTxOf s p.dst
  if p.src = moduleId s then nth none t.sent (BitVec.ofNat 16 p.seq - (t.next - BitVec.ofNat 16 t.sent.length)).toNat else none

/-- The packets that wait whole on link l, which has left service, leave on another up link of their routes, or are held
(R412, R423). A packet begun stays with its link. -/
def requeue (s : State) (l : Nat) : State :=
  let x := linkOf s l
  let ps := (x.txResp ++ x.txData).filterMap (fun fs => (packetHead fs).map Prod.fst)
  ps.foldl (fun s p => forward s { p with slot := slotOfPacket s p }) (setLink s l { x with txResp := [], txData := [] })

/-- The flits of a packet leave the receive buffer of link l, and their credit goes back (R410, R413). -/
def freeFlits (s : State) (l : Nat) (p : Packet) : State :=
  let x := linkOf s l
  let n := (packetFlits p).length
  setLink s l (if p.typ = 4 then { x with freedResp := x.freedResp + n } else { x with freedData := x.freedData + n })

/-- A held packet no longer holds a receive buffer. -/
def freeHeld (s : State) (h : HeldPacket) : State :=
  match h.via with
  | some l => freeFlits s l h.pkt
  | none => s

/-- A packet of this module enters its pair: it is numbered, or waits while 1,024 are unreleased (R415). -/
def sendPacket (s : State) (p : Packet) : State :=
  let t := pairTxOf s p.dst
  if 1024 ≤ t.unreleased then setPairTx s p.dst { t with waiting := t.waiting ++ [p] }
  else
    forward (setPairTx s p.dst { t with next := t.next + 1#16, unreleased := t.unreleased + 1, sent := t.sent ++ [p.slot] })
      { p with seq := t.next.toNat }

/-- The bytes of a write cut at 1,024-byte boundaries (R414). -/
def packetPieces : Nat → Nat → List PByte → List (Nat × List PByte)
  | 0, _, _ => []
  | fuel + 1, a, bs =>
    match bs with
    | [] => []
    | _ =>
      let k := 1024 - a % 1024
      (a, bs.take k) :: packetPieces fuel (a + k) (bs.drop k)

def writePacket (s : State) (typ m a tag : Nat) (bs : List PByte) (slot : Option Nat) : Packet where
  typ := typ
  dst := m
  src := moduleId s
  seq := 0
  addr := a
  len := bs.length
  offset := a % 64
  tag := tag
  inline := 0#64
  data := bs
  slot := slot

/-- WRITE or MCAST_WRITE packets carry bytes to addresses of module m. -/
def sendWrite (s : State) (typ m a tag : Nat) (bs : List PByte) (slot : Option Nat) : State :=
  (packetPieces (bs.length + 1) a bs).foldl (fun s p => sendPacket s (writePacket s typ m p.1 tag p.2 slot)) s

/-- A write that reaches a peer window (R414, R528): offset x folds to the peer's address. -/
def peerWrite (s : State) (m x : Nat) (bs : List PByte) (slot : Option Nat) : State :=
  match peerFold x with
  | some a => noteMoved (sendWrite s 1 m a 0 bs slot) (poisonUnits bs)
  | none => s

/-- A WRITE_ANNOUNCE of 8 bytes (R414, R416). An arrival's names its context in TAG, plus 1, so that the home can send a
refusal to it (R390); the spec gives TAG no meaning here (log entry 50). -/
def peerAnnounceTag (s : State) (m x : Nat) (w : BitVec 64) (slot : Option Nat) (tag : Nat) : State :=
  match peerFold x with
  | some a => sendPacket s { writePacket s 2 m a tag [] slot with len := 8, offset := 0, inline := w }
  | none => s

/-- A WRITE_ANNOUNCE that names no context. -/
def peerAnnounce (s : State) (m x : Nat) (w : BitVec 64) (slot : Option Nat) : State := peerAnnounceTag s m x w slot 0

/-! ### Sync and management flits (R418, R428) -/

/-- A sync or management flit for module m goes to the lowest-numbered up link of its route; without one it waits in
no buffer and is lost (R409, R418). -/
def sendSync (s : State) (m : Nat) (f : BitVec 512) : State :=
  match upRoute s m with
  | [] => s
  | l :: _ => setLink s l { linkOf s l with txSync := (linkOf s l).txSync ++ [f] }

def sendMgmt (s : State) (m : Nat) (f : BitVec 512) : State :=
  match upRoute s m with
  | [] => s
  | l :: _ => setLink s l { linkOf s l with txMgmt := (linkOf s l).txMgmt ++ [f] }

/-- A sync flit's bytes 0 to 15 (R418). -/
def syncFlit (s : State) (typ m object word : Nat) : BitVec 512 :=
  BitVec.ofNat 512 (put typ 7 0 + put m 15 8 + put (moduleId s) 23 16 + put object 63 32 + put word 127 64)

/-- A management flit: TYPE, DST, SRC (R428), with its content from byte 4 on (the spec places no more; log 16). -/
def mgmtFlit (s : State) (typ m body : Nat) : BitVec 512 :=
  BitVec.ofNat 512 (put typ 7 0 + put m 15 8 + put (moduleId s) 23 16 + put body 255 32)

/-! ### Multicast (R425 to R427) -/

/-- LNK_MCAST_GROUP_g. -/
def mcastMembers (s : State) (g : Nat) : BitVec 64 := BitVec.ofNat 64 (regActive s (0x00A05000 + 0x10 * g) 0)

/-- A refused access to a group's window (R425). -/
def mcastRefused (s : State) (g : Nat) : State :=
  setMcastCtr s g { mcastCtrOf s g with refused := satTo 16 ((mcastCtrOf s g).refused + 1) }

/-- A transfer whose members have all granted is sent, and this module's own copy is written (R426). -/
def mcastSend (s : State) (t : McastTx) : State :=
  let me := moduleId s
  let s1 := if t.members.toNat.testBit me then (localWrite s t.owner t.offset t.data).2 else s
  let s2 := (bitList 64 t.members.toNat).foldl (fun s m =>
    if m = me then s
    else if t.granted.toNat.testBit m then sendWrite s 5 m t.offset t.id.toNat t.data t.slot
    else sendWrite s 1 m t.offset 0 t.data t.slot) s1
  let c := mcastCtrOf s2 t.group
  setMcastCtr (noteMoved s2 (poisonUnits t.data)) t.group { c with transfers := satTo 32 (c.transfers + 1) }

/-- The first transfers of group g, in issue order, whose members have all granted, go out (R426). -/
def mcastGo : Nat → State → Nat → State
  | 0, s, _ => s
  | fuel + 1, s, g =>
    match s.net.mcast.find? (fun t => t.group == g) with
    | none => s
    | some t =>
      if t.members &&& ~~~t.granted = 0#64 then
        mcastGo fuel (mcastSend { s with net := { s.net with mcast := s.net.mcast.filter (· != t) } } t) g
      else s

/-- A transfer starts: MCAST_RESERVE goes to every other member; this module's own copy needs no buffer. -/
def mcastStart (s : State) (owner g off : Nat) (bs : List PByte) (slot : Option Nat) : State :=
  let members := mcastMembers s g
  let me := BitVec.ofNat 64 (if members.toNat.testBit (moduleId s) then 2 ^ moduleId s else 0)
  let t : McastTx := { group := g, id := s.net.nextId, members := members, granted := me, sent := false, offset := off,
                       data := bs, slot := slot, owner := owner }
  let s1 := { s with net := { s.net with mcast := s.net.mcast ++ [t], nextId := s.net.nextId + 1#32 } }
  let s2 := (bitList 64 members.toNat).foldl (fun s m =>
    if m = moduleId s then s else sendMgmt s m (mgmtFlit s 0x22 m (t.id.toNat + bs.length * 2 ^ 32))) s1
  mcastGo (s2.net.mcast.length + 1) s2 g

/-- A write to a group's window (R425): refused where it would reach the members' reserved HBM. -/
def mcastWrite (s : State) (owner g off : Nat) (bs : List PByte) (slot : Option Nat) : Bool × State :=
  if 0x00FC00000000 ≤ off then (true, mcastRefused s g) else (false, mcastStart s owner g off bs slot)

end Sys2Proof.Machine
end

