-- ==== Sys2Proof/Machine/Outputs.lean ====
section
/-!
DEFINITION. Sys2Proof/Machine/Outputs.lean: accesses that may leave the module: host windows (R529, R530), peer windows
(R528), multicast, and the message ring (R502, R503). A device read through a window or from a peer is a request whose
bytes arrive by a later command.
-/
namespace Sys2Proof.Machine

/-! ### Host windows -/

/-- An access that a window does not carry (R530). -/
def winFault (s : State) (k : Nat) : State :=
  let n := mget 0 s.host.winFaults k
  countErr { s with host := { s.host with winFaults := mput 0 s.host.winFaults k (satTo 32 (n + 1)) } } errHost catProtocol

def winCarries (w : Window) (write : Bool) (off n : Nat) : Bool :=
  w.en && (if write then w.write else w.read) && off + n ≤ 2 ^ (12 + w.size)

/-- What a write is, for its ordering (R529, R360). -/
inductive WriteKind where
  | data
  | record
  | signal
  deriving DecidableEq, Repr

def winWrite (s : State) (k off : Nat) (bs : List PByte) (kind : WriteKind) : Bool × State :=
  let w := window s k
  if winCarries w true off bs.length then
    (false, emit s (.hostWrite w.port (w.hostAddr + off) bs (w.ro && kind == .data) w.noSnoop))
  else (true, winFault s k)

/-- A read request of up to 4,096 bytes, for `why`; false where the window does not carry it. -/
def winRead (s : State) (k off n : Nat) (why : ReadFor) : Bool × State :=
  let w := window s k
  if winCarries w false off n then
    let t := s.host.nextTag
    let r : DevRead := { tag := t, port := w.port, addr := 0x020000000000 + k * 2 ^ 36 + off, bytes := n, got := [], why := why }
    let s1 := { s with host := { s.host with reads := s.host.reads ++ [r], nextTag := t + 1 } }
    (true, emit s1 (.hostRead t w.port (w.hostAddr + off) n w.noSnoop))
  else (false, winFault s k)

/-- Port code of a read from a peer module. -/
def peerPort : Nat := 2

/-- A READ_REQ to a peer (R417). -/
def peerRead (s : State) (m x n : Nat) (why : ReadFor) : State :=
  match peerFold x with
  | none => s
  | some a =>
    let t := s.host.nextTag
    let r : DevRead := { tag := t, port := peerPort, addr := 0x400000000000 + m * 2 ^ 40 + x, bytes := n, got := [], why := why }
    let s1 := { s with host := { s.host with reads := s.host.reads ++ [r], nextTag := t + 1 } }
    sendPacket s1 { writePacket s1 3 m a t [] none with len := n, offset := 0 }

/-! ### A write to any address a command may name -/

/-- A write of bs from a: (some bytes were refused, dropped or lost, the state). The module's own event area refuses every
write but a signal, which signalWrite makes (R360). -/
def devWrite (s : State) (slot : Option Nat) (kind : WriteKind) (a : Nat) (bs : List PByte) : Bool × State :=
  match region s.fuse.grade a with
  | .hostWin k off => winWrite s k off bs kind
  | .peer m off =>
    match kind with
    | .signal => (false, peerAnnounce s m off (BitVec.ofNat 64 (ofLe (dataOf bs))) slot)
    | _ => (false, peerWrite s m off bs slot)
  | .mcast g off =>
    match kind with
    | .signal => (true, mcastRefused s g)
    | _ => mcastWrite s ownDma g off bs slot
  | .events => (true, countErr s errFe catProtocol)
  | _ => localWrite s ownDma a bs

/-! ### The message ring (R502, R503) -/

def ringBase (v : Nat) : Nat := fld v 47 0
def ringEntries (v : Nat) : Nat := 2 ^ (fld v 63 60 + 6)

/-- PHASE of entry t (R359). -/
def phaseOf (t entries : Nat) : Nat := 1 - t / entries % 2

def msgRing (s : State) : Nat := regActive s 0x4200 0
def msgCtrl (s : State) : Nat := regActive s 0x4210 0

/-- Records in the ring that software has not consumed. -/
def msgUsed (s : State) : Nat := (s.msg.tail - s.msg.head).toNat

/-- The oldest queued message is written into the ring. -/
def writeMsg (s : State) (r : Rec) (rest : List Rec) : State :=
  let v := msgRing s
  let n := ringEntries v
  let t := s.msg.tail.toNat
  let r1 := r.toNat + put (phaseOf t n * 128 + min 127 s.msg.lostSince) 23 16
  let s1 := (devWrite s none .record (ringBase v + t % n * 32) (clean (leBytes 32 r1))).2
  { s1 with msg := { s1.msg with queue := rest, tail := s1.msg.tail + 1#32, lostSince := 0,
                                 msixDue := s1.msg.msixDue || bitOf (msgCtrl s) 0 } }

/-- Up to n queued messages go to the ring while it is set and has space; `fuel` bounds them. -/
def flushUpTo : Nat → State → State
  | 0, s => s
  | fuel + 1, s =>
    match s.msg.queue with
    | [] => s
    | r :: rest =>
      if ringBase (msgRing s) = 0 ∨ ringEntries (msgRing s) ≤ msgUsed s then s else flushUpTo fuel (writeMsg s r rest)

def flushMsgs (s : State) : State := flushUpTo 64 s

end Sys2Proof.Machine
end

