-- ==== Sys2Proof/Machine/SyncBase.lean ====
section
/-!
DEFINITION. Sys2Proof/Machine/SyncBase.lean: the objects of a core's sync unit and the contexts that use them (R383 to
R386, R401 to R406), wakes (R388, R391) and abandonment (R398).
-/
namespace Sys2Proof.Machine

/-! ### Partitions' operations and their slots -/

def arr0 : ArrSt where
  dropped := 0
  poisoned := 0
  preloadRounded := 0
  weightsValid := false
  isOpen := false
  tiles := []
  scaleTiles := []
  sumFormat := 0
  inFlight := 0
  skewed := 0
  passed := none
  cleared := []

def qnt0 : QntSt where
  skewed := 0
  outOfWindow := 0
  firstToken := 0
  firstGroup := 0
  seen := false

def part0 : PartSt where
  holder := none
  armed := false
  op := none
  arr := arr0
  qnt := qnt0
  launching := true
  lastDesc := 0

def vec0 : VecSt where
  poisonLanes := 0
  cvtRange := 0
  nanQuant := 0
  suppressed := 0
  entropyWait := false
  waiting := []
  rand := []

def partOf (s : State) (n : Nat) : PartSt := mget part0 s.parts n
def setPart (s : State) (n : Nat) (v : PartSt) : State := { s with parts := mput part0 s.parts n v }
def vecOf (s : State) (n : Nat) : VecSt := mget vec0 s.vec n
def setVec (s : State) (n : Nat) (v : VecSt) : State := { s with vec := mput vec0 s.vec n v }

/-- A status that will mark the command of slot k when it completes (R390, R398, R423, R485). -/
def flagSlot (s : State) (k status : Nat) : State :=
  let t := slotOf s k
  if t.flags.contains status then s else setSlot s k { t with flags := t.flags ++ [status] }

/-- The slot of the operation, or of the annealing run, on whose behalf a context of core c works. -/
def opSlot (s : State) (c : Nat) : Option Nat :=
  match partOfCore s c with
  | none => none
  | some n =>
    match (partOf s n).op with
    | some o => some o.slot
    | none => (anlOf s n).run.map (·.slot)

def flagOp (s : State) (c status : Nat) : State :=
  match opSlot s c with
  | none => s
  | some k => flagSlot s k status

/-! ### Objects -/

def bar0 : BarSt where
  sense := false
  arrived := 0
  round := 0
  overs := 0
  hostArrivals := 0

def ctr0 : CtrSt where
  produced := 0#32
  consumed := 0#32

def ctx0 : CtxSt where
  senses := []
  wait := none
  mark := 0
  owed := false
  held := false

/-- The key of object b of core c. -/
def objKey (c b : Nat) : Nat := 32 * c + b

def barOf (s : State) (c b : Nat) : BarSt := mget bar0 s.sync.bars (objKey c b)
def setBar (s : State) (c b : Nat) (v : BarSt) : State :=
  { s with sync := { s.sync with bars := mput bar0 s.sync.bars (objKey c b) v } }
def ctrOf (s : State) (c b : Nat) : CtrSt := mget ctr0 s.sync.ctrs (objKey c b)
def setCtr (s : State) (c b : Nat) (v : CtrSt) : State :=
  { s with sync := { s.sync with ctrs := mput ctr0 s.sync.ctrs (objKey c b) v } }
def ctxOf (s : State) (k : Nat) : CtxSt := mget ctx0 s.sync.ctxs k
def setCtx (s : State) (k : Nat) (v : CtxSt) : State :=
  { s with sync := { s.sync with ctxs := mput ctx0 s.sync.ctxs k v } }

/-! ### Configuration (R401 to R405) -/

def syncReg (c off : Nat) : Nat := 0x00700000 + 0x800 * c + off
def barCfg (s : State) (c b : Nat) : Nat := regActive s (syncReg c (0x10 * b)) (0xFFF * 2 ^ 35)
def ctrCfg (s : State) (c b : Nat) : Nat := regActive s (syncReg c (0x200 + 0x10 * b)) (0xFFF * 2 ^ 35 + 2 ^ 16)
def barRemote (s : State) (c b : Nat) : Nat := regActive s (syncReg c (0x400 + 8 * b)) 0
def barCount (s : State) (c b : Nat) : Nat := fld (barCfg s c b) 12 0
def ctrSlack (s : State) (c b : Nat) : Nat := fld (ctrCfg s c b) 15 0

/-- The modules a barrier's releases go to, this one's own bit ignored (R388, R405). -/
def remoteModules (s : State) (c b : Nat) : List Nat := (bitList 64 (barRemote s c b)).filter (· != moduleId s)

/-- The fill level F (R395). -/
def fillOf (t : CtrSt) : Int := (t.produced - t.consumed).toInt

/-! ### Local senses (R386) -/

/-- The name of a barrier: its module, core and number. -/
def barName (m c b : Nat) : Nat := (m * 2048 + c) * 32 + b

def senseOf (x : CtxSt) (name : Nat) : Bool := x.senses.contains name
def flipSense (x : CtxSt) (name : Nat) : CtxSt :=
  { x with senses := if x.senses.contains name then x.senses.filter (· != name) else x.senses ++ [name] }

/-- A context that a release, a refusal or an abandonment has let go on is runnable until it waits again (R390, R391, R398). -/
def ctxRunnable (x : CtxSt) : Bool := x.wait.isNone && x.mark != 0

/-- A context of partition n waits: its operation is held, and does not complete before it goes on (R394). -/
def contextWaits (s : State) (n : Nat) : Bool :=
  s.sync.ctxs.any (fun kx => kx.2.wait.isSome && partOfCore s (kx.1 / 4) == some n)

/-- Some context of core c is known to be runnable. -/
def coreRunnable (s : State) (c : Nat) : Bool := (List.range 4).any (fun i => ctxRunnable (ctxOf s (4 * c + i)))

/-! ### Abandonment (R398) -/

/-- A waiter abandoned: its sense is restored, it is runnable, and its operation will complete with ABANDONED. -/
def abandonCtx (s : State) (k : Nat) : State :=
  let x := ctxOf s k
  match x.wait with
  | none => s
  | some (.bar m b _) =>
    flagOp (setCtx s k { flipSense { x with wait := none } (m * 32 + b) with mark := 3, owed := false, held := false }) (k / 4) 4
  | some _ => flagOp (setCtx s k { x with wait := none, mark := 3 }) (k / 4) 4

def countAbandoned (s : State) (c n : Nat) : State :=
  setSyncStatus s c { syncStatusOf s c with abandoned := satTo 12 ((syncStatusOf s c).abandoned + n) }

/-- A context waits on a barrier. -/
def waitsOn (x : CtxSt) (name : Nat) : Bool := match x.wait with | some (.bar m b _) => m * 32 + b == name | _ => false

/-- Contexts of this module that wait on a barrier. -/
def barContexts (s : State) (name : Nat) : List Nat := (s.sync.ctxs.filter (fun kx => waitsOn kx.2 name)).map Prod.fst

/-- Those that wait for the round in progress: the release of a round already complete is on its way to the others
(R388), or a refusal is (R390). -/
def barWaiters (s : State) (name : Nat) : List Nat :=
  (barContexts s name).filter (fun k => !(ctxOf s k).owed && (ctxOf s k).mark != 4)

/-- Contexts of core c that wait on counter b. -/
def ctrWaiters (s : State) (c b : Nat) : List Nat :=
  (s.sync.ctxs.filter (fun kx =>
    kx.1 / 4 == c && (match kx.2.wait with | some (.data i _) | some (.space i _) => i == b | _ => false))).map Prod.fst

/-- The OBJECT word of a sync flit (R418). -/
def objWord (c b : Nat) (counter : Bool) (ctx : Nat) : Nat :=
  put c 10 0 + put b 15 11 + put (boolBit counter) 16 16 + put ctx 31 17

/-- Barrier b of core c is abandoned: its waiters are the contexts of any module whose arrivals stand in ARRIVED, and
those of this module whose announce its sync unit holds. -/
def abandonBar (s : State) (c b : Nat) : State :=
  let x := barOf s c b
  let ws := barWaiters s (barName (moduleId s) c b)
  let n := (x.arrived - x.hostArrivals) + (ws.filter (fun k => (ctxOf s k).held)).length
  let s1 := ws.foldl abandonCtx (setBar s c b { barOf s c b with arrived := 0, hostArrivals := 0 })
  let s2 := (remoteModules s c b).foldl (fun s m =>
    sendSync s m (syncFlit s 0x13 m (objWord c b false 0) (boolBit (barOf s c b).sense))) s1
  countAbandoned s2 c n

def abandonCtr (s : State) (c b : Nat) : State :=
  let ws := ctrWaiters s c b
  countAbandoned (ws.foldl abandonCtx s) c ws.length

/-- The cores of an image's module. -/
def allCoreList (s : State) : List Nat := List.range (logicalCores s)

/-- The object's owner is the queue or session named (R402, R404). -/
def ownedBy (v kind id : Nat) : Bool := fld v 47 47 == kind && fld v 46 35 == id

/-- Objects of a core whose configuration has left its reset value: (object number, offset in the core's block). -/
def cfgObjects (s : State) : List (Nat × Nat) :=
  (s.cfg.filter (fun oc => 0x00700000 ≤ oc.1 && oc.1 < 0x009C0000)).map (fun oc => ((oc.1 - 0x00700000) / 0x800, oc.1 % 0x800))

/-- Every object that the queue or session owns is abandoned (R398). -/
def abandonOwned (s : State) (kind id : Nat) : State :=
  (cfgObjects s).foldl (fun s co =>
    if co.2 < 0x200 ∧ co.2 % 16 = 0 ∧ ownedBy (barCfg s co.1 (co.2 / 16)) kind id then abandonBar s co.1 (co.2 / 16)
    else if 0x200 ≤ co.2 ∧ co.2 < 0x400 ∧ co.2 % 16 = 0 ∧ ownedBy (ctrCfg s co.1 ((co.2 - 0x200) / 16)) kind id then
      abandonCtr s co.1 ((co.2 - 0x200) / 16)
    else s) s

/-- Home cores of objects that are configured or have been used. -/
def objectCores (s : State) : List Nat :=
  let cores : List Nat := (cfgObjects s).map Prod.fst ++ s.sync.bars.map (fun (x : Nat × BarSt) => x.1 / 32) ++
    s.sync.ctrs.map (fun (x : Nat × CtrSt) => x.1 / 32)
  cores.foldl (fun (cs : List Nat) c => if cs.contains c then cs else cs ++ [c]) []

/-- A reset that reaches a home core abandons its objects and returns them to their reset values (R398, R399); the
contexts of the core itself start afresh. -/
def syncResetCore (s : State) (c : Nat) : State :=
  let s1 := (List.range 32).foldl (fun s b => abandonCtr (abandonBar s c b) c b) s
  let keep := fun (k : Nat) => k / 32 != c
  { s1 with sync := { s1.sync with bars := s1.sync.bars.filter (fun x => keep x.1)
                                   ctrs := s1.sync.ctrs.filter (fun x => keep x.1)
                                   status := mdel s1.sync.status c
                                   ctxs := s1.sync.ctxs.filter (fun x => x.1 / 4 != c) } }

end Sys2Proof.Machine
end

