-- ==== Sys2Proof/Machine/FrontBase.lean ====
section
/-!
DEFINITION. Sys2Proof/Machine/FrontBase.lean: what every command's end has in common: statuses and their order (R13,
R497), completion records and rings (R357 to R361), events and waits (R352 to R355), fault captures (R363), and the
boundaries at which a queue stops, resets or leaves its slot (R339, R341).
-/
namespace Sys2Proof.Machine

/-! ### Status codes (R13) -/

def stOk : Nat := 0x00
def stPartial : Nat := 0x01
def stPoison : Nat := 0x02
def stSkew : Nat := 0x03
def stAbandoned : Nat := 0x04
def stDeadlock : Nat := 0x05
def stTimeout : Nat := 0x06
def stPrivilege : Nat := 0x07
def stFormat : Nat := 0x08
def stNoEntropy : Nat := 0x09
def stStale : Nat := 0x0A
def stFrozen : Nat := 0x0B
def stLockstep : Nat := 0x0C
def stOverArrival : Nat := 0x0D
def stLinkDown : Nat := 0x0E
def stImageAuth : Nat := 0x0F

/-- The order of R497 for a command whose chapter lays down none. -/
def defaultOrder : List Nat :=
  [stFormat, stPrivilege, stPoison, stOverArrival, stSkew, stNoEntropy, stAbandoned, stDeadlock, stTimeout, stStale,
   stFrozen, stPartial]

/-- The first status of the order that applies, OK when none does; LOCKSTEP_MISMATCH and LINK_DOWN come first (R497). -/
def pickStatus (order applies : List Nat) : Nat :=
  ((stLockstep :: stLinkDown :: order).find? applies.contains).getD stOk

/-! ### The commands in slots -/

def opcodeOf (c : CmdWord) : Nat := cmdFld c 0 0
def flagsOf (c : CmdWord) : Nat := cmdFld c 1 1
def isSilent (c : CmdWord) : Bool := bitOf (flagsOf c) 0
def hasSignal (c : CmdWord) : Bool := bitOf (flagsOf c) 1
def isTimed (c : CmdWord) : Bool := bitOf (flagsOf c) 2
def startCount (c : CmdWord) : BitVec 64 := BitVec.ofNat 64 (cmdFld c 8 15)

/-- QUEUE_POLICY of queue q in force (R70); before any image queue 0 is a kernel queue on slot 0,
of no partition, and no other queue is enabled (R96). -/
def queuePol (s : State) (q : Nat) : QueuePol :=
  match s.image.force with
  | none => if q = 0 then { part := 0xFE, kernel := true, priority := 0, residency := some 0 } else queuePol0
  | some f => mget queuePol0 f.queues q

def slotPol (s : State) (k : Nat) : SlotPol :=
  match s.image.force with
  | none => slotPol0
  | some f => mget slotPol0 f.slots k

/-- The queue's partition. -/
def queuePart (s : State) (q : Nat) : Nat := (queuePol s q).part

def queueReg (q off : Nat) : Nat := 0x00500000 + 0x40 * q + off
def cqReg (c off : Nat) : Nat := 0x00508000 + 0x40 * c + off

/-- FE_QUEUE_CTRL_q.STOP. -/
def isStopped (s : State) (q : Nat) : Bool := bitOf (regActive s (queueReg q 0x18) 0) 0

/-! ### Records (R357, R359) -/

/-- How a command ended. -/
structure Done where
  status : Nat
  detail : Nat
  work : Nat
  isOp : Bool
  captured : Bool
  deriving DecidableEq, Repr

/-- The end of a command that is no operation. -/
def doneWith (status detail : Nat) : Done :=
  { status := status, detail := detail, work := 0, isOp := false, captured := false }

/-- The end of an operation, with its work beats. -/
def doneOp (status detail work : Nat) : Done :=
  { status := status, detail := detail, work := work, isOp := true, captured := false }

/-- The mark, among a slot's flags, of a command that a fault capture was made for (R363). -/
def capturedMark : Nat := 0x100

/-- A record without its PHASE. LATE_START puts the start count in DETAIL (R358). -/
def recordOf (q : Nat) (c : Fetched) (k : SlotSt) (d : Done) : Nat :=
  let detail := if k.late then k.started.toNat else d.detail
  put q 8 0 + put (boolBit (d.captured || k.flags.contains capturedMark)) 13 13 + put (boolBit k.late) 14 14 + put d.status 23 16
    + put (opcodeOf c.bits) 31 24 + put (if d.isOp then satTo 48 d.work else 0) 79 32 + put c.index.toNat 95 80
    + put (if d.isOp then satTo 32 k.memStall else 0) 127 96 + put (if d.isOp then satTo 32 k.linkStall else 0) 159 128
    + put (if d.isOp then satTo 32 k.shortfall else 0) 191 160 + put detail 255 192

def cqRing (s : State) (c : Nat) : Nat := regActive s (cqReg c 0) 0
def cqFull (s : State) (c : Nat) : Bool := ringEntries (cqRing s c) ≤ ((cqOf s c).tail - (cqOf s c).head).toNat

/-- A record goes into ring c, which is not full. -/
def writeRecord (s : State) (c r : Nat) : State :=
  let v := cqRing s c
  let n := ringEntries v
  let t := (cqOf s c).tail.toNat
  let s1 := (devWrite s none .record (ringBase v + t % n * 32) (clean (leBytes 32 (r + put (phaseOf t n) 15 15)))).2
  let x := cqOf s1 c
  setCq s1 c { x with tail := x.tail + 1#32, msixDue := x.msixDue || bitOf (regActive s1 (cqReg c 0x10) 0) 0 }

/-- A signal write to the module's own event area: event e takes the greater value, and its waiters are evaluated before
the step ends (R352, R360). -/
def signalEvent (s : State) (e : Nat) (v : BitVec 64) : State :=
  let t := setEvent s e (if (eventOf s e).toNat < v.toNat then v else eventOf s e)
  { t with fe := { t.fe with dueEvents := t.fe.dueEvents ++ [e] } }

/-- The signal write follows the record (R360). -/
def signalWrite (s : State) (sig : Option (Nat × BitVec 64)) : State :=
  match sig with
  | none => s
  | some (a, v) =>
    match region s.fuse.grade a with
    | .events => signalEvent s ((a - eventBase) / 8) v
    | _ => (devWrite s none .signal a (clean (leBytes 8 v.toNat))).2

/-- The signal write a command asks for. -/
def signalOf (c : Fetched) : Option (Nat × BitVec 64) :=
  if hasSignal c.bits then some (c.sigAddr, c.index + 1#64) else none

/-- Partitions that slot k holds are released (R343). -/
def releaseParts (s : State) (k : Nat) : State :=
  (s.parts.filter (fun np => np.2.holder == some k)).foldl
    (fun s np => setPart s np.1 { np.2 with holder := none, armed := false, op := none }) s

/-- A packet that outlives the command of slot k: no later command of the slot answers for it. -/
def orphan (k : Nat) (p : Packet) : Packet := if p.slot = some k then { p with slot := none } else p

/-- A device read for a command of slot k. -/
def readFor (k : Nat) (w : ReadFor) : Bool :=
  match w with
  | .param i | .copy i _ => i == k
  | _ => false

/-- Packets of slot k's command that have not left name it no longer, and its reads that are outstanding are void. -/
def orphanPackets (s : State) (k : Nat) : State :=
  { s with
    host := { s.host with reads := s.host.reads.filter (fun r => !readFor k r.why) }
    net := { s.net with
      held := s.net.held.map (fun h => { h with pkt := orphan k h.pkt })
      tx := s.net.tx.map (fun t => (t.1, { t.2 with waiting := t.2.waiting.map (orphan k) }))
      mcast := s.net.mcast.map (fun t => if t.slot = some k then { t with slot := none } else t) } }

/-- The slot's command is over: the slot may take its queue's next one. -/
def clearSlot (s : State) (k : Nat) : State :=
  let t := slotOf s k
  setSlot (orphanPackets (releaseParts s k) k) k { slot0 with queue := t.queue, hangs := t.hangs, progress := t.progress }

/-- The queue has unfetched or fetched commands. -/
def hasCommands (x : QueueSt) : Bool := x.readIndex != x.writeIndex || !x.fetched.isEmpty

/-- A queue without a slot and without an outstanding wait that has commands, or whose parked wait has been satisfied, is
ready, unless it is stopped, disabled or being reset (R341). -/
def isReady (s : State) (q : Nat) : Bool :=
  let x := queueOf s q
  x.slot.isNone && (hasCommands x || x.woken) && (mfind s.fe.waits q).isNone && !isStopped s q && queuePart s q != 0xFF && !x.resetDue

/-- A queue that becomes ready is ready from now on, and one that is not ready has no such time (R341). -/
def markReady (s : State) (q : Nat) : State :=
  let x := queueOf s q
  if isReady s q then
    if x.readySince.isNone then setQueue s q { x with readySince := some s.time.count } else s
  else if x.readySince.isSome then setQueue s q { x with readySince := none }
  else s

/-- No dispatcher is left (R508): nothing is fetched, and nothing completes. -/
def noDispatcher (s : State) : Bool := s.fuse.dispGood == 0#2

/-- The record of a command of queue q is written, or held for a full ring; the signal write and the slot's release
follow it (R359, R360). A command with SILENT and status OK writes none. -/
def finish (s : State) (q : Nat) (slot : Option Nat) (c : Fetched) (d : Done) : State :=
  let s0 := flushMsgs s
  let k := match slot with | some i => slotOf s0 i | none => slot0
  if noDispatcher s then s
  else if isSilent c.bits ∧ d.status = stOk then
    let s1 := signalWrite s0 (signalOf c)
    match slot with
    | some i => clearSlot s1 i
    | none => markReady s1 q
  else if cqFull s0 c.cq then
    let h : Hold := { cq := c.cq, record := BitVec.ofNat 256 (recordOf q c k d), slot := slot, queue := q, signal := signalOf c }
    let x := cqOf s0 c.cq
    let s1 := setCq s0 c.cq { x with fullHolds := satTo 16 (x.fullHolds + 1) }
    let s2 := { s1 with fe := { s1.fe with holds := s1.fe.holds ++ [h] } }
    match slot with
    | some i => setSlot (releaseParts s2 i) i { slotOf s2 i with state := 7 }
    | none => s2
  else
    let s1 := signalWrite (writeRecord s0 c.cq (recordOf q c k d)) (signalOf c)
    match slot with
    | some i => clearSlot s1 i
    | none => markReady s1 q

/-- Commands whose completion is progress of their slot (R362). -/
def endIsProgress (op : Nat) : Bool := [0x20, 0x21, 0x22, 0x40, 0x64].contains op

/-- What registers keep of a command's end: the slot's progress, and IMG_STATUS.LAST_STATUS (R97, R362). -/
def noteEnd (s : State) (k op status : Nat) : State :=
  let s1 := if endIsProgress op then setSlot s k { slotOf s k with progress := s.time.count } else s
  if op = 0x70 ∨ op = 0x71 then { s1 with image := { s1.image with lastStatus := status } } else s1

/-- The command in slot k ends. -/
def complete (s : State) (k : Nat) (d : Done) : State :=
  match (slotOf s k).cmd, (slotOf s k).queue with
  | some c, some q =>
    finish (if noDispatcher s then s else noteEnd s k (opcodeOf c.bits) d.status) q (some k) c d
  | _, _ => s

/-- The command in slot k ends with the first status that applies in R497's order, counting what its slot was marked
with on the way. -/
def completeAs (s : State) (k status detail : Nat) : State :=
  complete s k (doneWith (pickStatus defaultOrder (status :: (slotOf s k).flags)) detail)

/-- One held record is written once its ring has space. -/
def releaseHold (s : State) (h : Hold) : State :=
  let s1 := signalWrite (writeRecord s h.cq h.record.toNat) h.signal
  match h.slot with
  | some i => clearSlot s1 i
  | none => markReady s1 h.queue

/-- Held records of rings with space, in order. -/
def releaseHolds : List Hold → State → State
  | [], s => s
  | h :: hs, s =>
    if cqFull s h.cq then releaseHolds hs { s with fe := { s.fe with holds := s.fe.holds ++ [h] } }
    else releaseHolds hs (releaseHold s h)

def tryHolds (s : State) : State := releaseHolds s.fe.holds { s with fe := { s.fe with holds := [] } }

/-! ### Events and waits (R352 to R355) -/

/-- The wait of queue q ends. A parked one that is satisfied makes its queue ready (R353). -/
def endWait (s : State) (q status : Nat) (seen : BitVec 64) : State :=
  match mfind s.fe.waits q with
  | none => s
  | some w =>
    let s1 := { s with fe := { s.fe with waits := mdel s.fe.waits q } }
    let s2 := if w.slot.isNone ∧ status = stOk then setQueue s1 q { queueOf s1 q with woken := true } else s1
    finish s2 q w.slot w.cmd (doneWith status seen.toNat)

/-- The waiters of event e are evaluated (R352). -/
def evalWaiters (s : State) (e : Nat) : State :=
  (s.fe.waits.filter (fun qw => qw.2.event == e)).foldl (fun s qw =>
    let v := eventOf s e
    if qw.2.target.toNat ≤ v.toNat then endWait s qw.1 stOk v
    else { s with fe := { s.fe with waits := mins s.fe.waits qw.1 { qw.2 with seen := v } } }) s

/-- The waiters of events that signal writes changed are evaluated; `fuel` bounds the events, which waits that end may add
to. -/
def evalDue : Nat → State → State
  | 0, s => s
  | fuel + 1, s =>
    match s.fe.dueEvents with
    | [] => s
    | e :: es => evalDue fuel (evalWaiters { s with fe := { s.fe with dueEvents := es } } e)

/-- Every wait ends at most once, and its end makes at most one signal write. -/
def evalSignals (s : State) : State := evalDue (s.fe.dueEvents.length + s.fe.waits.length) s

/-- An event takes a value and its waiters are evaluated. -/
def changeEvent (s : State) (e : Nat) (v : BitVec 64) : State := evalWaiters (setEvent s e v) e

/-- The commands of queue q that are fetched and not yet executed: the one in its slot, unless it has completed into a full
ring, and those behind it. -/
def pendingOf (s : State) (q : Nat) : List Fetched :=
  let x := queueOf s q
  (match x.slot with | some k => if (slotOf s k).state = 7 then [] else (slotOf s k).cmd.toList | none => []) ++ x.fetched

def isRecordOf (e : Nat) (c : Fetched) : Bool := opcodeOf c.bits == 2 && cmdFld c.bits 16 17 == e && !c.cancelled

/-- Queues that hold a pending EVENT_RECORD for e and are not stopped, with the stamp of the earliest (R354). -/
def recordHolders (s : State) (e : Nat) : List (Nat × Nat) :=
  (s.fe.queues.filter (fun qx => !isStopped s qx.1)).filterMap (fun qx =>
    match leastBy (·.stamp) ((pendingOf s qx.1).filter (isRecordOf e)) with
    | none => none
    | some c => some (qx.1, c.stamp))

/-- The pending owner of event e (R354). -/
def pendingOwner (s : State) (e : Nat) : Option Nat := (leastBy Prod.snd (recordHolders s e)).map Prod.fst

def countWaitAbandoned (s : State) : State :=
  { s with fe := { s.fe with abandoned := satTo 16 (s.fe.abandoned + 1) } }

/-- The wait of queue q is abandoned (R355). -/
def abandonWait (s : State) (q : Nat) : State :=
  match mfind s.fe.waits q with
  | none => s
  | some w => endWait (countWaitAbandoned s) q stAbandoned w.seen

/-- The waiters of event e are abandoned. -/
def abandonEvent (s : State) (e : Nat) : State :=
  (s.fe.waits.filter (fun qw => qw.2.event == e)).foldl (fun s qw => abandonWait s qw.1) s

/-- The events that queue q alone would record: its stop or reset abandons their waiters (R355). -/
def soleEvents (s : State) (q : Nat) : List Nat :=
  ((pendingOf s q).filter (fun c => opcodeOf c.bits == 2 && !c.cancelled)).map (fun c => cmdFld c.bits 16 17)
    |>.filter (fun e => (recordHolders s e).all (fun h => h.1 == q))

/-! ### Fault captures (R363) -/

def statusWords (s : State) (n : Nat) (words : List Nat) : List (BitVec 64) :=
  (words.map (fun o => BitVec.ofNat 64 (regActive s (o + 0x100 * n) 0)))

/-- One capture goes over the oldest of 16. `blocks` and `words` are the register images it holds. -/
def addCapture (s : State) (k status reason : Nat) (blocks words : List (BitVec 64)) : State :=
  match (slotOf s k).cmd, (slotOf s k).queue with
  | some c, some q =>
    let p := queuePart s q
    let x : Capture :=
      { bits := c.bits, ringAddr := c.addr, queue := q, slot := k, status := status, reason := reason
        part := if (partImg s p).isSome then p else 0xFF
        seq := BitVec.ofNat 16 c.index.toNat, count := s.time.count, boots := s.time.boots
        blocks := blocks, words := words }
    { s with fe := { s.fe with captures := mins s.fe.captures s.fe.captureNext x,
                               captureCount := satTo 32 (s.fe.captureCount + 1),
                               captureNext := (s.fe.captureNext + 1) % 16,
                               lastQueue := q, lastSeq := c.index.toNat % 2 ^ 16 } }
  | _, _ => s

/-! ### Queue boundaries (R339, R341) -/

/-- Queue q leaves its slot. -/
def leaveSlot (s : State) (q : Nat) : State :=
  match (queueOf s q).slot with
  | none => s
  | some k => setQueue (setSlot s k { slot0 with hangs := (slotOf s k).hangs, progress := (slotOf s k).progress }) q
                { queueOf s q with slot := none }

/-- The queue stands at a command boundary: it holds no slot, or its slot runs no command. -/
def atBoundary (s : State) (q : Nat) : Bool :=
  match (queueOf s q).slot with
  | none => true
  | some k => (slotOf s k).cmd.isNone && (slotOf s k).state != 7

/-- STOP at the queue's command boundary: it leaves its slot, and the waiters it alone would have served and the sync
objects it owns are abandoned (R339, R355, R398). -/
def stopAt (s : State) (q : Nat) : State :=
  let s1 := (soleEvents s q).foldl abandonEvent s
  abandonOwned (leaveSlot s1 q) 0 q

/-- Ring reads of queue q that await completions are void. -/
def dropRingReads (s : State) (q : Nat) : State :=
  { s with host := { s.host with reads := s.host.reads.filter (fun r => match r.why with | .ring p _ => p != q | _ => true) } }

/-- The end of a queue's RESET: the three indices, PENDING and STOP clear (R339). -/
def resetEnd (s : State) (q : Nat) : State :=
  let s1 := dropRingReads (leaveSlot s q) q
  let x := queueOf s1 q
  let s2 := setQueue s1 q { x with readIndex := 0#32, writeIndex := 0#32, fetchIndex := 0#64, pending := false,
                                   busy := false, readySince := none, woken := false, resetDue := false, reading := none }
  { s2 with cfg := mdel s2.cfg (queueReg q 0x18) }

/-- A floating queue that has nothing left releases its slot (R341). -/
def idleLeaves (s : State) (q : Nat) : Bool :=
  let x := queueOf s q
  x.slot.isSome && (queuePol s q).residency.isNone && !hasCommands x && x.reading.isNone

/-- Slot k is pinned: an enabled queue has its residency there (R71, R341). -/
def isPinned (s : State) (k : Nat) : Bool :=
  match s.image.force with
  | none => k == 0
  | some f => f.queues.any (fun qp => qp.2.part != 0xFF && qp.2.residency == some k)

/-- Queue q may hold slot k (R341). -/
def mayHold (s : State) (q k : Nat) : Bool :=
  let p := queuePol s q
  p.part != 0xFF &&
  (match p.residency with
   | some r => r == k
   | none => !isPinned s k && (slotPol s k).minPriority ≤ p.priority)

/-- The slot that queue q holds is one that the policy now in force no longer gives it. -/
def outOfPlace (s : State) (q : Nat) : Bool :=
  match (queueOf s q).slot with
  | some k => !mayHold s q k
  | none => false

/-- What a queue does at its command boundary. -/
def boundaryStep (s : State) (q : Nat) : State :=
  if !atBoundary s q then s
  else if (queueOf s q).resetDue then resetEnd s q
  else if isStopped s q ∧ (queueOf s q).slot.isSome then stopAt s q
  else if idleLeaves s q then leaveSlot s q
  else if outOfPlace s q then markReady (leaveSlot s q) q
  else s

/-- The waiters that signal writes concern and every queue's boundary, repeated while one changes what another meets; `fuel`
bounds the rounds. -/
def boundaries : Nat → State → State
  | 0, s => s
  | fuel + 1, s =>
    let s0 := evalSignals s
    let s1 := s0.fe.queues.foldl (fun s qx => boundaryStep s qx.1) s0
    if s1 = s then s else boundaries fuel s1

/-- What ends every step: messages go out, held records find space, and queues meet their boundaries. -/
def settle (s : State) : State := boundaries (s.fe.queues.length + 1) (tryHolds (flushMsgs s))

end Sys2Proof.Machine
end

