-- ==== Sys2Proof/Machine/ReplayBase.lean ====
section
/-!
DEFINITION. Sys2Proof/Machine/ReplayBase.lean: the replay log's entries (R488), which event is recorded and which real
event a replay ignores (R489).
-/
namespace Sys2Proof.Machine

def replayOf (s : State) : ReplaySt := s.dbg.replay
def setReplay (s : State) (r : ReplaySt) : State := { s with dbg := { s.dbg with replay := r } }

/-- Bytes of the log (R487). -/
def logSize : Nat := 2 ^ 33

def padTo (k : Nat) (bs : List Byte) : List Byte := bs ++ List.replicate ((k - bs.length % k) % k) 0#8

/-- One entry: a 32-byte header and its payload, padded (R488). -/
def logEntry (s : State) (typ part source flags : Nat) (payload : List Byte) : List Byte :=
  let r := replayOf s
  leBytes 1 typ ++ leBytes 1 part ++ leBytes 2 payload.length ++ leBytes 4 source
    ++ leBytes 6 (mget 0 r.beats part) ++ leBytes 2 flags ++ leBytes 8 s.time.count.toNat ++ leBytes 4 s.time.boots.toNat
    ++ leBytes 4 r.seq.toNat ++ padTo 32 payload

/-- An entry goes into the log; a log that it would fill takes END with OVERFLOW and stops (R487). -/
def logAdd (s : State) (typ part source : Nat) (payload : List Byte) : State :=
  let r := replayOf s
  let e := logEntry s typ part source 0 payload
  if logSize < r.log.length + e.length + 32 then
    let e2 := logEntry s 9 part 0 1 []
    setReplay s { r with log := r.log ++ e2, seq := r.seq + 1#32, state := 0, overflow := true }
  else setReplay s { r with log := r.log ++ e, seq := r.seq + 1#32 }

/-- The recording takes entries of type t for partition n. -/
def records (s : State) (n t : Nat) : Bool :=
  let r := replayOf s
  r.state == 1 && n < 64 && r.mask.toNat.testBit n && r.kinds.toNat.testBit t

def recordEntry (s : State) (typ part source : Nat) (payload : List Byte) : State :=
  if records s part typ then logAdd s typ part source payload else s

/-- A replay supplies the events of partition n. -/
def replays (s : State) (n : Nat) : Bool :=
  let r := replayOf s
  r.state == 2 && n < 64 && r.mask.toNat.testBit n

/-- A real event that a replay ignores is counted (R489). -/
def ignoreEvent (s : State) : State :=
  let r := replayOf s
  setReplay s { r with ignored := satTo 29 (r.ignored + 1) }

/-- Work beats of an operation advance the partition's recording beat count (R488). -/
def addBeats (s : State) (n k : Nat) : State :=
  let r := replayOf s
  if r.state = 0 then s else setReplay s { r with beats := mput 0 r.beats n (mget 0 r.beats n + k) }

end Sys2Proof.Machine
end

