-- ==== Sys2Proof/Machine/Entropy.lean ====
section
/-!
DEFINITION. Sys2Proof/Machine/Entropy.lean: sources and their health tests (R435 to R439), the pool and its draws (R440
to R445), and the expanders (R446 to R451).
-/
namespace Sys2Proof.Machine

/-! ### Sources (R25, R26, R435 to R439) -/

def source0 : EntSource where
  trim := 0x80
  blocks := 0
  started := false
  testing := false
  lastBit := false
  runLen := 0
  activeAt := 0#64

def client0 : Client where
  drbg := none
  seed := 0#256
  runId := 0#64

def sourceOf (s : State) (p : Nat) : EntSource := mget source0 s.ent.sources p
def setSource (s : State) (p : Nat) (v : EntSource) : State :=
  { s with ent := { s.ent with sources := mput source0 s.ent.sources p v } }
def clientOf (s : State) (i : Nat) : Client := mget client0 s.ent.clients i
def setClient (s : State) (i : Nat) (v : Client) : State :=
  { s with ent := { s.ent with clients := mput client0 s.ent.clients i v } }

/-- Physical sources in service, in order: the logical numbering (R25). -/
def sourcesIn (s : State) : List Nat := bitList 32 s.fuse.entGood.toNat

/-- ENT_COUNT (R26). -/
def entCount (s : State) : Nat := (sourcesIn s).length

/-- ENT_CTRL (R454). -/
def entCtrlOffset : Nat := 0x00B00008
def entCtrl (s : State) : Nat := regActive s entCtrlOffset 0x1804
def entActive (s : State) : Nat := fld (entCtrl s) 3 0
def reseedLog2 (s : State) : Nat := fld (entCtrl s) 13 8

/-- Physical sources in the active role: the lowest logical numbers, less one that a capture tests (R436, R452). -/
def activeSources (s : State) : List Nat :=
  ((sourcesIn s).take (entActive s)).filter (fun p => !(sourceOf s p).testing)

/-- ROLE of the physical source (R455). -/
def roleOf (s : State) (p : Nat) : Nat :=
  if !(sourcesIn s).contains p then 0
  else if (sourceOf s p).testing then 3
  else if (activeSources s).contains p then 1
  else 2

def poolBits (s : State) : Nat := 8 * s.ent.pool.length

/-- A source that becomes active feeds the pool from the first window that begins after now (R436, R444, R454). -/
def noteActive (before : List Nat) (s : State) : State :=
  ((activeSources s).filter (fun p => !before.contains p)).foldl
    (fun s p => setSource s p { sourceOf s p with activeAt := s.time.count }) s

/-- Sources no longer active release no further block. -/
def dropInactive (s : State) : State :=
  { s with ent := { s.ent with hashing := s.ent.hashing.filter (fun h => (activeSources s).contains h.1) } }

def countHealth (s : State) (code : Nat) : State :=
  let e := s.ent
  match code with
  | 1 => { s with ent := { e with rctFails := satTo 16 (e.rctFails + 1) } }
  | 2 => { s with ent := { e with aptFails := satTo 16 (e.aptFails + 1) } }
  | 3 => { s with ent := { e with startupFails := satTo 16 (e.startupFails + 1) } }
  | _ => { s with ent := { e with biasFails := satTo 16 (e.biasFails + 1) } }

/-- A capture of the failed source p goes no further (R452). -/
def endCapture (s : State) (p : Nat) : State :=
  match s.ent.capture with
  | none => s
  | some c =>
    if c.source = p then
      let s1 := { s with ent := { s.ent with capture := some { c with failed := true } } }
      setSource s1 p { sourceOf s1 p with testing := false }
    else s

/-- Logical source n fails a test: it leaves service, the rest are renumbered, and ENTROPY_SWITCH tells of it (R439). -/
def sourceFails (s : State) (n code : Nat) : State :=
  match (sourcesIn s)[n]? with
  | none => s
  | some p =>
    let before := activeSources s
    let wasActive := before.contains p
    let pool := poolBits s
    let s1 := { s with fuse := { s.fuse with entGood := s.fuse.entGood &&& ~~~(BitVec.ofNat 32 (2 ^ p)) } }
    let s2 := countHealth s1 code
    let s3 := if wasActive then { s2 with ent := { s2.ent with switches := satTo 16 (s2.ent.switches + 1) } } else s2
    let s4 := countErr (dropInactive (noteActive before s3)) (errDie (p / 2)) catHard
    let repl := if wasActive ∧ entActive s4 ≤ entCount s4 then entActive s4 - 1 else 0xFF
    endCapture (sendMsg s4 0x04 code n (msgAt 20 1 repl + msgAt 21 1 (entCount s4) + msgAt 22 2 pool)) p

/-! ### Expanders (R446 to R449) -/

def aesBlock (key v : Nat) : List Byte := aesEncrypt (beBytes 32 key) (beBytes 16 v)

/-- update (R447). -/
def drbgUpdate (d : Drbg) (data : Nat) : Drbg :=
  let v := d.v.toNat
  let temp := ofBe ((List.range 3).flatMap (fun i => aesBlock d.key.toNat ((v + 1 + i) % 2 ^ 128)))
  let x := temp ^^^ data
  { d with key := BitVec.ofNat 256 (x / 2 ^ 128), v := BitVec.ofNat 128 x }

def drbgInit (material : Nat) : Drbg := { drbgUpdate { key := 0#256, v := 0#128, calls := 0 } material with calls := 0 }

def drbgReseed (d : Drbg) (entropy : Nat) : Drbg := { drbgUpdate d entropy with calls := 0 }

/-- generate: the n output blocks and the state after them (R447). -/
def drbgGenerate (d : Drbg) (n : Nat) : List (List Byte) × Drbg :=
  let outs := (List.range n).map (fun i => aesBlock d.key.toNat ((d.v.toNat + 1 + i) % 2 ^ 128))
  let d1 := drbgUpdate { d with v := d.v + BitVec.ofNat 128 n } 0
  (outs, { d1 with calls := d.calls + 1 })

/-- The seed material of a seeded client (R449). -/
def seedMaterial (seed : BitVec 256) (i : Nat) (run : BitVec 64) : Nat :=
  sha384 (leBytes 32 seed.toNat ++ leBytes 4 i ++ leBytes 8 run.toNat)

/-- A seeded client is instantiated; the inputs stay for R451. -/
def instantiate (s : State) (i : Nat) (seed : BitVec 256) (run : BitVec 64) : State :=
  setClient s i { drbg := some (drbgInit (seedMaterial seed i run)), seed := seed, runId := run }

def clients0 : EntClients where
  ctxMode := 0
  annMode := 0
  noEntropyUs := 100000
  overrides := []

/-- ENTROPY_CLIENTS of partition n in force. -/
def partClients (s : State) (n : Nat) : EntClients :=
  match partImg s n with
  | none => clients0
  | some p => p.clients

def sess0 : SessSt where
  state := 0
  priv := false
  seeded := false
  lost := false
  part := 0
  hotSlot := 0xFF
  epoch := 0#16
  staleDrops := 0
  modelAddr := 0#64
  coldAddr := 0#64
  context := 0
  ctxMax := 0
  perToken := 0
  lastToken := 0xFFFFFFFF
  tokens := 0#64
  steps := 0#64
  userTag := 0#64

def sessOf (s : State) (k : Nat) : SessSt := mget sess0 s.ses.table k
def setSess (s : State) (k : Nat) (v : SessSt) : State :=
  { s with ses := { s.ses with table := mput sess0 s.ses.table k v } }

/-- The partition that a client belongs to (R75, R445). -/
def clientPart (s : State) (i : Nat) : Option Nat :=
  if 8192 ≤ i then some (sessOf s (i - 8192)).part else partOfCore s (i / 5)

/-- A client of ENTROPY_CLIENTS is seeded (R76). -/
def modeIn (c : EntClients) (i : Nat) : Bool :=
  match mfind c.overrides i with
  | some m => m == 1
  | none => (if i % 5 = 4 then c.annMode else c.ctxMode) == 1

/-- The client is in seeded mode (R76, R311). -/
def isSeeded (s : State) (i : Nat) : Bool :=
  if 8192 ≤ i then (sessOf s (i - 8192)).seeded
  else
    match partOfCore s (i / 5) with
    | none => false
    | some n => modeIn (partClients s n) i

/-! ### The pool and its draws (R441, R443, R448) -/

def keyDraw : Nat := 0xFFFFFFFF

/-- Draws at the head of the line are served while the pool holds their bits; `fuel` bounds them. -/
def serveUpTo : Nat → State → State
  | 0, s => s
  | fuel + 1, s =>
    match s.ent.draws with
    | [] => s
    | i :: rest =>
      let n := if i = keyDraw then 16 else 48
      if s.ent.thaw ∨ s.ent.pool.length < n then s
      else
        let bits := s.ent.pool.take n
        let s1 := { s with ent := { s.ent with pool := s.ent.pool.drop n, draws := rest } }
        if i = keyDraw then
          serveUpTo fuel { s1 with ent := { s1.ent with keyDrawn := some (BitVec.ofNat 128 (ofLe bits)) } }
        else
          let c := clientOf s1 i
          let d := match c.drbg with | none => drbgInit (ofBe bits) | some d => drbgReseed d (ofBe bits)
          serveUpTo fuel (setClient s1 i { c with drbg := some d })

def serveDraws (s : State) : State := serveUpTo (s.ent.draws.length + 1) s

/-- A draw joins the line, which is served at once as far as the pool goes. -/
def addDraw (s : State) (i : Nat) : State :=
  if s.ent.draws.contains i then serveDraws s
  else serveDraws { s with ent := { s.ent with draws := s.ent.draws ++ [i] } }

/-- What a request for output meets. -/
inductive GenOut where
  | blocks (bs : List (List Byte))
  | wait
  | refused
  deriving DecidableEq, Repr

/-- An entropy-mode client must draw before its next generate call (R448). -/
def needsDraw (s : State) (c : Client) : Bool :=
  match c.drbg with
  | none => true
  | some d => 2 ^ reseedLog2 s < d.calls + 1

def generateWith (s : State) (i n : Nat) : GenOut × State :=
  let c := clientOf s i
  match c.drbg with
  | none => (.wait, s)
  | some d =>
    let g := drbgGenerate d n
    (.blocks g.1, setClient s i { c with drbg := some g.2 })

/-- One generate call of n blocks by client i, live. -/
def generateLive (s : State) (i n : Nat) : GenOut × State :=
  if isSeeded s i then
    let c := clientOf s i
    match c.drbg with
    | none => generateWith (instantiate s i c.seed c.runId) i n
    | some d => if 2 ^ 48 ≤ d.calls then (.refused, s) else generateWith s i n
  else if needsDraw s (clientOf s i) then
    let s1 := addDraw s i
    if needsDraw s1 (clientOf s1 i) then (.wait, s1) else generateWith s1 i n
  else generateWith s i n

/-- One generate call: a replay supplies an entropy-mode client's output, and a recording keeps it (R488, R489). -/
def generate (s : State) (i n : Nat) : GenOut × State :=
  match clientPart s i with
  | none => generateLive s i n
  | some p =>
    if replays s p ∧ !isSeeded s i then
      let r := replayOf s
      match mget [] r.entropy i with
      | [] => (.wait, s)
      | b :: rest => (.blocks (chunks 16 (b.length / 16) b), setReplay s { r with entropy := mput [] r.entropy i rest })
    else
      let g := generateLive s i n
      match g.1 with
      | .blocks bs => (g.1, if isSeeded s i then g.2 else recordEntry g.2 7 p i bs.flatten)
      | _ => g

/-- A request that ends for want of entropy (R445, R449). -/
def countNoEntropy (s : State) : State :=
  { s with ent := { s.ent with noEntropyEnds := satTo 16 (s.ent.noEntropyEnds + 1) } }

def dropDraw (s : State) (i : Nat) : State :=
  { s with ent := { s.ent with draws := s.ent.draws.filter (· != i) } }

/-- u of a block: its bits [31:0] (R447). -/
def blockWord (b : List Byte) : Nat := ofLe (b.take 4)

/-! ### Resets of clients (R451) -/

def clearClient (s : State) (i : Nat) : State := dropDraw (setClient s i client0) i

/-- A partition or core reset: an entropy client is uninstantiated, a seeded one is instantiated from its last inputs. -/
def resetClient (s : State) (i : Nat) : State :=
  if isSeeded s i then
    let c := clientOf s i
    match c.drbg with
    | none => s
    | some _ => instantiate s i c.seed c.runId
  else clearClient s i

def coreClients (c : Nat) : List Nat := (List.range 5).map (fun k => 5 * c + k)

/-- What a commit of its mode or shape, a warm or a function-level reset leaves a client with (R449, R451). -/
def freshClient (s : State) (i : Nat) : State :=
  if isSeeded s i ∧ i % 5 ≠ 4 then instantiate (dropDraw s i) i 0#256 0#64 else clearClient s i

/-! ### Windows, blocks and Thaw (R438, R440 to R442) -/

/-- The longest run check over raw bits, continuing a run: true where 81 equal bits in a row occur (R437). -/
def runFails : List Bool → Bool → Nat → Bool × Bool × Nat
  | [], b, n => (false, b, n)
  | x :: xs, b, n =>
    let m := if x == b then n + 1 else 1
    if 81 ≤ m then (true, x, m) else runFails xs x m

/-- The adaptive proportion test over one window (R437). -/
def aptFails (bits : List Bool) : Bool :=
  match bits with
  | [] => false
  | b :: _ => 832 ≤ (bits.filter (· == b)).length

/-- Every source has passed its start-up test or left service, and the pool holds 512 bits (R442). -/
def thawDone (s : State) : Bool :=
  (sourcesIn s).all (fun p => (sourceOf s p).started) && entCount s != 0 && 512 ≤ poolBits s

def checkThaw (s : State) : State :=
  if s.ent.thaw ∧ thawDone s then serveDraws { s with ent := { s.ent with thaw := false } } else s

/-- Raw bits of a window as the conditioner takes them: raw bit 8j + t in bit t of byte j (R440). -/
def windowBytes (raw : BitVec 1024) : List Byte := leBytes 128 raw.toNat
def windowBits (raw : BitVec 1024) : List Bool := (List.range 1024).map (fun i => raw.toNat.testBit i)

/-- A window of logical source n closes; it began at count `began` (R437, R438, R440, R442). -/
def doEntropyWindow (n : Nat) (raw : BitVec 1024) (began : BitVec 64) (s : State) : State :=
  match (sourcesIn s)[n]? with
  | none => s
  | some p =>
    let x := sourceOf s p
    let bits := windowBits raw
    let run := runFails bits x.lastBit x.runLen
    if run.1 then sourceFails s n (if x.started then 1 else 3)
    else if aptFails bits then sourceFails s n (if x.started then 2 else 3)
    else
      let s1 := setSource s p { x with started := true, lastBit := run.2.1, runLen := run.2.2 }
      if !x.started then checkThaw s1
      else if (activeSources s1).contains p ∧ x.activeAt.toNat ≤ began.toNat then
        { s1 with ent := { s1.ent with hashing := mins s1.ent.hashing p (beBytes 48 (sha384 (windowBytes raw))) } }
      else s1

/-- A conditioned block of logical source n enters the pool, or finds fewer than 384 bits free and is discarded. -/
def doConditionedBlock (n : Nat) (s : State) : State :=
  match (sourcesIn s)[n]? with
  | none => s
  | some p =>
    match mfind s.ent.hashing p with
    | none => s
    | some block =>
      let s1 := setSource { s with ent := { s.ent with hashing := mdel s.ent.hashing p } } p
                  { sourceOf s p with blocks := (sourceOf s p).blocks + 1 }
      let pool := if s1.ent.pool.length + 48 ≤ 512 then s1.ent.pool ++ block else s1.ent.pool
      checkThaw (serveDraws { s1 with ent := { s1.ent with pool := pool } })

/-- 65,536 raw bits of which `ones` are 1: the loop steps BIAS_TRIM toward balance, or fails at its limit (R435). -/
def doBiasTrimCheck (n ones : Nat) (s : State) : State :=
  match (sourcesIn s)[n]? with
  | none => s
  | some p =>
    let x := sourceOf s p
    let many := 33792 < ones
    let few := ones < 31744
    if !many ∧ !few then s
    else
      let up := if many then Config.biasUp else !Config.biasUp
      if up then (if x.trim = 255 then sourceFails s n 4 else setSource s p { x with trim := x.trim + 1 })
      else (if x.trim = 0 then sourceFails s n 4 else setSource s p { x with trim := x.trim - 1 })

/-- 81 equal raw bits (R437): a source that has not passed its start-up test fails that one. -/
def doRepetitionCountFailure (n : Nat) (s : State) : State :=
  match (sourcesIn s)[n]? with
  | none => s
  | some p => sourceFails s n (if (sourceOf s p).started then 1 else 3)

/-- Thaw begins (R442): the unit maps return to their fused values and every good source starts afresh. -/
def beginThaw (s : State) : State :=
  let s1 := { s with fuse := { s.fuse with entGood := s.fuse.entFused } }
  { s1 with ent := { s1.ent with thaw := true, pool := [], hashing := []
                                 sources := (s1.ent.sources.map (fun ps => (ps.1, { ps.2 with
                                   started := false, testing := false, runLen := 0, activeAt := 0#64 }))).filter
                                   (fun ps => ps.2 != source0) } }

end Sys2Proof.Machine
end

