-- ==== Sys2Proof/Machine/MarchBase.lean ====
section
/-!
DEFINITION. Sys2Proof/Machine/MarchBase.lean: the CRC-64 of R411, and the signatures that the cores of a partition in
March fold from the blocks its operations issue to memory (R483). The blocks of one operation are folded when the
operation's stores take effect (log entry 31).
-/
namespace Sys2Proof.Machine

/-- CRC-64 of R411 over bytes, most significant bit first. -/
def crc64Byte (crc : Nat) (b : Byte) : Nat :=
  (List.range 8).foldl (fun c _ =>
    if 2 ^ 63 ≤ c then (c * 2 % 2 ^ 64) ^^^ 0x42F0E1EBA9EA3693 else c * 2) (crc ^^^ (b.toNat * 2 ^ 56))

/-- The CRC of a string that continues one whose CRC is `sig`; the empty string's is zero. -/
def crc64From (sig : Nat) (bs : List Byte) : Nat := bs.foldl crc64Byte (sig ^^^ (2 ^ 64 - 1)) ^^^ (2 ^ 64 - 1)

def crc64 (bs : List Byte) : Nat := crc64From 0 bs

def marchOf (s : State) : MarchSt := s.dbg.march
def setMarch (s : State) (m : MarchSt) : State := { s with dbg := { s.dbg with march := m } }

/-- The 80-byte record of one block (R483): its address and poison bit, byte mask, and bytes, unwritten ones as zero. -/
def blockRecord (base lo : Nat) (bs : List PByte) : List Byte :=
  leBytes 8 (base + (if anyPoison bs then 2 ^ 63 else 0)) ++ leBytes 8 ((2 ^ bs.length - 1) * 2 ^ lo)
    ++ List.replicate lo 0#8 ++ dataOf bs ++ List.replicate (64 - lo - bs.length) 0#8

/-- The records of a write of bs from a, block by block; `fuel` bounds them. -/
def blockRecords : Nat → Nat → List PByte → List Byte
  | 0, _, _ => []
  | fuel + 1, a, bs =>
    match bs with
    | [] => []
    | _ =>
      let k := 64 - a % 64
      blockRecord (a / 64 * 64) (a % 64) (bs.take k) ++ blockRecords fuel (a + k) (bs.drop k)

/-- Core c of partition n issues a write: its signature takes it when the partition is in March. -/
def marchFold (s : State) (n c a : Nat) (bs : List PByte) : State :=
  let m := marchOf s
  match mfind m.parts n with
  | none => s
  | some p =>
    let sig := crc64From (mget 0 p.sigs c) (blockRecords (bs.length / 64 + 2) a bs)
    setMarch s { m with parts := mins m.parts n { p with sigs := mput 0 p.sigs c sig } }

/-- The partition's position-0 core, at which blocks written by the device on its behalf count. -/
def firstCore (s : State) (n : Nat) : Nat := (partCores s n).headD 0

/-- A write by the device on behalf of partition n. -/
def marchPut (s : State) (n a : Nat) (bs : List PByte) : State := marchFold s n (firstCore s n) a bs

/-- bs with the bytes that the signature takes as zero (R483). -/
def zeroBytes (zs : List (Nat × Nat)) (bs : List Byte) : List Byte :=
  bs.mapIdx (fun (i : Nat) (x : Byte) => if zs.any (fun z => decide (z.1 ≤ i ∧ i ≤ z.2)) then 0#8 else x)

end Sys2Proof.Machine
end

