-- ==== Sys2Proof/Machine/Take.lean ====
section
/-!
DEFINITION. Sys2Proof/Machine/Take.lean: how a command takes its partition (R343), breakpoints and halts (R493),
progress (R344, R362), what disturbed an operation (R45), performance counters (R495), and an operation's end.
-/
namespace Sys2Proof.Machine

/-! ### Registers that the device itself changes -/

/-- The register at off takes a value, in force and as last written. -/
def setActive (s : State) (off v : Nat) : State :=
  let w := BitVec.ofNat 64 v
  { s with cfg := mins s.cfg off { active := w, last := w, shadow := w, snap := none } }

/-! ### Progress and stalls -/

/-- The command of slot k makes progress (R344, R362). -/
def noteProgress (s : State) (k : Nat) : State := setSlot s k { slotOf s k with progress := s.time.count }

/-- The partition of the queue that holds slot k. -/
def slotPart (s : State) (k : Nat) : Nat :=
  match (slotOf s k).queue with
  | none => 0xFF
  | some q => queuePart s q

/-- `cores` logical cores were out of service for ns (R512): DEV_OUTAGE_NS counts them weighted. -/
def addOutage (s : State) (cores ns : Nat) : State := { s with err := { s.err with outageNs := s.err.outageNs + ns * cores } }

/-- What held or disturbed the operation of slot k (R45, R512). -/
def addStalls (s : State) (k : Nat) (st : Stalls) : State :=
  let t := slotOf s k
  let s1 := setSlot s k { t with memStall := t.memStall + st.mem, linkStall := t.linkStall + st.link,
                                 shortfall := t.shortfall + st.shortfall }
  st.perf.foldl (fun s p => perfAdd s p.1 p.2) (addOutage s1 (partCores s1 (slotPart s1 k)).length st.outage)

/-! ### Halts (R493) -/

def breakReg (n : Nat) : Nat := 0x00D00800 + 0x10 * n
def breakWord (s : State) (n : Nat) : Nat := regActive s (breakReg n) 0
def breakKind (s : State) (n : Nat) : Nat := if bitOf (breakWord s n) 63 then fld (breakWord s n) 59 56 else 0
def breakValue (s : State) (n : Nat) : Nat := fld (breakWord s n) 47 0

/-- DBG_BREAK_STATUS_n.CAUSE. -/
def haltCause (s : State) (n : Nat) : Nat := mget 0 s.dbg.halted n

/-- Partition n halts, and ARM clears. -/
def haltPart (s : State) (n cause : Nat) : State :=
  let s1 := setActive s (breakReg n) (breakWord s n % 2 ^ 63)
  { s1 with dbg := { s1.dbg with halted := mput 0 s1.dbg.halted n cause } }

def endHalt (s : State) (n : Nat) : State := { s with dbg := { s.dbg with halted := mput 0 s.dbg.halted n 0 } }

/-- The breakpoint of partition n stops command c of queue q before its first beat. -/
def breakBefore (s : State) (n q : Nat) (c : Fetched) : Bool :=
  let v := breakValue s n
  (breakKind s n == 1 && opcodeOf c.bits == fld v 7 0) ||
  (breakKind s n == 2 && q == fld v 24 16 && c.index.toNat % 2 ^ 16 == fld v 15 0)

/-- An operation of partition n has drained. -/
def opDrained (s : State) (n : Nat) : State :=
  let c := mget 0 s.dbg.drained n + 1
  let s1 := { s with dbg := { s.dbg with drained := mput 0 s.dbg.drained n c } }
  if breakKind s1 n = 3 ∧ breakValue s1 n ≤ c then haltPart s1 n 1 else s1

/-! ### Taking the partition (R343) -/

def slotPriority (s : State) (k : Nat) : Nat :=
  match (slotOf s k).queue with
  | none => 0
  | some q => (queuePol s q).priority

/-- Slots whose commands wait for partition n. -/
def waitingSlots (s : State) (n : Nat) : List Nat :=
  (s.fe.slots.filter (fun ks => ks.2.state == 3 && slotPart s ks.1 == n)).map Prod.fst

/-- The slot that gets the partition: highest priority, longest wait, lowest number. -/
def nextHolder (s : State) (n : Nat) : Option Nat :=
  leastBy (fun k => (256 - slotPriority s k) * 2 ^ 64 + (slotOf s k).since.toNat) (waitingSlots s n)

/-- The slot whose command takes partition n next: in a replay the one that the next ADMIT entry names (R489). -/
def turnOf (s : State) (n : Nat) : Option Nat :=
  if replays s n then (mget [] (replayOf s).admits n).head? else nextHolder s n

/-- A taken partition is recorded, or uses up the ADMIT that named its slot (R488: queue, slot, fetch index). -/
def noteAdmit (s : State) (n k q : Nat) (c : Fetched) : State :=
  let r := replayOf s
  if replays s n then setReplay s { r with admits := mput [] r.admits n (mget [] r.admits n).tail }
  else recordEntry s 4 n q (leBytes 2 q ++ leBytes 2 k ++ leBytes 4 (c.index.toNat % 2 ^ 32))

/-- Slot k's command takes its partition, if it is that command's turn; a breakpoint halts the partition instead, and
that of a TIMED command acts at its first beat. -/
def tryTake (s : State) (k : Nat) : Bool × State :=
  let n := slotPart s k
  match (slotOf s k).cmd, (slotOf s k).queue with
  | some c, some q =>
    if turnOf s n != some k || (slotOf s k).state != 3 || (partOf s n).holder.isSome || !(partOf s n).launching || haltCause s n != 0 then (false, s)
    else if !isTimed c.bits && breakBefore s n q c then (false, haltPart s n 1)
    else
      let s1 := setPart (noteAdmit s n k q c) n { partOf s n with holder := some k }
      (true, setSlot s1 k { slotOf s1 k with state := 5, started := s.time.count, progress := s.time.count })
  | _, _ => (false, s)

/-- The latest START_COUNT that arming accepts, and the least lead for a start that is not late (R57). -/
def armHorizon : Nat := 2 ^ 36
def armLead : Nat := 20000

/-- The TIMED command of slot k arms (R56, R57): FORMAT with reason START_RANGE when its count is too far ahead. -/
def armSlot (s : State) (k : Nat) (c : Fetched) : State :=
  let now := s.time.count.toNat
  let start := (startCount c.bits).toNat
  if start ≤ now + armHorizon then
    let n := slotPart s k
    let s1 := setPart s n { partOf s n with armed := true }
    setSlot s1 k { slotOf s1 k with state := 4, late := decide (start < now + armLead) }
  else complete s k (doneWith stFormat 0x07)

/-- The first beat of an armed command (R56). -/
def fireSlot (s : State) (k : Nat) : State :=
  let n := slotPart s k
  let s1 := setPart s n { partOf s n with armed := false }
  setSlot s1 k { slotOf s1 k with state := 5, started := s.time.count, progress := s.time.count }

/-! ### The end of an operation -/

/-- The operation of slot k ends with the first status of the order that applies, its own or one its slot was marked
with; its beats advance the partition's recording (R488). One that completes with FORMAT has not run (R493). -/
def completeOp (s : State) (k : Nat) (order : List Nat) (status detail work : Nat) : State :=
  let n := slotPart s k
  let st := pickStatus order (status :: (slotOf s k).flags)
  let s1 := addBeats (complete s k (doneOp st detail work)) n work
  if st = stFormat then s1 else opDrained s1 n

end Sys2Proof.Machine
end

