-- ==== Sys2Proof/Machine/VecOps.lean ====
section
/-!
DEFINITION. Sys2Proof/Machine/VecOps.lean: the micro-ops of the vector unit: encoding (R191), the set with its fields,
issue beats and latencies (R193), the program checks (R201), and what each computes on lanes (R190, R194 to R197, R202
to R208).
-/
namespace Sys2Proof.Machine

/-! ### Registers and lanes (R188, R189) -/

/-- A register is 1,024 nibbles, low first, each with its poison mark; a lane is a value and its mark. -/
abbrev Lane := Nat × Bool
abbrev VReg := List Lane

def vreg0 : VReg := List.replicate 1024 (0, false)

/-- Nibbles of one element of a format. -/
def elemNibbles (fmt : Nat) : Nat :=
  match fmt with
  | 0 | 3 => 8
  | 1 | 2 | 4 => 4
  | 9 => 1
  | _ => 2

def elemCount (fmt : Nat) : Nat := 1024 / elemNibbles fmt

/-- The lane that nibbles form, low first: poisoned where one of them is. -/
def joinNibbles (ns : List Lane) : Lane :=
  ns.foldr (fun n acc => (n.1 % 16 + 16 * acc.1, n.2 || acc.2)) (0, false)

def splitNibbles (w : Nat) (x : Lane) : List Lane := (List.range w).map (fun i => (x.1 / 16 ^ i % 16, x.2))

def lanesOf (fmt : Nat) (r : VReg) : List Lane := (chunks (elemNibbles fmt) 1024 r).map joinNibbles
def ofLanes (fmt : Nat) (es : List Lane) : VReg := es.flatMap (splitNibbles (elemNibbles fmt))

def nibblesOfBytes (bs : List PByte) : List Lane := bs.flatMap (fun b => splitNibbles 2 (b.1.toNat, b.2))
def bytesOfNibbles (ns : List Lane) : List PByte :=
  (chunks 2 512 ns).map (fun p => let x := joinNibbles p; (BitVec.ofNat 8 x.1, x.2))

/-- The register with the nibbles from position i replaced. -/
def overlay (r : VReg) (i : Nat) (ns : List Lane) : VReg := r.take i ++ ns ++ r.drop (i + ns.length)

/-! ### Micro-ops (R191, R193) -/

structure Uop where
  op : Nat
  fmt : Nat
  dst : Nat
  a : Nat
  b : Nat
  c : Nat
  ctl : Nat
  aux : Nat
  imm : Nat
  deriving DecidableEq, Repr

def uopOf (w : Nat) : Uop where
  op := fld w 63 56
  fmt := fld w 55 52
  dst := fld w 51 47
  a := fld w 46 42
  b := fld w 41 37
  c := fld w 36 32
  ctl := fld w 31 28
  aux := fld w 27 16
  imm := fld w 15 0

def Uop.sat (u : Uop) : Bool := bitOf u.ctl 0
def Uop.acc (u : Uop) : Bool := bitOf u.ctl 1
def Uop.part (u : Uop) : Nat := fld u.aux 6 4
def Uop.low (u : Uop) : Nat := fld u.aux 3 0
def Uop.stream (u : Uop) : Nat := fld u.aux 2 0
/-- The record stream of QUANT. -/
def Uop.recStream (u : Uop) : Nat := fld u.aux 9 7
/-- The group code: AUX[1:0] of QUANT, AUX[8:7] of DEQUANT, AUX[3:2] of STAT. -/
def Uop.groupCode (u : Uop) : Nat :=
  if u.op = 0x1A then fld u.aux 1 0 else if u.op = 0x1B then fld u.aux 8 7 else fld u.aux 3 2
def Uop.groupSize (u : Uop) : Nat := 32 * 2 ^ u.groupCode

/-- What a micro-op uses: its formats, its registers, and the bits of CTL, AUX and IMM. -/
structure OpInfo where
  fmts : List Nat
  d : Bool
  a : Bool
  b : Bool
  c : Bool
  ctl : Nat
  aux : Nat
  imm : Nat
  deriving DecidableEq, Repr

def fmtFloat : List Nat := [0, 1, 2]
def fmtInt : List Nat := [3, 4, 5]
def fmtBoth : List Nat := [0, 1, 2, 3, 4, 5]
def fmtUnpacked : List Nat := [0, 1, 2, 3, 4, 5, 6, 7, 8]
def fmtAny : List Nat := [0, 1, 2, 3, 4, 5, 6, 7, 8, 9]

def opInfoOf (fmts : List Nat) (regs ctl aux imm : Nat) : OpInfo :=
  { fmts := fmts, d := bitOf regs 3, a := bitOf regs 2, b := bitOf regs 1, c := bitOf regs 0, ctl := ctl, aux := aux,
    imm := imm }

/-- The micro-op set of R193, none for a reserved opcode. Registers as the bits DST, A, B, C. RSUM uses SAT, as R193's
last paragraph lays down. -/
def opInfo (op : Nat) : Option OpInfo :=
  match op with
  | 0x00 => some (opInfoOf [0] 0x0 0 0 0)
  | 0x01 | 0x02 | 0x03 => some (opInfoOf fmtBoth 0xE 1 0 0)
  | 0x04 => some (opInfoOf fmtBoth 0xF 1 0 0)
  | 0x05 | 0x06 => some (opInfoOf fmtBoth 0xE 0 0 0)
  | 0x07 | 0x08 => some (opInfoOf fmtBoth 0xC 1 0 0)
  | 0x09 => some (opInfoOf fmtInt 0xC 1 0 0x1F)
  | 0x0A => some (opInfoOf fmtInt 0xC 0 0 0x1F)
  | 0x0B | 0x0C | 0x0D => some (opInfoOf fmtInt 0xE 0 0 0)
  | 0x0E => some (opInfoOf fmtInt 0xC 0 0 0)
  | 0x10 | 0x11 | 0x12 | 0x13 => some (opInfoOf fmtBoth 0xE 0 0 0)
  | 0x14 => some (opInfoOf fmtFloat 0xC 0 0 0)
  | 0x15 => some (opInfoOf fmtUnpacked 0xF 0 0 0)
  | 0x16 => some (opInfoOf fmtBoth 0xF 0 0 0)
  | 0x17 => some (opInfoOf fmtAny 0xC 0 0 0)
  | 0x18 => some (opInfoOf fmtAny 0xC 1 0x7F 0)
  | 0x19 => some (opInfoOf [3] 0xE 0 1 0xFFFF)
  | 0x1A => some (opInfoOf [5, 6, 7, 8, 9] 0xF 0 0x3F3 0xFFFF)
  | 0x1B => some (opInfoOf [0] 0xE 0 0x1FF 0)
  | 0x20 | 0x21 | 0x22 | 0x23 | 0x24 => some (opInfoOf fmtFloat 0xC 0 0 0)
  | 0x25 => some (opInfoOf [3] 0xC 0 0xF 0)
  | 0x28 => some (opInfoOf fmtBoth 0xC 1 0xF 0)
  | 0x29 | 0x2A => some (opInfoOf fmtBoth 0xC 0 0xF 0)
  | 0x2B => some (opInfoOf fmtUnpacked 0xC 0 0xF 0)
  | 0x2C => some (opInfoOf [3, 4] 0x8 0 0 0)
  | 0x2D => some (opInfoOf fmtUnpacked 0x8 0 0 0xF)
  | 0x30 => some (opInfoOf fmtAny 0x8 0 0x77 0xFFFF)
  | 0x31 => some (opInfoOf fmtAny 0x4 0 0x77 0xFFFF)
  | 0x32 => some (opInfoOf fmtUnpacked 0xC 0 0x7F 0)
  | 0x33 => some (opInfoOf fmtUnpacked 0x6 0 0x7F 0)
  | 0x34 => some (opInfoOf [3] 0x6 0 0xF 0)
  | 0x38 => some (opInfoOf [0] 0xC 0 0xF 0xFFFF)
  | 0x39 => some (opInfoOf fmtBoth 0x4 2 0xF 0)
  | 0x3A => some (opInfoOf [0] 0xE 0 0xF 0)
  | 0x3B => some (opInfoOf [3] 0x8 0 0 0)
  | _ => none

/-- The bits of v outside a mask. -/
def outside (v mask : Nat) : Nat := v - (v &&& mask)

/-- PART lies within the larger of two element counts (R194). -/
def partFits (u : Uop) (n1 n2 : Nat) : Bool := u.part * min n1 n2 < max n1 n2

/-- What a micro-op's own fields must be (R193 to R195, R201), beyond the table of used fields. -/
def uopFieldsOk (u : Uop) : Bool :=
  match u.op with
  | 0x18 => u.low ≤ 9 && partFits u (elemCount u.low) (elemCount u.fmt)
  | 0x19 => 1 ≤ u.imm
  | 0x1A => u.groupCode ≤ 2 && partFits u 128 (elemCount u.fmt) && (u.recStream == 4 || u.recStream == 5) && u.c < 16
  | 0x1B => u.groupCode ≤ 2 && 5 ≤ u.low && u.low ≤ 9 && partFits u (elemCount u.low) 128
  | 0x28 | 0x29 | 0x2A | 0x2B => 2 ^ u.low ≤ elemCount u.fmt
  | 0x30 => u.stream ≤ 3
  | 0x31 => u.stream == 4 || u.stream == 5
  | 0x32 | 0x33 => partFits u 128 (elemCount u.fmt)
  | 0x38 => 5 ≤ u.low && u.low ≤ 8 && u.imm < u.low && (u.low != 8 || (u.a % 2 == 0 && u.dst % 2 == 0))
  | 0x39 => fld u.aux 1 0 ≤ 2 && u.groupCode ≤ 2
  | _ => true

/-- The program checks of R201 on one micro-op. -/
def uopOk (u : Uop) : Bool :=
  match opInfo u.op with
  | none => false
  | some i =>
    i.fmts.contains u.fmt && (i.d || u.dst == 0) && (i.a || u.a == 0) && (i.b || u.b == 0) && (i.c || u.c == 0) &&
    outside u.ctl i.ctl == 0 && outside u.aux i.aux == 0 && outside u.imm i.imm == 0 && uopFieldsOk u

/-- Issue beats and latency (R193); 0 latency for a micro-op without a result. -/
def uopBeats (u : Uop) : Nat × Nat :=
  let wide := u.fmt = 0
  match u.op with
  | 0x00 | 0x31 => (1, 0)
  | 0x04 => (1, 5)
  | 0x17 | 0x2C | 0x2D | 0x30 => (1, 2)
  | 0x19 | 0x1A | 0x1B | 0x25 => (2, 8)
  | 0x20 | 0x21 | 0x22 | 0x23 => if wide then (2, 8) else (4, 10)
  | 0x24 => if wide then (6, 24) else (12, 30)
  | 0x28 | 0x29 | 0x2A => (1, 4 + u.low)
  | 0x32 => (8, 12)
  | 0x33 | 0x34 => (8, 0)
  | 0x38 => if u.low = 8 then (2, 4) else (1, 4)
  | 0x3A => (4, 16)
  | 0x3B => (8, 16)
  | _ => (1, 4)

/-! ### Values of formats -/

def fmtOf (f : Nat) : Fmt := match f with | 0 => fp32 | 1 => fp16 | 2 => bf16 | 7 => e4m3 | _ => e5m2

def isFloatFmt (f : Nat) : Bool := f ≤ 2 || f == 7 || f == 8

/-- The bits of an element. -/
def elemBits (f : Nat) : Nat := 4 * elemNibbles f

/-- Least and greatest values of an integer format. -/
def intLo (f : Nat) : Int := if f = 6 then 0 else -(2 ^ (elemBits f - 1))
def intHi (f : Nat) : Int := if f = 6 then 255 else 2 ^ (elemBits f - 1) - 1

def intValue (f v : Nat) : Int := if f = 6 then (v : Int) else signedOf (elemBits f) v

/-- The exact value of an element. -/
def elemValue (f v : Nat) : FpVal :=
  match f with
  | 0 => decodeFp32 v
  | 1 => decodeFp16 v
  | 2 => decodeBf16 v
  | 7 => decodeE4m3 v
  | 8 => decodeE5m2 v
  | _ => .fin (decide (intValue f v < 0)) (intValue f v).natAbs 0

/-- An exact integer result, wrapped or saturated (R190). -/
def intResult (f : Nat) (sat : Bool) (z : Int) : Nat :=
  wrapTo (elemBits f) (if sat then clampInt (intLo f) (intHi f) z else z)

/-- All ones of an element. -/
def onesOf (f : Nat) : Nat := 2 ^ elemBits f - 1

/-! ### Elementwise arithmetic (R190) -/

/-- MIN and MAX of two values: the other operand when exactly one is NaN, and -0 below +0. -/
def fpLess (x y : FpVal) : Bool :=
  vLt x y ||
  (match x, y with
   | .fin true 0 _, .fin false 0 _ => true
   | _, _ => false)

def vMin (x y : FpVal) : FpVal := if isNan x then y else if isNan y then x else if fpLess y x then y else x
def vMax (x y : FpVal) : FpVal := if isNan x then y else if isNan y then x else if fpLess x y then y else x

def minElem (f x y : Nat) : Nat :=
  if isFloatFmt f then encodeVal (fmtOf f) (vMin (elemValue f x) (elemValue f y))
  else if intValue f y < intValue f x then y else x

def maxElem (f x y : Nat) : Nat :=
  if isFloatFmt f then encodeVal (fmtOf f) (vMax (elemValue f x) (elemValue f y))
  else if intValue f x < intValue f y then y else x

def eqElem (f x y : Nat) : Bool :=
  if isFloatFmt f then
    !isNan (elemValue f x) && !isNan (elemValue f y) && !vLt (elemValue f x) (elemValue f y) &&
      !vLt (elemValue f y) (elemValue f x)
  else x == y

def ltElem (f x y : Nat) : Bool :=
  if isFloatFmt f then vLt (elemValue f x) (elemValue f y) else decide (intValue f x < intValue f y)

def addElem (f : Nat) (sat : Bool) (x y : Nat) : Nat :=
  if isFloatFmt f then encodeVal (fmtOf f) (vAdd (elemValue f x) (elemValue f y))
  else intResult f sat (intValue f x + intValue f y)

/-- A table function in a format (R204): 16-bit inputs convert exactly, and the result rounds once more. -/
def tableElem (f : Nat) (fn : Nat → Nat) (x : Nat) : Nat :=
  if f = 0 then fn x else encodeVal (fmtOf f) (decodeFp32 (fn (encodeVal fp32 (elemValue f x))))

/-- The result of a micro-op that works on each lane alone. -/
def laneResult (u : Uop) (x y z : Nat) : Nat :=
  let f := u.fmt
  let ix := intValue f x
  let iy := intValue f y
  let fl := isFloatFmt f
  let enc := encodeVal (fmtOf f)
  let ones := fun (t : Bool) => if t then onesOf f else 0
  match u.op with
  | 0x01 => addElem f u.sat x y
  | 0x02 => if fl then enc (vAdd (elemValue f x) (vNeg (elemValue f y))) else intResult f u.sat (ix - iy)
  | 0x03 => if fl then enc (vMul (elemValue f x) (elemValue f y)) else intResult f u.sat (ix * iy)
  | 0x04 =>
    if fl then enc (vAdd (vMul (elemValue f x) (elemValue f y)) (elemValue f z))
    else intResult f u.sat (ix * iy + intValue f z)
  | 0x05 => minElem f x y
  | 0x06 => maxElem f x y
  | 0x07 => if fl then enc (vAbs (elemValue f x)) else intResult f u.sat ix.natAbs
  | 0x08 => if fl then enc (vNeg (elemValue f x)) else intResult f u.sat (-ix)
  | 0x09 => intResult f u.sat (ix * 2 ^ fld u.imm 4 0)
  | 0x0A => intResult f false (rneInt (decide (ix < 0)) ix.natAbs (2 ^ fld u.imm 4 0) 0)
  | 0x0B => x &&& y
  | 0x0C => x ||| y
  | 0x0D => x ^^^ y
  | 0x0E => onesOf f - x
  | 0x10 => ones (eqElem f x y)
  | 0x11 => ones (ltElem f x y)
  | 0x12 => ones (ltElem f x y || eqElem f x y)
  | 0x13 => ones (!eqElem f x y)
  | 0x14 => ones (isNan (elemValue f x))
  | 0x16 => minElem f (maxElem f x y) z
  | 0x20 => tableElem f expT x
  | 0x21 => tableElem f logT x
  | 0x22 => tableElem f rcpT x
  | 0x23 => tableElem f rsqrtT x
  | 0x24 => tableElem f sigmoidT x
  | _ => x

/-- Poison of a lane-wise result (R210): from the operands the micro-op reads. -/
def lanePoison (u : Uop) (x y z : Lane) : Bool :=
  match opInfo u.op with
  | none => false
  | some i => (i.a && x.2) || (i.b && y.2) || (i.c && z.2)

def zip3 : List Lane → List Lane → List Lane → List (Lane × Lane × Lane)
  | x :: xs, y :: ys, z :: zs => (x, y, z) :: zip3 xs ys zs
  | _, _, _ => []

def laneWise (u : Uop) (x y z : List Lane) : List Lane :=
  (zip3 x y z).map (fun t => (laneResult u t.1.1 t.2.1.1 t.2.2.1, lanePoison u t.1 t.2.1 t.2.2))

/-- SEL: A where C is nonzero, else B; poison from the mask or the operand it selects. -/
def selLanes (x y z : List Lane) : List Lane :=
  (zip3 x y z).map (fun t => let s := if t.2.2.1 = 0 then t.2.1 else t.1; (s.1, s.2 || t.2.2.2))

/-! ### Conversion (R194) -/

/-- n / d * 2^e rounded to the format passes its largest finite value. -/
def overflows (f : Fmt) (n d : Nat) (e : Int) : Bool :=
  if n = 0 then false
  else
    let rq := roundSig f n d e
    let q := if rq.1 = 2 ^ f.p then rq.2 + 1 else rq.2
    decide (2 ^ (f.p - 1) ≤ rq.1) && decide (f.emax < q + (f.p - 1 : Nat))

def infMag (f : Fmt) : Nat := (2 ^ f.ebits - 1) * 2 ^ (f.p - 1)
def maxMag (f : Fmt) : Nat := if f.ebits = 4 then 0x7E else infMag f - 1

/-- One conversion: the code, and whether it counts in CVT_RANGE. -/
def cvtElem (src dst : Nat) (sat : Bool) (v : Nat) : Nat × Bool :=
  let x := elemValue src v
  if isFloatFmt dst then
    let f := fmtOf dst
    let sign := fun (neg : Bool) => if neg then 2 ^ f.magBits else 0
    match x with
    | .nan => (nanOf f, false)
    | .inf neg => (sign neg + (if f.ebits = 4 then 0x7E else infMag f), false)
    | .fin neg m e =>
      if overflows f m 1 e then (sign neg + (if f.ebits = 4 ∨ sat then maxMag f else infMag f), false)
      else (roundTo f neg m 1 e, false)
  else if isFloatFmt src then
    let least := wrapTo (elemBits dst) (intLo dst)
    match x with
    | .nan => if sat then (0, false) else (least, true)
    | .inf neg => if sat then (wrapTo (elemBits dst) (if neg then intLo dst else intHi dst), false) else (least, true)
    | .fin neg m e =>
      let z := rneInt neg m 1 e
      if intLo dst ≤ z ∧ z ≤ intHi dst then (wrapTo (elemBits dst) z, false)
      else if sat then (intResult dst true z, false)
      else (least, true)
  else (intResult dst sat (intValue src v), false)

/-- CVT: the destination's lanes and the conversions that count. -/
def cvtLanes (u : Uop) (src old : List Lane) : List Lane × Nat :=
  let n := min src.length old.length
  let from_ := if old.length < src.length then (src.drop (u.part * n)).take n else src.take n
  let out := from_.map (fun x => let c := cvtElem u.low u.fmt u.sat x.1; ((c.1, x.2), c.2))
  let i := if src.length < old.length then u.part * n else 0
  (old.take i ++ out.map Prod.fst ++ old.drop (i + n), (out.filter Prod.snd).length)

/-! ### Scale records, quantising (R195 to R197) -/

/-- The scale word of target scale a / qmax, a = m * 2^e not zero (R195). -/
def scaleWordOf (m : Nat) (e : Int) (qmax : Nat) : Nat :=
  let x := topExp m qmax e
  let nd := scalePow m qmax (e + 7 - x)
  let r := rneDiv nd.1 nd.2
  let x1 := if r = 256 then x + 1 else x
  let m1 := if r = 256 then 128 else r
  if x1 < -25 then 0xE780 else if 18 < x1 then 0x12FF else wrapTo 8 x1 * 256 + m1

/-- The zero point of a minimum l under a scale word: clamp(rne(-min(l, 0) / s), 0, 255). -/
def zeroPoint (word : Nat) (l : FpVal) : Nat :=
  match l with
  | .nan => 0
  | .inf neg => if neg then 255 else 0
  | .fin neg m e =>
    if neg then (clampInt 0 255 (rneInt false m (scaleMant word) (e - (scaleExp word - 7)))).toNat else 0

/-- max(x, 0) and min(x, 0). -/
def aboveZero (x : FpVal) : FpVal := match x with | .fin true _ _ => .fin false 0 0 | .inf true => .fin false 0 0 | v => v
def belowZero (x : FpVal) : FpVal := match x with | .fin false _ _ => .fin false 0 0 | .inf false => .fin false 0 0 | v => v

/-- One lane of MKSCALE: the record, and whether an input is NaN. -/
def mkScale (asym : Bool) (qmax a b : Nat) : Nat × Bool :=
  let x := decodeFp32 a
  let l := decodeFp32 b
  if isNan x || isNan l then (0x0780, true)
  else
    let t := if asym then vAdd (aboveZero x) (vNeg (belowZero l)) else vAbs x
    match t with
    | .nan => (0x0780, false)
    | .inf _ => (0x12FF + (if asym then put (zeroPoint 0x12FF l) 23 16 else 0), false)
    | .fin _ m e =>
      if m = 0 then (0x0780, false)
      else
        let w := scaleWordOf m e qmax
        (w + (if asym then put (zeroPoint w l) 23 16 else 0), false)

def qTargetOf (fmt : Nat) : QTarget :=
  match fmt with
  | 5 => .int8
  | 6 => .uint8
  | 7 => .fp8e4m3
  | 8 => .fp8e5m2
  | _ => .int4

/-- The scale record of element e, from lane g_local * group of B (R196). -/
def groupRecord (u : Uop) (recs : List Lane) (e : Nat) : Lane := nth (0, false) recs (e / u.groupSize * u.groupSize)

/-- QUANT: the codes of the 128 elements, and how many are NaN. -/
def quantLanes (u : Uop) (xs recs : List Lane) : List Lane × Nat :=
  let t := qTargetOf u.fmt
  ((List.range 128).map (fun e =>
      let x := nth (0, false) xs e
      let r := groupRecord u recs e
      (quantise t (r.1 % 2 ^ 16) (fld r.1 23 16) (decodeFp32 x.1), x.2 || r.2)),
   (xs.filter (fun x => isNan (decodeFp32 x.1))).length)

/-- DEQUANT of one code (R197). -/
def dequant (src code record : Nat) : Nat :=
  let w := record % 2 ^ 16
  let s : FpVal := .fin false (scaleMant w) (scaleExp w - 7)
  let c : FpVal :=
    if src = 6 then
      let z := (code : Int) - fld record 23 16
      .fin (decide (z < 0)) z.natAbs 0
    else elemValue src code
  match c with
  | .inf _ => nanOf fp32
  | v => encodeVal fp32 (vMul v s)

def dequantLanes (u : Uop) (codes recs : List Lane) : List Lane :=
  (List.range 128).map (fun e =>
    let c := nth (0, false) codes (if codes.length = 128 then e else u.part * 128 + e)
    let r := groupRecord u recs e
    (dequant u.low c.1 r.1, c.2 || r.2))

/-! ### Segments, butterflies, softmax (R193, R206, R208) -/

/-- One level of the balanced tree: lanes 2i and 2i + 1 join. -/
def pairUp (f : Lane → Lane → Lane) : List Lane → List Lane
  | x :: y :: rest => f x y :: pairUp f rest
  | l => l

def treeFold (f : Lane → Lane → Lane) : Nat → List Lane → List Lane
  | 0, l => l
  | k + 1, l => treeFold f k (pairUp f l)

/-- The segment micro-ops: the fold of each 2^k lanes in its first lane, zero in the others. -/
def segmentLanes (u : Uop) (xs : List Lane) : List Lane :=
  let f := fun (x y : Lane) =>
    ((match u.op with
      | 0x28 => addElem u.fmt u.sat x.1 y.1
      | 0x29 => maxElem u.fmt x.1 y.1
      | _ => minElem u.fmt x.1 y.1), x.2 || y.2)
  (treeFold f u.low xs).flatMap (fun x => x :: List.replicate (2 ^ u.low - 1) (0, false))

def bcastLanes (u : Uop) (xs : List Lane) : List Lane :=
  (chunks (2 ^ u.low) 1024 xs).flatMap (fun seg => List.replicate seg.length (nth (0, false) seg 0))

/-- One stage of the butterfly on FP32 lanes (R175): lane i with bit t clear takes the sum, its partner the difference. -/
def butterfly (t : Nat) (xs : List Lane) : List Lane :=
  (List.range xs.length).map (fun i =>
    let bit := i / 2 ^ t % 2
    let u := nth (0, false) xs (i - bit * 2 ^ t)
    let v := nth (0, false) xs (i - bit * 2 ^ t + 2 ^ t)
    (if bit = 0 then f32Add u.1 v.1 else f32Sub u.1 v.1, u.2 || v.2))

/-- SMFIN (R208). -/
def softmaxLanes (scale : Nat) (xs stat : List Lane) : List Lane :=
  let mx := nth (0, false) stat 0
  let se := nth (0, false) stat 1
  let ct := nth (0, false) stat 2
  xs.map (fun x =>
    let p := f32Mul (expT (f32Sub (f32Mul x.1 scale) mx.1)) (rcpT se.1)
    (if ct.1 = 0 || isNan (decodeFp32 x.1) then 0 else p, x.2 || mx.2 || se.2 || ct.2))

/-- |x| of an element as FP32, none for NaN (R177: integer elements convert by one rounding, which is exact up to 2^24). -/
def absFp32 (f v : Nat) : Option FpVal :=
  match elemValue f v with
  | .nan => none
  | x => some (decodeFp32 (encodeVal fp32 (vAbs x)))

end Sys2Proof.Machine
end

