-- ==== Sys2Proof/Machine/Vector.lean ====
section
/-!
DEFINITION. Sys2Proof/Machine/Vector.lean: vector operations: the descriptor and its checks (R198, R201), issue and
stream beats (R192, R200), the run of a micro-program on every core of the partition (R199 to R210), and the TENSOR
merge (R207, R211).
-/
namespace Sys2Proof.Machine

/-! ### The descriptor (R198) -/

structure VStream where
  base : Nat
  coreStride : Nat
  rowStride : Nat
  rowChunks : Nat
  space : Nat
  chunkCode : Nat
  resv : Nat
  step : Nat
  deriving DecidableEq, Repr

structure VDesc where
  opType : Nat
  progSrc : Nat
  progLen : Nat
  client : Nat
  lib : Nat
  iters : Nat
  statBase : Nat
  progAddr : Nat
  statAddr : Nat
  streams : List VStream
  slots : List Nat
  resv : Nat
  deriving DecidableEq, Repr

def vStream (d s : Nat) : VStream where
  base := byteFld d (32 + 24 * s) (39 + 24 * s)
  coreStride := byteFld d (40 + 24 * s) (47 + 24 * s)
  rowStride := byteFld d (48 + 24 * s) (51 + 24 * s)
  rowChunks := byteFld d (52 + 24 * s) (53 + 24 * s)
  space := fld (byteFld d (54 + 24 * s) (54 + 24 * s)) 3 0
  chunkCode := fld (byteFld d (54 + 24 * s) (54 + 24 * s)) 5 4
  resv := fld (byteFld d (54 + 24 * s) (54 + 24 * s)) 7 6
  step := byteFld d (55 + 24 * s) (55 + 24 * s)

def vDesc (d : Nat) : VDesc where
  opType := byteFld d 0 0
  progSrc := byteFld d 1 1
  progLen := byteFld d 2 2
  client := byteFld d 3 3
  lib := byteFld d 4 5
  iters := byteFld d 8 11
  statBase := byteFld d 12 15
  progAddr := byteFld d 16 23
  statAddr := byteFld d 24 31
  streams := (List.range 6).map (vStream d)
  slots := (List.range 16).map (fun k => byteFld d (192 + 4 * k) (195 + 4 * k))
  resv := byteFld d 6 7 + byteFld d 176 191

def stream0 : VStream := { base := 0, coreStride := 0, rowStride := 0, rowChunks := 0, space := 0, chunkCode := 0, resv := 0, step := 0 }

def VDesc.stream (d : VDesc) (i : Nat) : VStream := nth stream0 d.streams i
def VDesc.slot (d : VDesc) (i : Nat) : Nat := nth 0 d.slots i
def VStream.used (t : VStream) : Bool := t.rowChunks != 0
/-- CHUNK in bytes. -/
def VStream.chunk (t : VStream) : Nat := 512 / 2 ^ t.chunkCode

/-- Chunk x of a stream, for the core at position p among the partition's cores (R199). -/
def VStream.addr (t : VStream) (p x : Nat) : Nat :=
  t.base + (if t.space = 1 then 0 else p * t.coreStride) + x / t.rowChunks * t.rowStride + x % t.rowChunks * t.chunk

/-- Row and chunk of iteration j, from input stream 0 (R196). -/
def VDesc.row (d : VDesc) (j : Nat) : Nat := j * (d.stream 0).step / (d.stream 0).rowChunks
def VDesc.chunkNo (d : VDesc) (j : Nat) : Nat := j * (d.stream 0).step % (d.stream 0).rowChunks

/-! ### Programs (R212) -/

def wordsOfProgram (bs : List Byte) : List Uop := (chunks 8 64 bs).map (fun w => uopOf (ofLe w))

/-- The bytes of library program `index` (R212). -/
def libProgram (p : List Byte) (index : Nat) : Option (List Byte) :=
  match (List.range (ofLe (p.take 2))).find? (fun i => ofLe ((p.drop (8 + 8 * i)).take 2) == index) with
  | none => none
  | some i => some ((p.drop (ofLe ((p.drop (12 + 8 * i)).take 4))).take (8 * ofLe ((p.drop (10 + 8 * i)).take 1)))

/-- Bytes of the program a descriptor names, with poison; none where it names none (R201). -/
def vecProgram (s : State) (img : PartImage) (d : VDesc) : Option (List PByte) :=
  if d.progSrc = 0 then
    (if d.progLen != 0 then none else (libProgram img.uprog d.lib).map clean)
  else if 1 ≤ d.progLen ∧ d.progLen ≤ 64 ∧ rangeAllowed s .localOnly d.progAddr (8 * d.progLen) ∧ d.progAddr % 64 = 0 then
    some (rmBytes s d.progAddr (8 * d.progLen))
  else none

/-! ### Checks (R201) -/

/-- A core's position: among the partition's cores, or within its die for space 0x2 (R199). -/
def vecPos (o : Geo) (cores : List Nat) (space k : Nat) : Nat :=
  let d := coreDie o.grade (nth 0 cores k)
  if space = 2 then ((cores.take k).filter (fun c => coreDie o.grade c == d)).length else k

/-- n bytes at an offset of a space lie where the operation may name them. -/
def vecRangeOk (s : State) (r : Ranges) (space core off n : Nat) : Bool :=
  match space with
  | 0 => rangeAllowed s r off n
  | 1 => space1Ok s ownVector [core] off n
  | 2 => off + n ≤ 2 ^ 32
  | _ => false

/-- The stream that a micro-op names, for its codes: LD and ST their own, QUANT its record stream. -/
def namedStream (u : Uop) : Option Nat :=
  match u.op with
  | 0x30 | 0x31 => some u.stream
  | 0x1A => some u.recStream
  | _ => none

/-- The micro-op takes its element positions or rows from input stream 0 (R196, R201, R207). -/
def usesStream0 (u : Uop) : Bool := u.op == 0x1A || u.op == 0x38 || u.op == 0x39

/-- Address of the record of group g of iteration j (R196). -/
def recordAddr (d : VDesc) (u : Uop) (p j gl : Nat) : Nat :=
  let t := d.stream u.recStream
  t.base + (if t.space = 1 then 0 else p * t.coreStride) + d.row j * t.rowStride
    + ((d.chunkNo j * 128) / u.groupSize + gl) * 4

/-- Groups per row of stream 0, counted in elements of 128 to a chunk (R207). -/
def VDesc.rowGroups (d : VDesc) (u : Uop) : Nat := (d.stream 0).rowChunks * 128 / u.groupSize

/-- Offset in the statistics buffer of element e of iteration j (R207). -/
def statOffset (d : VDesc) (u : Uop) (j e : Nat) : Nat :=
  match fld u.aux 1 0 with
  | 0 => d.statBase
  | 1 => d.statBase + (d.chunkNo j * 128 + e) * 4
  | _ => d.statBase + (d.row j * d.rowGroups u + (d.chunkNo j * 128 + e) / u.groupSize) * 4

/-- The ranges that micro-op u reaches in iteration j on the core at position k. -/
def uopRangesOk (s : State) (o : Geo) (cores : List Nat) (d : VDesc) (u : Uop) (j k : Nat) : Bool :=
  let c := nth 0 cores k
  match u.op with
  | 0x30 =>
    let t := d.stream u.stream
    vecRangeOk s .localOnly t.space c (t.addr (vecPos o cores t.space k) (j * t.step + u.imm)) t.chunk
  | 0x31 =>
    let t := d.stream u.stream
    vecRangeOk s .store t.space c (t.addr (vecPos o cores t.space k) (j * t.step + u.imm)) t.chunk
  | 0x1A =>
    let t := d.stream u.recStream
    (List.range (128 / u.groupSize)).all (fun g =>
      vecRangeOk s .store t.space c (recordAddr d u (vecPos o cores t.space k) j g) 4)
  | 0x39 =>
    (List.range (elemCount u.fmt)).all (fun e =>
      space1Ok s ownVector [c] (statOffset d u j e) (if fld u.aux 1 0 = 0 then 16 else 4))
  | _ => true

/-- The checks of R201 that need the descriptor, on one micro-op. -/
def uopStreamsOk (d : VDesc) (u : Uop) : Bool :=
  (match namedStream u with
   | none => true
   | some i => (d.stream i).used) &&
  (!usesStream0 u || (d.stream 0).used) &&
  ((u.op != 0x30 && u.op != 0x31) || u.part * (d.stream u.stream).chunk < 512) &&
  (u.op != 0x38 || (d.stream 0).rowChunks * (d.stream 0).chunk / 4 % 2 ^ u.low == 0)

/-- The checks of R201 on a descriptor and the program it names. -/
def vecChecks (s : State) (img : PartImage) (d : VDesc) (prog : List Uop) : Bool :=
  let o := geoOf s.fuse.grade img.shape
  let cores := shapeCores s.fuse.grade img.shape
  d.progSrc ≤ 1 && d.client ≤ 3 && d.lib ≤ 255 && d.resv == 0 && d.streams.all (fun t => t.space ≤ 2 && t.resv == 0) &&
  1 ≤ prog.length && prog.all uopOk && prog.all (uopStreamsOk d) && 1 ≤ d.iters && d.iters ≤ 2 ^ 24 &&
  d.progAddr % 64 == 0 && d.statAddr % 64 == 0 && d.statBase % 16 == 0 &&
  d.streams.all (fun t => t.base % 64 == 0 && t.coreStride % 64 == 0 && t.rowStride % 64 == 0) &&
  (d.statAddr == 0 || (rangeAllowed s .store d.statAddr 16 && cores.all (fun c => space1Ok s ownVector [c] d.statBase 16))) &&
  prog.all (fun u => (List.range d.iters).all (fun j => (List.range cores.length).all (fun k =>
    uopRangesOk s o cores d u j k)))

/-! ### The run -/

/-- A store, at the beat it is accepted. -/
structure VStore where
  beat : Nat
  core : Nat
  space : Nat
  addr : Nat
  bytes : List PByte
  deriving DecidableEq, Repr

/-- One core of the run: its registers, the URAND outputs it still has, whether it holds for want of one, and the micro-ops it
issued. -/
structure VCore where
  core : Nat
  regs : List VReg
  rand : List (List Byte)
  stopped : Bool
  issues : Nat
  deriving DecidableEq, Repr

/-- An input stream's engine: chunks read, the beat of the last read, and the beats at which LDs consumed, newest first. -/
structure VEngine where
  count : Nat
  last : Nat
  consumed : List Nat
  deriving DecidableEq, Repr

/-- A core's schedule so far (R192): its engines, the beat from which its next micro-op may issue, and the beats at which its
registers are ready. -/
structure VSched where
  engines : List VEngine
  next : Nat
  ready : List Nat
  deriving DecidableEq, Repr

/-- A micro-op of iteration j at its issue on the core at position k: the beat at which its chunk is read, the beat it issues and the
beat by which it has retired. -/
structure VEvent where
  k : Nat
  j : Nat
  u : Uop
  rd : Nat
  issue : Nat
  done : Nat
  deriving DecidableEq, Repr

/-- The run: `stores` lie in the order in which they are accepted. -/
structure VRun where
  s : State
  cores : List VCore
  stores : List VStore
  taps : List (Nat × Nat)
  last : Nat
  poison : Bool
  suppressed : Nat
  refused : Bool
  poisonLanes : Nat
  cvtRange : Nat
  nanQuant : Nat
  deriving DecidableEq, Repr

def engine0 : VEngine := { count := 0, last := 0, consumed := [] }

/-- The requester of a space. -/
def spaceOwner (space : Nat) : Nat := if space = 1 then ownVector else ownRemote

/-- The core whose write a 64-byte block that several cores write holds: the order is not fixed (R200), so it is a free
value of the operation and the block. -/
def blockWinner (fresh block : Nat) (cs : List Nat) : Nat :=
  nth 0 cs (Config.freeValue (fresh + block) % cs.length)

/-- The writes that accepted stores make in the 64-byte block of a, in the order in which they land: where several cores write the
block, the winner's come last (R200). -/
def landed (fresh : Nat) (stores : List VStore) (beat a : Nat) : List VStore :=
  let b := a / 64 * 64
  let hit := stores.filter (fun t => t.beat ≤ beat && t.addr < b + 64 && b < t.addr + t.bytes.length)
  let cs := (hit.map VStore.core).eraseDups
  let w := blockWinner fresh (a / 64) cs
  if cs.length ≤ 1 then hit else hit.filter (fun t => t.core != w) ++ hit.filter (fun t => t.core == w)

/-- The byte that the writes of a block leave at address a, if one covers it. -/
def storedByte (ts : List VStore) (a : Nat) : Option PByte :=
  match (ts.filter (fun t => t.addr ≤ a && a < t.addr + t.bytes.length)).getLast? with
  | none => none
  | some t => t.bytes[a - t.addr]?

/-- The mark of a's codeword behind the writes of its block: a poisoned byte sets it, and only a write of the whole codeword
clears it (R460, R463). -/
def storedMark (ts : List VStore) (before : Bool) (a : Nat) : Bool :=
  let base := cwBase a
  let n := cwBytes base
  ts.foldl (fun p t =>
    if meets t.addr t.bytes.length base then
      let mine := (t.bytes.drop (base - t.addr)).take (base + n - max base t.addr)
      anyPoison mine || (p && !covers t.addr t.bytes.length base)
    else p) before

/-- The byte at a as requester r finds it once the writes of its block have landed. -/
def landedByte (s : State) (r : Nat) (ts : List VStore) (a : Nat) : PByte :=
  match refusedAt s r false a with
  | some _ => (0#8, false)
  | none =>
    let old := peekAs s r a
    (((storedByte ts a).map Prod.fst).getD old.1, storedMark ts old.2 a)

/-- A read of n bytes at device address a at a beat: the stores accepted by then lie over memory. -/
def vecRead (r : VRun) (space beat a n : Nat) : List PByte × VRun :=
  let at_ := (rangeFrom (a / 64) ((a + n - 1) / 64)).flatMap (fun b =>
    let ts := landed r.s.fresh r.stores beat (64 * b)
    (List.range 64).filterMap (fun i => if a ≤ 64 * b + i ∧ 64 * b + i < a + n then some (64 * b + i, ts) else none))
  let whole := at_.all (fun x => x.2.any (fun t => covers t.addr t.bytes.length (cwBase x.1)))
  let x := if whole then (false, r.s) else localTouch r.s (spaceOwner space) a n
  (at_.map (fun y => landedByte x.2 (spaceOwner space) y.2 y.1), { r with s := x.2, refused := r.refused || x.1 })

def regOf (c : VCore) (i : Nat) : VReg := nth vreg0 c.regs i
def setReg (c : VCore) (i : Nat) (v : VReg) : VCore := { c with regs := setNth v c.regs i }

/-- Registers that a micro-op reads. -/
def uopSources (u : Uop) : List Nat :=
  match opInfo u.op with
  | none => []
  | some i =>
    (if i.a then [u.a] else []) ++ (if u.op = 0x38 ∧ u.low = 8 then [u.a + 1] else []) ++ (if i.b then [u.b] else []) ++
      (if i.c ∧ u.op ≠ 0x1A then [u.c] else [])

/-- Registers that a micro-op writes. -/
def uopResults (u : Uop) : List Nat :=
  match opInfo u.op with
  | none => []
  | some i => (if i.d then [u.dst] else []) ++ (if u.op = 0x38 ∧ u.low = 8 then [u.dst + 1] else [])

/-- The beat at which the engine of a stream reads its next chunk: one per beat, at most 16 chunks ahead (R200). -/
def VEngine.readBeat (e : VEngine) : Nat :=
  max (if e.count = 0 then 0 else e.last + 1) (if 17 ≤ e.count then nth 0 e.consumed 16 else 0)

/-- The accepted beat of a store issued at a beat (R200). -/
def acceptBeat (issue : Nat) : Nat := issue + 8

/-- Poisoned elements among a register's nibbles (R210). -/
def poisonedElems (fmt : Nat) (ns : List Lane) : Nat := ((lanesOf fmt ns).filter Prod.snd).length

def addStore (r : VRun) (t : VStore) (poisoned : Nat) : VRun :=
  { r with stores := appendBy VStore.beat t r.stores, poisonLanes := r.poisonLanes + poisoned, last := max r.last t.beat }

/-- The 128 addresses of GATHER, SCATTER and SCATADD, with the index lane's poison (R200). -/
def laneOffset (d : VDesc) (u : Uop) (c : VCore) (i : Nat) : Int × Bool :=
  let x := nth (0, false) (lanesOf 3 (regOf c u.a)) i
  ((d.slot u.low : Int) + signedOf 32 x.1 * (elemBits u.fmt / 8 : Nat), x.2)

/-- The element at an offset lies below 4 MiB in a bank of the vector unit. -/
def laneInside (s : State) (core : Nat) (off : Int) (n : Nat) : Bool :=
  decide (0 ≤ off) && space1Ok s ownVector [core] off.toNat n

/-- A lane of GATHER, SCATTER or SCATADD is suppressed; where it names a bank that the vector unit does not own, the access is refused
(R200, R367). -/
def suppress (core : Nat) (off : Int) (r : VRun) : VRun :=
  let s := if 0 ≤ off ∧ off < 2 ^ 22 then countRefused r.s (.bank core) else r.s
  { r with s := s, suppressed := r.suppressed + 1 }

/-- GATHER on one core. -/
def gatherCore (d : VDesc) (u : Uop) (issue : Nat) (r : VRun) (c : VCore) : VRun × VCore :=
  let n := elemBits u.fmt / 8
  let step := fun (x : VRun × List Lane) (i : Nat) =>
    let o := laneOffset d u c i
    if o.2 then (x.1, x.2 ++ [(0, true)])
    else if !laneInside x.1.s c.core o.1 n then (suppress c.core o.1 x.1, x.2 ++ [(0, false)])
    else
      let b := vecRead x.1 1 issue (scratchAddr c.core o.1.toNat) n
      ({ b.2 with poison := b.2.poison || anyPoison b.1 }, x.2 ++ [(ofLe (dataOf b.1), anyPoison b.1)])
  let g := (List.range 128).foldl step (r, [])
  (g.1, setReg c u.dst (overlay (regOf c u.dst) (u.part * 128 * elemNibbles u.fmt) (ofLanes u.fmt g.2)))

/-- One lane of SCATTER or SCATADD: a misaligned or poisoned word takes no add (R374, R376). -/
def scatterLane (d : VDesc) (u : Uop) (issue : Nat) (c : VCore) (vals : List Lane) (r : VRun) (i : Nat) : VRun :=
  let n := elemBits u.fmt / 8
  let o := laneOffset d u c i
  let v := nth (0, false) vals i
  if o.2 then r
  else if !laneInside r.s c.core o.1 n then suppress c.core o.1 r
  else
    let a := scratchAddr c.core o.1.toNat
    let put := fun (r : VRun) (w : Lane) =>
      addStore r { beat := acceptBeat issue, core := c.core, space := 1, addr := a,
                   bytes := (leBytes n w.1).map (fun b => (b, w.2)) } (if w.2 then 1 else 0)
    if u.op = 0x33 then put r v
    else if o.1.toNat % 4 ≠ 0 then suppress c.core o.1 r
    else
      let old := vecRead r 1 (acceptBeat issue) a 4
      if anyPoison old.1 then { old.2 with s := noteConsumed old.2.s 1 }
      else put old.2 ((ofLe (dataOf old.1) + v.1) % 2 ^ 32, v.2)

def scatterCore (d : VDesc) (u : Uop) (issue : Nat) (r : VRun) (c : VCore) : VRun :=
  let vals := ((lanesOf u.fmt (regOf c u.b)).drop (if u.op = 0x33 then u.part * 128 else 0)).take 128
  (List.range 128).foldl (scatterLane d u issue c vals) r

/-! ### Statistics (R207) -/

/-- The larger of an FP32 code in the buffer and a magnitude; a code that is NaN gives way. -/
def maxCode (old : Lane) (v : FpVal) : Lane := (encodeVal fp32 (vMax (decodeFp32 old.1) v), old.2)

/-- One buffer value at a device address takes a list of elements: FP32 at +0, and for TENSOR COUNT and NAN_COUNT at
+4 and +8. Poisoned lanes stay out. -/
def tapValue (u : Uop) (issue : Nat) (c : VCore) (off : Nat) (xs : List Lane) (r : VRun) : VRun :=
  let a := scratchAddr c.core off
  let tensor := fld u.aux 1 0 = 0
  let first := !u.acc && !r.taps.contains (c.core, off)
  let size := if tensor then 16 else 4
  let old := if first then (clean (List.replicate size 0#8), r) else vecRead r 1 issue a size
  let live := xs.filter (fun x => !x.2)
  let word := fun (i : Nat) => let b := (old.1.drop (4 * i)).take 4; ((ofLe (dataOf b), anyPoison b) : Lane)
  let top := (live.filterMap (fun x => absFp32 u.fmt x.1)).foldl maxCode (word 0)
  let nans := (live.filter (fun x => (absFp32 u.fmt x.1).isNone)).length
  let ct : Lane := (satTo 32 ((word 1).1 + live.length), (word 1).2)
  let nc : Lane := (satTo 32 ((word 2).1 + nans), (word 2).2)
  let ls : List Lane := if tensor then [top, ct, nc, (0, false)] else [top]
  let bs := ls.flatMap (fun l => (leBytes 4 l.1).map (fun b => (b, l.2)))
  let t : VStore := { beat := issue, core := c.core, space := 1, addr := a, bytes := bs }
  { old.2 with stores := appendBy VStore.beat t old.2.stores, taps := (c.core, off) :: old.2.taps,
               poison := old.2.poison || anyPoison old.1 }

def tapCore (d : VDesc) (u : Uop) (j issue : Nat) (r : VRun) (c : VCore) : VRun :=
  let xs := lanesOf u.fmt (regOf c u.a)
  let offs := (((List.range xs.length).map (statOffset d u j)).eraseDups)
  let r1 := offs.foldl (fun r off =>
    tapValue u issue c off (((List.range xs.length).filter (fun e => statOffset d u j e == off)).map (nth (0, false) xs)) r) r
  { r1 with poisonLanes := r1.poisonLanes + (xs.filter Prod.snd).length }

/-! ### One micro-op on one core -/

/-- The records of QUANT go to its record stream with their tags (R196). -/
def emitRecords (d : VDesc) (u : Uop) (j issue pos : Nat) (c : VCore) (recs : List Lane) (r : VRun) : VRun :=
  let t := d.stream u.recStream
  (List.range (128 / u.groupSize)).foldl (fun r gl =>
    let g := d.chunkNo j * 128 / u.groupSize + gl
    let tag := ((d.slot u.c + d.row j) * u.imm + g) % 16
    let rec_ := nth (0, false) recs (gl * u.groupSize)
    let w := rec_.1 % 2 ^ 24 + put tag 27 24
    addStore r { beat := acceptBeat issue, core := c.core, space := t.space,
                 addr := spaceAddr r.s t.space c.core (recordAddr d u pos j gl),
                 bytes := (leBytes 4 w).map (fun b => (b, rec_.2)) } (if rec_.2 then 1 else 0)) r

/-- The butterfly's registers: one, or the pair for b = 256 (R206). -/
def hadCore (u : Uop) (c : VCore) : VCore :=
  if u.low = 8 then
    let out := butterfly u.imm (lanesOf 0 (regOf c u.a) ++ lanesOf 0 (regOf c (u.a + 1)))
    setReg (setReg c u.dst (ofLanes 0 (out.take 128))) (u.dst + 1) (ofLanes 0 (out.drop 128))
  else setReg c u.dst (ofLanes 0 (butterfly u.imm (lanesOf 0 (regOf c u.a))))

/-- The 128 lanes of a URAND from 32 blocks (R209). -/
def urandLanes (bs : List Byte) : List Lane := (chunks 4 128 bs).map (fun w => (ofLe w, false))

/-- Micro-op u of iteration j on core c, which is at position k of the partition. `rd` is the stream's read beat. -/
def uopCore (o : Geo) (cores : List Nat) (d : VDesc) (u : Uop) (j issue rd : Nat) (r : VRun) (k : Nat) : VRun :=
  let c := nth { core := 0, regs := [], rand := [], stopped := true, issues := 0 } r.cores k
  let setC := fun (r : VRun) (c : VCore) => { r with cores := setNth c r.cores k }
  let f := u.fmt
  let x := lanesOf f (regOf c u.a)
  let y := lanesOf f (regOf c u.b)
  let z := lanesOf f (regOf c u.c)
  let write := fun (ls : List Lane) => setC r (setReg c u.dst (ofLanes f ls))
  if c.stopped then r
  else
    match u.op with
    | 0x00 => r
    | 0x15 => write (selLanes x y z)
    | 0x17 => setC r (setReg c u.dst (regOf c u.a))
    | 0x18 =>
      let q := cvtLanes u (lanesOf u.low (regOf c u.a)) (lanesOf f (regOf c u.dst))
      setC { r with cvtRange := r.cvtRange + q.2 } (setReg c u.dst (ofLanes f q.1))
    | 0x19 =>
      let q := (x.zip y).map (fun p => (mkScale (bitOf u.aux 0) u.imm p.1.1 p.2.1, p.1.2 || p.2.2))
      setC { r with nanQuant := r.nanQuant + (q.filter (fun t => t.1.2)).length }
        (setReg c u.dst (ofLanes 3 (q.map (fun t => (t.1.1, t.2)))))
    | 0x1A =>
      let recs := lanesOf 0 (regOf c u.b)
      let q := quantLanes u (lanesOf 0 (regOf c u.a)) recs
      let r1 := setC { r with nanQuant := r.nanQuant + q.2 }
        (setReg c u.dst (overlay (regOf c u.dst) (u.part * 128 * elemNibbles f) (ofLanes f q.1)))
      emitRecords d u j issue (vecPos o cores (d.stream u.recStream).space k) c recs r1
    | 0x1B => write (dequantLanes u (lanesOf u.low (regOf c u.a)) (lanesOf 0 (regOf c u.b)))
    | 0x25 => write (x.map (fun a => (boltzT (signedOf 32 a.1) (d.slot u.low), a.2)))
    | 0x28 | 0x29 | 0x2A => write (segmentLanes u x)
    | 0x2B => write (bcastLanes u x)
    | 0x2C => write ((List.range (elemCount f)).map (fun i => (i, false)))
    | 0x2D => write (List.replicate (elemCount f) (d.slot (fld u.imm 3 0) % 2 ^ elemBits f, false))
    | 0x30 =>
      let t := d.stream u.stream
      let a := spaceAddr r.s t.space c.core (t.addr (vecPos o cores t.space k) (j * t.step + u.imm))
      let b := vecRead r t.space rd a t.chunk
      setC { b.2 with poison := b.2.poison || anyPoison b.1 }
        (setReg c u.dst (overlay (regOf c u.dst) (2 * u.part * t.chunk) (nibblesOfBytes b.1)))
    | 0x31 =>
      let t := d.stream u.stream
      let a := spaceAddr r.s t.space c.core (t.addr (vecPos o cores t.space k) (j * t.step + u.imm))
      let ns := ((regOf c u.a).drop (2 * u.part * t.chunk)).take (2 * t.chunk)
      addStore r { beat := acceptBeat issue, core := c.core, space := t.space, addr := a, bytes := bytesOfNibbles ns } (poisonedElems f ns)
    | 0x32 => let g := gatherCore d u issue r c; setC g.1 g.2
    | 0x33 | 0x34 => scatterCore d u issue r c
    | 0x38 => setC r (hadCore u c)
    | 0x39 => tapCore d u j issue r c
    | 0x3A => write (softmaxLanes (d.slot u.low) x y)
    | 0x3B =>
      match c.rand with
      | [] => setC r { c with stopped := true }
      | b :: rest => setC r (setReg { c with rand := rest } u.dst (ofLanes 3 (urandLanes b)))
    | _ => write (laneWise u x y z)

/-- Arrival at the core in position k of the chunk that an LD of iteration j takes, after the feed beats of its space (R200). -/
def arrivalBeat (o : Geo) (cores : List Nat) (d : VDesc) (u : Uop) (j k rd : Nat) (s : State) : Nat :=
  let t := d.stream u.stream
  rd + feedBeats s t.space (t.addr (vecPos o cores t.space k) (j * t.step + u.imm))

def sched0 : VSched := { engines := List.replicate 4 engine0, next := 0, ready := List.replicate 32 0 }

/-- The core in position k schedules micro-op u of iteration j (R192): its own chunks and registers decide when it issues. -/
def schedStep (s : State) (o : Geo) (cores : List Nat) (d : VDesc) (k j : Nat) (x : VSched × List VEvent) (u : Uop) :
    VSched × List VEvent :=
  let c := x.1
  let e := nth engine0 c.engines u.stream
  let rd := e.readBeat
  let start := (uopSources u).foldl (fun t i => max t (nth 0 c.ready i)) c.next
  let issue := if u.op = 0x30 then max start (arrivalBeat o cores d u j k rd s) else start
  let b := uopBeats u
  let done := issue + b.2
  let partial_ := u.op == 0x18 || u.op == 0x1A || u.op == 0x30 || u.op == 0x32
  let ready := (uopResults u).foldl (fun t i => setNth (if partial_ then max (nth 0 t i) done else done) t i) c.ready
  let engines :=
    if u.op = 0x30 then setNth { count := e.count + 1, last := rd, consumed := issue :: e.consumed } c.engines u.stream
    else c.engines
  ({ engines := engines, next := issue + b.1, ready := ready },
   x.2 ++ [{ k := k, j := j, u := u, rd := rd, issue := issue, done := max done (issue + b.1) }])

/-- The schedule of the core in position k, iteration by iteration. No data enters it (R192). -/
def coreSched (s : State) (o : Geo) (cores : List Nat) (d : VDesc) (prog : List Uop) (k : Nat) : List VEvent :=
  ((List.range d.iters).foldl (fun x j => prog.foldl (schedStep s o cores d k j) x) (sched0, [])).2

/-- A core that goes on has issued one more micro-op. -/
def VCore.issued (c : VCore) : VCore := if c.stopped then c else { c with issues := c.issues + 1 }

/-- One micro-op happens on its core; a core that holds for entropy issues nothing more. -/
def runEvent (o : Geo) (cores : List Nat) (d : VDesc) (r : VRun) (e : VEvent) : VRun :=
  let stopped := match r.cores[e.k]? with | some c => c.stopped | none => true
  let r1 := uopCore o cores d e.u e.j e.issue e.rd r e.k
  if stopped then r else { r1 with last := max r1.last e.done, cores := r1.cores.modify e.k VCore.issued }

/-- The whole micro-program on every core, its micro-ops in the order in which they issue. -/
def vecRun (s : State) (img : PartImage) (d : VDesc) (prog : List Uop) (rand : AMap (List (List Byte))) : VRun :=
  let o := geoOf s.fuse.grade img.shape
  let cores := shapeCores s.fuse.grade img.shape
  let r0 : VRun :=
    { s := s
      cores := cores.map (fun c => { core := c, regs := List.replicate 32 vreg0, rand := mget [] rand c, stopped := false, issues := 0 })
      stores := [], taps := [], last := 0, poison := false, suppressed := 0, refused := false, poisonLanes := 0, cvtRange := 0,
      nanQuant := 0 }
  (sortBy VEvent.issue ((List.range cores.length).flatMap (coreSched s o cores d prog))).foldl (runEvent o cores d) r0

/-! ### Stores into memory -/

/-- A write of an operation: the vector unit in a core's own scratchpad, else the remote master, or a multicast. -/
def opWrite (s : State) (slot : Option Nat) (owner a : Nat) (bs : List PByte) : Bool × State :=
  match region s.fuse.grade a with
  | .mcast g off => mcastWrite s owner g off bs slot
  | _ => localWrite s owner a bs

/-- The stores of a run take effect: block by block, the core whose write the block holds comes last (R200). -/
def applyStores (s : State) (slot : Nat) (fresh : Nat) (stores : List VStore) : Bool × State :=
  let cut := stores.flatMap (fun t =>
    (piecesOf64 (t.bytes.length + 1) t.addr t.bytes).map (fun p => (t, p.1, p.2)))
  let writers := fun (a : Nat) => ((cut.filter (fun p => p.2.1 / 64 == a / 64)).map (fun p => p.1.core)).eraseDups
  let late := fun (p : VStore × Nat × List PByte) =>
    decide (1 < (writers p.2.1).length) && p.1.core == blockWinner fresh (p.2.1 / 64) (writers p.2.1)
  (cut.filter (fun p => !late p) ++ cut.filter late).foldl (fun x p =>
    let s0 := marchFold x.2 (slotPart x.2 slot) p.1.core p.2.1 p.2.2
    let w := opWrite s0 (some slot) (spaceOwner p.1.space) p.2.1 p.2.2
    (x.1 || w.1, w.2)) (false, s)
where
  /-- Bytes cut at 64-byte blocks. -/
  piecesOf64 : Nat → Nat → List PByte → List (Nat × List PByte)
    | 0, _, _ => []
    | fuel + 1, a, bs =>
      match bs with
      | [] => []
      | _ => (a, bs.take (64 - a % 64)) :: piecesOf64 fuel (a + (64 - a % 64)) (bs.drop (64 - a % 64))

/-- The TENSOR merge over the partition's cores (R207): maximum, sums, one 16-byte record, with the state after the buffers are
read. -/
def tensorMerge (s : State) (cores : List Nat) (base : Nat) : List PByte × State :=
  let x := cores.foldl (fun (x : List (List PByte) × State) c =>
    let a := localRead x.2 ownVector (scratchAddr c base) 16
    (x.1 ++ [a.bytes], a.state)) ([], s)
  let recs := x.1
  let w := fun (bs : List PByte) (i : Nat) => ofLe (dataOf ((bs.drop (4 * i)).take 4))
  let p := recs.any anyPoison
  let top := recs.foldl (fun t b => encodeVal fp32 (vMax (decodeFp32 t) (decodeFp32 (w b 0)))) 0
  let ct := recs.foldl (fun t b => satTo 32 (t + w b 1)) 0
  let nc := recs.foldl (fun t b => satTo 32 (t + w b 2)) 0
  ((leBytes 4 top ++ leBytes 4 ct ++ leBytes 4 nc ++ leBytes 4 0).map (fun b => (b, p)), x.2)

/-! ### The end of a vector operation (R209 to R211, R213, and VEC_ISSUES of R495) -/

/-- The operation's run and its stores: (status, work beats, lanes suppressed, state). `starved` marks an end for want of entropy. -/
def vecFinish (s : State) (part slot : Nat) (img : PartImage) (d : VDesc) (prog : List Uop) (starved : Bool) :
    Nat × Nat × Nat × State :=
  let v0 := vecOf s part
  let cores := shapeCores s.fuse.grade img.shape
  let fresh := s.fresh
  let r := vecRun s img d prog v0.rand
  let many := r.stores.any (fun t => t.space == 0)
  let w := applyStores { r.s with fresh := if many then fresh + 2 ^ 42 else fresh } slot fresh r.stores
  let merges := d.statAddr != 0 && !starved
  let stats := if merges then tensorMerge w.2 cores d.statBase else ([], w.2)
  let m := if merges then opWrite (marchPut stats.2 part d.statAddr stats.1) (some slot) ownRemote d.statAddr stats.1 else (false, w.2)
  let poison := r.poison || anyPoison stats.1
  let s0 := r.cores.foldl (fun s c => perfAdd s (perfCore c.core 1) c.issues) m.2
  let s1 := if poison then noteConsumed s0 1 else s0
  let v := vecOf s1 part
  let s2 := setVec s1 part
    { v with poisonLanes := satTo 16 (v.poisonLanes + r.poisonLanes), cvtRange := satTo 16 (v.cvtRange + r.cvtRange),
             nanQuant := satTo 16 (v.nanQuant + r.nanQuant), suppressed := satTo 12 (v.suppressed + r.suppressed),
             entropyWait := false, waiting := [], rand := [] }
  let st :=
    if starved then stNoEntropy
    else if poison then stPoison
    else if r.suppressed ≠ 0 || r.refused || w.1 || m.1 then stPartial
    else stOk
  (st, r.last + (if d.statAddr != 0 then 24 else 0), r.suppressed, s2)

/-- URAND outputs that each core takes. -/
def urandCount (d : VDesc) (prog : List Uop) : Nat := d.iters * (prog.filter (fun u => u.op == 0x3B)).length

/-- What the expanders answered. -/
structure Drawn where
  s : State
  rand : AMap (List (List Byte))
  waiting : List Nat
  refused : Bool
  deriving DecidableEq, Repr

/-- One more URAND output for core c, if it is not complete and its client delivers (R209). -/
def drawOne (client total : Nat) (x : Drawn) (c : Nat) : Drawn :=
  let have_ := mget [] x.rand c
  if total ≤ have_.length ∨ x.waiting.contains c then x
  else
    let g := generate x.s (5 * c + client) 32
    match g.1 with
    | .blocks bs => { x with s := g.2, rand := mput [] x.rand c (have_ ++ [bs.flatten]) }
    | .wait => { x with s := g.2, waiting := x.waiting ++ [c] }
    | .refused => { x with s := g.2, waiting := x.waiting ++ [c], refused := true }

/-- Every URAND output of the operation that the expanders can deliver now, in the cores' common order of issue. -/
def drawAll (s : State) (part : Nat) (cores : List Nat) (d : VDesc) (prog : List Uop) : Drawn :=
  let n := urandCount d prog
  (List.range n).foldl (fun x _ => cores.foldl (drawOne d.client n) x)
    { s := s, rand := (vecOf s part).rand, waiting := [], refused := false }

end Sys2Proof.Machine
end

