-- ==== Sys2Proof/Machine/AnnealBase.lean ====
section
/-!
DEFINITION. Sys2Proof/Machine/AnnealBase.lean: annealing problems: ownership of variables (R223), the problem descriptor
and its checks (R228 to R231), storage in stacked SRAM (R221, R224, R226), the exact model (R215 to R219), and the
conversion of QUBO problems (R217).
-/
namespace Sys2Proof.Machine

/-! ### Positions and owners (R223) -/

def posCount (o : Geo) : Nat := o.rows * o.cols
def posCore (o : Geo) (p : Nat) : Nat := o.core (p / o.cols) (p % o.cols)
/-- Die-row and die-column of a position, counted within the partition. -/
def posDieRow (o : Geo) (p : Nat) : Nat := p / o.cols / o.dieRowCores
def posDieCol (o : Geo) (p : Nat) : Nat := p % o.cols / o.dieColCores

def ownerPos (o : Geo) (v : Nat) : Nat := v / 64 % posCount o
def varSlot (o : Geo) (v : Nat) : Nat := v / 64 / posCount o * 64 + v % 64

/-- Variables below n that position p owns, in slot order. -/
def ownedAt (o : Geo) (n p : Nat) : List Nat :=
  (((List.range ((n + 63) / 64)).filter (fun t => t % posCount o == p)).flatMap (fun t =>
    (List.range 64).map (fun i => 64 * t + i))).filter (fun v => v < n)

/-- Constraints homed at position p, in unit order (R221). -/
def homedAt (o : Geo) (nc p : Nat) : List Nat := (List.range nc).filter (fun c => c % posCount o == p)

/-- The partition's dies as (die-row, die-column), and the die number of one. -/
def anlDies (o : Geo) : List (Nat × Nat) :=
  (List.range o.dieRows).flatMap (fun r => (List.range o.dieCols).map (fun c => (r, c)))
def anlDieNo (o : Geo) (rc : Nat × Nat) : Nat :=
  coreDie o.grade (o.core (rc.1 * o.dieRowCores) (rc.2 * o.dieColCores))

/-- Positions that lie in a die of the partition, rising. -/
def diePositions (o : Geo) (rc : Nat × Nat) : List Nat :=
  (List.range (posCount o)).filter (fun p => posDieRow o p == rc.1 && posDieCol o p == rc.2)

/-- Variables that a die owns, in slot order of each core and position order of the cores (R224, R226). -/
def dieVars (o : Geo) (n : Nat) (rc : Nat × Nat) : List Nat := (diePositions o rc).flatMap (ownedAt o n)

def varDie (o : Geo) (v : Nat) : Nat × Nat := (posDieRow o (ownerPos o v), posDieCol o (ownerPos o v))

/-- The sum of f over the entries of l before v. -/
def sumBefore (f : Nat → Nat) (v : Nat) : List Nat → Nat
  | [] => 0
  | x :: xs => if x = v then 0 else f x + sumBefore f v xs

def sumOver (f : Nat → Nat) (l : List Nat) : Nat := l.foldl (fun t x => t + f x) 0
def isum (l : List Int) : Int := l.foldl (· + ·) 0

/-! ### Dense blocks (R224, R225) -/

/-- U of a die-row and V of a die-column, each in increasing global index. -/
def denseU (o : Geo) (n dr : Nat) : List Nat := (List.range n).filter (fun v => posDieRow o (ownerPos o v) == dr)
def denseCol (o : Geo) (v : Nat) : Nat := v % (64 * o.cols) / 64 / o.dieColCores
def denseV (o : Geo) (n dc : Nat) : List Nat := (List.range n).filter (fun v => denseCol o v == dc)
def denseRS (o : Geo) (n bits dc : Nat) : Nat := ((denseV o n dc).length * bits + 511) / 512 * 64

/-! ### The problem descriptor (R230) -/

structure AnlDesc where
  typ : Nat
  mode : Nat
  encoding : Nat
  jwidth : Nat
  n : Nat
  nc : Nat
  jscale : Nat
  jscaleHi : Nat
  tag : Nat
  hAddr : Nat
  s0Addr : Nat
  jAddr : Nat
  jCount : Nat
  cAddr : Nat
  ceAddr : Nat
  base : Nat
  bytes : Nat
  resv : Nat
  deriving DecidableEq, Repr

def anlDesc (d : Nat) : AnlDesc where
  typ := byteFld d 0 0
  mode := byteFld d 1 1
  encoding := byteFld d 2 2
  jwidth := byteFld d 3 3
  n := byteFld d 4 7
  nc := byteFld d 8 11
  jscale := byteFld d 12 13
  jscaleHi := byteFld d 14 15
  tag := byteFld d 16 23
  hAddr := byteFld d 24 31
  s0Addr := byteFld d 32 39
  jAddr := byteFld d 40 47
  jCount := byteFld d 48 55
  cAddr := byteFld d 56 63
  ceAddr := byteFld d 64 71
  base := byteFld d 72 79
  bytes := byteFld d 80 87
  resv := byteFld d 88 127

def AnlDesc.dense (d : AnlDesc) : Bool := d.mode == 0
def AnlDesc.qubo (d : AnlDesc) : Bool := d.encoding == 1
/-- Bits of a coupling code. -/
def AnlDesc.bits (d : AnlDesc) : Nat := if d.jwidth = 1 then 4 else 8

/-- A little-endian word of the input, as the annealer reads it. -/
def inWord (s : State) (a n : Nat) : Nat := ofLe (dataOf (rmBytes s a n))
def inPoison (s : State) (a n : Nat) : Bool := anyPoison (rmBytes s a n)

/-- Field or diagonal h_v. -/
def inField (s : State) (d : AnlDesc) (v : Nat) : Int := signedOf 16 (inWord s (d.hAddr + 2 * v) 2)
def inSpin (s : State) (d : AnlDesc) (v : Nat) : Bool := d.s0Addr != 0 && bitOf (inWord s (d.s0Addr + v / 8) 1) (v % 8)
def inEdge (s : State) (d : AnlDesc) (i : Nat) : Nat := inWord s (d.jAddr + 8 * i) 8

/-- A dense code of row u, column v. -/
def inCode (s : State) (d : AnlDesc) (u v : Nat) : Int :=
  let b := inWord s (d.jAddr + u * d.jCount + v * d.bits / 8) 1
  if d.bits = 4 then signedOf 4 (nibble b (v % 2 == 1)) else signedOf 8 b

/-- A constraint record; its reserved bytes are not looked at (R231 lists no check of them). -/
structure ConRec where
  b : Int
  sigmaMax : Nat
  lambda : Nat
  sigma0 : Nat
  count : Nat
  first : Nat
  deriving DecidableEq, Repr

def inCon (s : State) (d : AnlDesc) (c : Nat) : ConRec :=
  let w := inWord s (d.cAddr + 32 * c) 32
  { b := signedOf 32 (byteFld w 0 3), sigmaMax := byteFld w 4 7, lambda := byteFld w 8 9, sigma0 := byteFld w 12 15,
    count := byteFld w 16 19, first := byteFld w 24 31 }

def inEntry (s : State) (d : AnlDesc) (i : Nat) : Nat := inWord s (d.ceAddr + 8 * i) 8
def entryVar (e : Nat) : Nat := fld e 24 0
def entryCoef (e : Nat) : Int := signedOf 8 (fld e 39 32)

/-- The coefficient entries that record c names. -/
def conEntries (s : State) (d : AnlDesc) (c : Nat) : List Nat :=
  let r := inCon s d c
  (List.range r.count).map (fun i => inEntry s d (r.first + i))

/-- The stored pairs with their supplied codes, in input order (dense: rows above the diagonal). -/
def inPairs (s : State) (d : AnlDesc) : List (Nat × Nat × Int) :=
  if d.dense then
    (List.range d.n).flatMap (fun u => (rangeFrom (u + 1) (d.n - 1)).map (fun v => (u, v, inCode s d u v)))
  else
    (List.range d.jCount).map (fun i => let e := inEdge s d i; (fld e 24 0, fld e 49 25, signedOf 8 (fld e 57 50)))

/-- Nonzero memberships (constraint, a) of variable v, in constraint order (R221). -/
def inMembers (s : State) (d : AnlDesc) (v : Nat) : List (Nat × Int) :=
  (List.range d.nc).flatMap (fun c =>
    ((conEntries s d c).filter (fun e => entryVar e == v && entryCoef e != 0)).map (fun e => (c, entryCoef e)))

/-! ### The checks of R231 -/

/-- A failed check: its code, the index of the item, the status. -/
structure AnlFail where
  code : Nat
  index : Nat
  status : Nat
  deriving DecidableEq, Repr

/-- An input range lies in local memory and meets no fence, so that no input is read from a fenced region (R229). -/
def inputOk (s : State) (a n : Nat) : Bool := n = 0 || (rangeAllowed s .localOnly a n && !meetsFence s a n)

/-- An address of the descriptor: aligned, and inside the map outside the front-end HBM (R230, R231). -/
def inputAddrOk (s : State) (a align : Nat) : Bool := a % align == 0 && rangeAllowed s .localOnly a 1

def fieldBytes (d : AnlDesc) : Nat := 2 * d.n
def spinBytes (d : AnlDesc) : Nat := if d.s0Addr = 0 then 0 else (d.n + 7) / 8
def couplingBytes (d : AnlDesc) : Nat := if d.dense then d.n * d.jCount else 8 * d.jCount

def descriptorOk (s : State) (d : AnlDesc) : Bool :=
  d.typ == 0x10 && d.mode ≤ 1 && d.encoding ≤ 1 && d.jwidth ≤ 1 && d.resv == 0 && d.jscaleHi == 0 && 1 ≤ d.jscale &&
  1 ≤ d.n && inputAddrOk s d.hAddr 8 && inputAddrOk s d.s0Addr 8 && inputAddrOk s d.jAddr 64 && inputAddrOk s d.cAddr 64 &&
  inputAddrOk s d.ceAddr 8 &&
  (if d.dense then d.jCount % 64 == 0 && (d.n * d.bits + 7) / 8 ≤ d.jCount else d.jCount ≤ 4000000000) &&
  inputOk s d.hAddr (fieldBytes d) && inputOk s d.s0Addr (spinBytes d) && inputOk s d.jAddr (couplingBytes d) &&
  inputOk s d.cAddr (32 * d.nc)

/-- The region overlaps the fence of another partition's problem (R229). -/
def regionClash (s : State) (part base bytes : Nat) : Bool :=
  s.anl.any (fun na =>
    na.1 != part &&
    (match fenceOf na.2 with
     | none => false
     | some f => (partDies s na.1).any (partDies s part).contains && decide (f.1 < base + bytes) && decide (base < f.1 + f.2)))

def regionOk (s : State) (part : Nat) (d : AnlDesc) : Bool :=
  d.base % 0x10000 == 0 && d.bytes % 0x10000 == 0 && d.bytes != 0 && d.base + d.bytes ≤ 2 ^ 32 &&
  !regionClash s part d.base d.bytes

/-- A code has the width JWIDTH states, and a negation where the encoding needs one (R217). -/
def codeOk (d : AnlDesc) (j : Int) : Bool :=
  let m : Int := if d.jwidth = 1 then 8 else 128
  decide (-m ≤ j) && decide (j < m) && !(d.qubo && j == -m)

def edgeOk (d : AnlDesc) (e : Nat) : Bool :=
  fld e 63 58 == 0 && fld e 24 0 != fld e 49 25 && fld e 24 0 < d.n && fld e 49 25 < d.n && codeOk d (signedOf 8 (fld e 57 50))

def coefEntryOk (d : AnlDesc) (e : Nat) : Bool := fld e 63 40 == 0 && fld e 31 25 == 0 && entryVar e < d.n

/-- CODES: the first failing edge (dense: row), or coefficient entry. -/
def codesFail (s : State) (d : AnlDesc) : Option Nat :=
  let j :=
    if d.dense then
      (List.range d.n).find? (fun u => (rangeFrom (u + 1) (d.n - 1)).any (fun v => !codeOk d (inCode s d u v)))
    else (List.range d.jCount).find? (fun i => !edgeOk d (inEdge s d i))
  match j with
  | some i => some i
  | none =>
    (List.range d.nc).findSome? (fun c =>
      let r := inCon s d c
      ((List.range r.count).map (r.first + ·)).find? (fun i =>
        !(inputOk s (d.ceAddr + 8 * i) 8 && coefEntryOk d (inEntry s d i))))

def constraintOk (s : State) (d : AnlDesc) (c : Nat) : Bool :=
  let r := inCon s d c
  let vs := (conEntries s d c).map entryVar
  decide (-(2 ^ 24 - 1 : Int) ≤ r.b) && decide (r.b ≤ 2 ^ 24 - 1) && r.sigmaMax < 2 ^ 24 && r.sigma0 ≤ r.sigmaMax &&
  1 ≤ r.count && r.count ≤ 16384 && vs.eraseDups.length == vs.length

/-- Degree of v: stored pairs that hold it. -/
def inDegree (s : State) (d : AnlDesc) (v : Nat) : Nat :=
  if d.dense then d.n - 1 else ((inPairs s d).filter (fun p => p.1 == v || p.2.1 == v)).length

/-- Distinct constraints that name variables of position p. -/
def mirrorCount (s : State) (o : Geo) (d : AnlDesc) (p : Nat) : Nat :=
  (((ownedAt o d.n p).flatMap (fun v => (inMembers s d v).map Prod.fst)).eraseDups).length

/-- SRAM bytes that a die needs (R228). -/
def dieNeed (s : State) (o : Geo) (d : AnlDesc) (rc : Nat × Nat) : Nat :=
  let vs := dieVars o d.n rc
  (if d.dense then (denseU o d.n rc.1).length * denseRS o d.n d.bits rc.2 else 8 * sumOver (inDegree s d) vs)
    + 4 * sumOver (fun v => (inMembers s d v).length) vs

/-- CAPACITY (R228): the failing variable where there is one. -/
def capacityFail (s : State) (o : Geo) (d : AnlDesc) : Option Nat :=
  let c := posCount o
  if !(d.n ≤ 12288 * c && (!d.dense || d.n ≤ 131072) && d.nc ≤ 64 * c) then some 0
  else
    match (List.range d.n).find? (fun v => (!d.dense && 4096 < inDegree s d v) || 16 < (inMembers s d v).length) with
    | some v => some v
    | none =>
      let dieBad := (anlDies o).any (fun rc =>
        d.bytes < dieNeed s o d rc || (!d.dense && 500000000 < sumOver (inDegree s d) (dieVars o d.n rc)))
      if dieBad || (List.range c).any (fun p => 1024 < mirrorCount s o d p) then some 0 else none

/-! ### The exact model (R215 to R219) -/

/-- LIN of every variable (R215, R217). -/
def inLin (s : State) (d : AnlDesc) : List Int :=
  let ps := inPairs s d
  (List.range d.n).map (fun v =>
    if d.qubo then
      -(2 * inField s d v + d.jscale * isum ((ps.filter (fun p => p.1 == v || p.2.1 == v)).map (fun p => p.2.2)))
    else inField s d v)

/-- OFFSET (R217). -/
def inOffset (s : State) (d : AnlDesc) : Int :=
  if d.qubo then
    d.jscale * isum ((inPairs s d).map (fun p => p.2.2)) + 2 * isum ((List.range d.n).map (inField s d))
  else 0

/-- Dmax of a constraint (R219). -/
def conDmax (s : State) (d : AnlDesc) (c : Nat) : Nat :=
  let r := inCon s d c
  let a := (conEntries s d c).map entryCoef
  let lo := isum (a.filter (fun x => decide (x < 0)))
  let hi := isum (a.filter (fun x => decide (0 < x)))
  max (lo - r.b).natAbs (hi + r.sigmaMax - r.b).natAbs

/-- B (R219). -/
def inBound (s : State) (d : AnlDesc) : Nat :=
  d.jscale * (inPairs s d).foldl (fun t p => t + p.2.2.natAbs) 0 + (inLin s d).foldl (fun t x => t + x.natAbs) 0
    + sumOver (fun c => (inCon s d c).lambda * conDmax s d c ^ 2) (List.range d.nc)

/-- INPUT: the first poisoned item (R231). -/
def inputPoison (s : State) (desc : Nat) (d : AnlDesc) : Option Nat :=
  if inPoison s desc 128 then some 0
  else
    match (List.range d.n).find? (fun v => inPoison s (d.hAddr + 2 * v) 2) with
    | some v => some v
    | none =>
    match (List.range d.n).find? (fun v => d.s0Addr != 0 && inPoison s (d.s0Addr + v / 8) 1) with
    | some v => some v
    | none =>
    match (if d.dense then
             (List.range d.n).find? (fun u => (rangeFrom (u + 1) (d.n - 1)).any (fun v =>
               inPoison s (d.jAddr + u * d.jCount + v * d.bits / 8) 1))
           else (List.range d.jCount).find? (fun i => inPoison s (d.jAddr + 8 * i) 8)) with
    | some i => some i
    | none =>
    match (List.range d.nc).find? (fun c => inPoison s (d.cAddr + 32 * c) 32) with
    | some c => some c
    | none =>
      (List.range d.nc).findSome? (fun c =>
        let r := inCon s d c
        ((List.range r.count).map (r.first + ·)).find? (fun i => inPoison s (d.ceAddr + 8 * i) 8))

/-- The checks after BUSY, in order (R231); none when the load passes. -/
def anlCheck (s : State) (part desc : Nat) (o : Geo) (d : AnlDesc) : Option AnlFail :=
  let bad := fun (code index : Nat) => some ({ code := code, index := index, status := stFormat } : AnlFail)
  if !inputOk s desc 128 || !descriptorOk s d then bad 2 0
  else if !regionOk s part d then bad 3 0
  else
    match codesFail s d with
    | some i => bad 4 i
    | none =>
    match (List.range d.nc).find? (fun c => !constraintOk s d c) with
    | some c => bad 5 c
    | none =>
    match capacityFail s o d with
    | some i => bad 6 i
    | none =>
      if 2 ^ 62 ≤ inBound s d then bad 7 0
      else
        match inputPoison s desc d with
        | some i => some { code := 8, index := i, status := stPoison }
        | none => none

/-- The dense rows as the passes read them: only the codes above the diagonal (R230). -/
def denseRanges (d : AnlDesc) : List (Nat × Nat) :=
  (List.range (d.n - 1)).map (fun u =>
    let lo := (u + 1) * d.bits / 8
    (d.jAddr + u * d.jCount + lo, ((d.n - 1) * d.bits / 8 + 1) - lo))

/-- The ranges that a descriptor which passed its check names, but for the coefficient entries. -/
def inputRanges (d : AnlDesc) : List (Nat × Nat) :=
  [(d.hAddr, fieldBytes d), (d.s0Addr, spinBytes d)] ++ (if d.dense then denseRanges d else [(d.jAddr, couplingBytes d)]) ++
    [(d.cAddr, 32 * d.nc)]

/-- The coefficient entries that the constraint records name; an entry that lies outside local memory or in a fence is
not read (R229, R231). -/
def entryRanges (s : State) (d : AnlDesc) : List (Nat × Nat) :=
  (List.range d.nc).flatMap (fun c =>
    let r := inCon s d c
    let n := min r.count 16384
    let a := d.ceAddr + 8 * r.first
    if inputOk s a (8 * n) then [(a, 8 * n)]
    else ((List.range n).map (fun i => (a + 8 * i, 8))).filter (fun e => inputOk s e.1 e.2))

/-- The checked reads of descriptor and input, each faulty codeword decoded once: whether one was refused, and the
state. Nothing is read that a check of DESCRIPTOR keeps out. -/
def touchInput (s : State) (desc : Nat) : Bool × State :=
  if !inputOk s desc 128 then (false, s)
  else
    let r0 := localTouch s ownRemote desc 128
    let d := anlDesc (inWord r0.2 desc 128)
    if !descriptorOk r0.2 d then r0
    else
      let r1 := touchAll r0.2 ownRemote (inputRanges d)
      let r2 := touchAll r1.2 ownRemote (entryRanges r1.2 d)
      (r0.1 || r1.1 || r2.1, r2.2)

/-! ### What the build pass writes (R221, R224, R226) -/

/-- Signed code of a stored pair, after any QUBO negation. -/
def storedCode (d : AnlDesc) (j : Int) : Int := if d.qubo then -j else j

/-- A variable's neighbour list: (peer, code), in input order. -/
def inNeighbours (s : State) (d : AnlDesc) (v : Nat) : List (Nat × Int) :=
  (inPairs s d).filterMap (fun p =>
    if p.1 = v then some (p.2.1, storedCode d p.2.2)
    else if p.2.1 = v then some (p.1, storedCode d p.2.2)
    else none)

def neighbourBytes (e : Nat × Int) : List Byte := leBytes 8 (put e.1 24 0 + put (wrapTo 8 e.2) 39 32)
def memberBytes (e : Nat × Int) : List Byte := leBytes 4 (put e.1 16 0 + put (wrapTo 8 e.2) 31 24)

/-- The coupling of u and v in a dense problem, 0 on the diagonal. -/
def denseCoupling (s : State) (d : AnlDesc) (u v : Nat) : Int :=
  if u = v then 0 else storedCode d (if u < v then inCode s d u v else inCode s d v u)

/-- Codes packed into bytes as R224 lays down. -/
def packCodes (bits : Nat) : List Int → List Byte
  | [] => []
  | [x] => [BitVec.ofNat 8 (if bits = 4 then wrapTo 4 x else wrapTo 8 x)]
  | x :: y :: rest =>
    if bits = 4 then BitVec.ofNat 8 (wrapTo 4 x + 16 * wrapTo 4 y) :: packCodes bits rest
    else BitVec.ofNat 8 (wrapTo 8 x) :: BitVec.ofNat 8 (wrapTo 8 y) :: packCodes bits rest

/-- One die's share of the problem, as its stacked SRAM holds it. -/
def dieImage (s : State) (o : Geo) (d : AnlDesc) (rc : Nat × Nat) : List Byte :=
  let vs := dieVars o d.n rc
  let couplings :=
    if d.dense then
      (denseU o d.n rc.1).flatMap (fun u =>
        let row := packCodes d.bits ((denseV o d.n rc.2).map (denseCoupling s d u))
        row ++ List.replicate (denseRS o d.n d.bits rc.2 - row.length) 0#8)
    else vs.flatMap (fun v => (inNeighbours s d v).flatMap neighbourBytes)
  couplings ++ vs.flatMap (fun v => (inMembers s d v).flatMap memberBytes)

/-- The problem as the registers and the stores of the partition hold it. -/
def builtProb (s : State) (d : AnlDesc) : AnlProb where
  dense := d.dense
  qubo := d.qubo
  int4 := d.jwidth == 1
  n := d.n
  nc := d.nc
  jscale := d.jscale
  tag := BitVec.ofNat 64 d.tag
  base := d.base
  bytes := d.bytes
  e0 := 0
  offset := inOffset s d
  bound := inBound s d
  spins0 := (List.range d.n).map (inSpin s d)
  sigma0 := (List.range d.nc).map (fun c => (inCon s d c).sigma0)
  degrees := (List.range d.n).map (inDegree s d)
  members := (List.range d.n).map (fun v => (inMembers s d v).length)
  lin := inLin s d
  constrs := (List.range d.nc).map (fun c => let r := inCon s d c; { b := r.b, sigmaMax := r.sigmaMax, lambda := r.lambda })

/-! ### Reading the stores back -/

def constr0 : Constr := { b := 0, sigmaMax := 0, lambda := 0 }
def AnlProb.con (p : AnlProb) (c : Nat) : Constr := nth constr0 p.constrs c
def AnlProb.degree (p : AnlProb) (v : Nat) : Nat := nth 0 p.degrees v
def AnlProb.memberCount (p : AnlProb) (v : Nat) : Nat := nth 0 p.members v
def AnlProb.bits (p : AnlProb) : Nat := if p.int4 then 4 else 8

/-- Device address and bytes of a sparse variable's list. -/
def listRange (o : Geo) (p : AnlProb) (v : Nat) : Nat × Nat :=
  let rc := varDie o v
  (sramAddr (anlDieNo o rc) (p.base + 8 * sumBefore p.degree v (dieVars o p.n rc)), 8 * p.degree v)

/-- Bytes of a die's lists or block, before its memberships. -/
def couplingSize (o : Geo) (p : AnlProb) (rc : Nat × Nat) : Nat :=
  if p.dense then (denseU o p.n rc.1).length * denseRS o p.n p.bits rc.2 else 8 * sumOver p.degree (dieVars o p.n rc)

/-- Device address and bytes of a variable's membership entries. -/
def memberRange (o : Geo) (p : AnlProb) (v : Nat) : Nat × Nat :=
  let rc := varDie o v
  (sramAddr (anlDieNo o rc) (p.base + couplingSize o p rc + 4 * sumBefore p.memberCount v (dieVars o p.n rc)), 4 * p.memberCount v)

/-- Device address and bytes of row u of the dense block of a die in u's die-row. -/
def rowRange (o : Geo) (p : AnlProb) (u dc : Nat) : Nat × Nat :=
  let dr := posDieRow o (ownerPos o u)
  let rs := denseRS o p.n p.bits dc
  (sramAddr (anlDieNo o (dr, dc)) (p.base + sumBefore (fun _ => rs) u (denseU o p.n dr)), rs)

/-- The couplings of u: (peer, code) and poison, from the stores. -/
def storedNeighbours (s : State) (o : Geo) (p : AnlProb) (u : Nat) : List (Nat × Int) × Bool :=
  if p.dense then
    (List.range o.dieCols).foldl (fun x dc =>
      let r := rowRange o p u dc
      let bs := peekBytes r.2 s r.1
      let codes := (denseV o p.n dc).mapIdx (fun lv v =>
        let b := (nth (0#8, false) bs (lv * p.bits / 8)).1.toNat
        (v, if p.bits = 4 then signedOf 4 (nibble b (lv % 2 == 1)) else signedOf 8 b))
      (x.1 ++ codes.filter (fun e => e.1 != u), x.2 || anyPoison bs)) ([], false)
  else
    let r := listRange o p u
    let bs := peekBytes r.2 s r.1
    ((chunks 8 (p.degree u) bs).map (fun e => let w := ofLe (dataOf e); (fld w 24 0, signedOf 8 (fld w 39 32))), anyPoison bs)

/-- The memberships of v: (constraint, a) and poison, from the stores. -/
def storedMembers (s : State) (o : Geo) (p : AnlProb) (v : Nat) : List (Nat × Int) × Bool :=
  let r := memberRange o p v
  let bs := peekBytes r.2 s r.1
  ((chunks 4 (p.memberCount v) bs).map (fun e => let w := ofLe (dataOf e); (fld w 16 0, signedOf 8 (fld w 31 24))), anyPoison bs)

/-- Checked reads of the ranges. -/
def touchRanges (s : State) (rs : List (Nat × Nat)) : State := rs.foldl (fun s r => touch s r.1 r.2) s

def memberRanges (o : Geo) (p : AnlProb) : List (Nat × Nat) :=
  (anlDies o).map (fun rc =>
    (sramAddr (anlDieNo o rc) (p.base + couplingSize o p rc), 4 * sumOver p.memberCount (dieVars o p.n rc)))

def couplingRanges (o : Geo) (p : AnlProb) : List (Nat × Nat) :=
  (anlDies o).map (fun rc => (sramAddr (anlDieNo o rc) p.base, couplingSize o p rc))

def spinVal (b : Bool) : Int := if b then 1 else -1
def AnlVars.spin (x : AnlVars) (v : Nat) : Int := spinVal (nth false x.spins v)
def AnlVars.field (x : AnlVars) (v : Nat) : Int := nth 0 x.g v
def AnlVars.row (x : AnlVars) (c : Nat) : Int := nth 0 x.r c
def AnlVars.slack (x : AnlVars) (c : Nat) : Nat := nth 0 x.sigma c

/-- D_c (R215). -/
def conD (p : AnlProb) (x : AnlVars) (c : Nat) : Int := x.row c + x.slack c - (p.con c).b

/-- E of R215 from fields: each stored pair lies in two fields. -/
def energyOf (p : AnlProb) (x : AnlVars) : Int :=
  -(p.jscale * isum ((List.range p.n).map (fun v => x.spin v * x.field v)) / 2)
    - isum ((List.range p.n).map (fun v => nth 0 p.lin v * x.spin v))
    + isum ((List.range p.nc).map (fun c => (p.con c).lambda * conD p x c ^ 2))

/-- Fields, row sums and E computed exactly from spins and slacks, over each variable's couplings and memberships. -/
def varsOf (p : AnlProb) (nb mb : List (List (Nat × Int))) (spins : List Bool) (sigma : List Nat) : AnlVars :=
  let sp := fun (v : Nat) => nth false spins v
  let g := nb.map (fun l => isum (l.map (fun e => e.2 * spinVal (sp e.1))))
  let r := (List.range p.nc).map (fun c =>
    isum (mb.mapIdx (fun v l => if sp v then isum ((l.filter (fun e => e.1 == c)).map Prod.snd) else 0)))
  let x : AnlVars := { spins := spins, g := g, r := r, sigma := sigma, energy := 0 }
  { x with energy := energyOf p x }

/-- The state that the build pass computes, from the input (R231). -/
def builtVars (s : State) (d : AnlDesc) (p : AnlProb) : AnlVars :=
  varsOf p ((List.range d.n).map (inNeighbours s d)) ((List.range d.n).map (inMembers s d)) p.spins0 p.sigma0

/-- The state recomputed from the stores at a run's start (R276), and whether poison was met; the stores' faulty
codewords have been decoded. -/
def computeVars (s : State) (o : Geo) (p : AnlProb) (spins : List Bool) (sigma : List Nat) : AnlVars × Bool :=
  let nb := (List.range p.n).map (storedNeighbours s o p)
  let mb := (List.range p.n).map (storedMembers s o p)
  (varsOf p (nb.map Prod.fst) (mb.map Prod.fst) spins sigma, nb.any Prod.snd || mb.any Prod.snd)

end Sys2Proof.Machine
end

