-- ==== Sys2Proof/Machine/Anneal.lean ====
section
/-!
DEFINITION. Sys2Proof/Machine/Anneal.lean: the annealing step: candidates and their energy changes (R237 to R239),
weights and the draw (R241 to R245), regions, VETO and FREE (R246 to R252), exact application (R251, R255), Frost
(R265), the temperature curves (R260 to R264), and step beats (R270).
-/
namespace Sys2Proof.Machine

/-! ### Candidates (R237) -/

inductive Cand where
  | flip (v : Nat)
  | slack (c : Nat) (up : Bool)
  deriving DecidableEq, Repr

/-- What a step works on: the partition's geometry and image, the problem, the clamped variables, the number of own
variables (all but ghosts), and each variable's memberships as the stores hold them. -/
structure StepEnv where
  o : Geo
  img : PartImage
  p : AnlProb
  clamp : List Bool
  nOwn : Nat
  mem : List (List (Nat × Int))
  deriving DecidableEq, Repr

def StepEnv.members (e : StepEnv) (v : Nat) : List (Nat × Int) := nth [] e.mem v

/-- Constraint c offers slack moves. -/
def offersSlack (p : AnlProb) (c : Nat) : Bool := (p.con c).lambda != 0 && (p.con c).sigmaMax != 0

/-- The candidates of position q, in order. -/
def candsAt (e : StepEnv) (q : Nat) : List Cand :=
  ((ownedAt e.o e.p.n q).filter (fun v => v < e.nOwn && !nth false e.clamp v)).map .flip ++
    ((homedAt e.o e.p.nc q).filter (offersSlack e.p)).flatMap (fun c => [.slack c false, .slack c true])

def candidates (e : StepEnv) : List Cand := (List.range (posCount e.o)).flatMap (candsAt e)

/-- The region of a position: REGION_OF is in flat-index order (R73). -/
def regionOfPos (e : StepEnv) (q : Nat) : Nat :=
  nth 0 e.img.regions.regionOf ((shapeCores e.o.grade e.img.shape).idxOf (posCore e.o q))

def regionPositions (e : StepEnv) (r : Nat) : List Nat :=
  (List.range (posCount e.o)).filter (fun q => regionOfPos e q == r)

def regionCands (e : StepEnv) (r : Nat) : List Cand := (regionPositions e r).flatMap (candsAt e)

/-- The lead core's position (R246). -/
def leadPos (e : StepEnv) (r : Nat) : Nat := nth 0 (regionPositions e r) 0

def slackDelta (up : Bool) : Int := if up then 1 else -1

/-- A slack move is available (R239). -/
def slackAvailable (p : AnlProb) (x : AnlVars) (c : Nat) (up : Bool) : Bool :=
  if up then x.slack c + 1 ≤ (p.con c).sigmaMax else 1 ≤ x.slack c

/-- f_v (R218). -/
def fieldTerm (p : AnlProb) (x : AnlVars) (v : Nat) : Int := p.jscale * x.field v + nth 0 p.lin v

/-- The exact energy change of a candidate (R238, R239). -/
def candDelta (e : StepEnv) (x : AnlVars) (m : Cand) : Int :=
  match m with
  | .flip v =>
    let dx := -x.spin v
    2 * x.spin v * fieldTerm e.p x v +
      isum ((e.members v).map (fun k => (e.p.con k.1).lambda * (2 * conD e.p x k.1 * k.2 * dx + k.2 * k.2)))
  | .slack c up => (e.p.con c).lambda * (2 * conD e.p x c * slackDelta up + 1)

def candAllowed (e : StepEnv) (x : AnlVars) (m : Cand) : Bool :=
  match m with
  | .flip _ => true
  | .slack c up => slackAvailable e.p x c up

/-- The weight of a candidate (R239, R241). -/
def candWeight (e : StepEnv) (x : AnlVars) (t : Nat) (m : Cand) : Nat :=
  if candAllowed e x m then boltzT (candDelta e x m) t else 0

/-! ### The draw (R242, R243) -/

/-- The candidate at target t, by prefix sums. -/
def pickAt : Nat → List (Cand × Nat) → Option Cand
  | _, [] => none
  | t, (m, w) :: rest => if t < w then some m else pickAt (t - w) rest

def weightSum (ws : List (Cand × Nat)) : Nat := ws.foldl (fun t p => t + p.2) 0

def drawCand (ws : List (Cand × Nat)) (u : Nat) : Option Cand := pickAt (u * weightSum ws / 2 ^ 32) ws

/-! ### Colouring (R256, R257) -/

/-- Phases of a coloured run. -/
def colourPhases (e : StepEnv) : Nat :=
  e.img.regions.colours + (if (List.range e.p.nc).any (offersSlack e.p) then 1 else 0)

/-- A candidate belongs to the selecting set of phase k. -/
def inPhase (e : StepEnv) (k : Nat) (m : Cand) : Bool :=
  match m with
  | .flip v => k < e.img.regions.colours && nth 0 e.img.regions.colourOf v == k
  | .slack _ _ => k == e.img.regions.colours

/-- The colouring in force fits the problem's tag and size (R256). -/
def colouringUsable (img : PartImage) (p : AnlProb) : Bool :=
  img.regions.colours != 0 && img.regions.tag != 0#64 && img.regions.tag == p.tag && img.regions.vars == p.n

/-! ### Conflicts (R247) -/

def sharesCon (e : StepEnv) (u v : Nat) : Bool := (e.members u).any (fun k => (e.members v).any (fun l => l.1 == k.1))

/-- Two moves conflict; `near` gives a flipped variable's stored peers. -/
def conflicts (e : StepEnv) (near : Nat → List Nat) (a b : Cand) : Bool :=
  match a, b with
  | .flip u, .flip v => e.p.dense || (near u).contains v || sharesCon e u v
  | .flip v, .slack c _ => (e.members v).any (fun k => k.1 == c)
  | .slack c _, .flip v => (e.members v).any (fun k => k.1 == c)
  | .slack _ _, .slack _ _ => false

/-- Proposals that keep no conflict with a proposal of lower number (R248). -/
def unwithdrawn (e : StepEnv) (near : Nat → List Nat) : List Cand → List Cand → List Cand
  | _, [] => []
  | before, m :: rest =>
    if before.any (fun b => conflicts e near b m) then unwithdrawn e near (before ++ [m]) rest
    else m :: unwithdrawn e near (before ++ [m]) rest

/-- Applied moves that conflict with another applied move (R252). -/
def staleMoves (e : StepEnv) (near : Nat → List Nat) (ms : List Cand) : List Cand :=
  ms.filter (fun m => ms.any (fun b => b != m && conflicts e near b m))

/-! ### Applying moves exactly (R227, R251, R255) -/

def flipsOf (ms : List Cand) : List Nat := ms.filterMap (fun m => match m with | .flip v => some v | _ => none)

/-- The change of g that flips make: CODE times the change of the peer's spin. -/
def fieldChange (x : AnlVars) (nbs : List (Nat × List (Nat × Int))) (v : Nat) : Int :=
  isum (nbs.flatMap (fun l => (l.2.filter (fun e => e.1 == v)).map (fun e => e.2 * (-2 * x.spin l.1))))

/-- The change of D_c that moves make. -/
def rowChange (e : StepEnv) (x : AnlVars) (vs : List Nat) (c : Nat) : Int :=
  isum (vs.flatMap (fun v => ((e.members v).filter (fun k => k.1 == c)).map (fun k => k.2 * -x.spin v)))

def slackChange (ms : List Cand) (c : Nat) : Int :=
  isum (ms.map (fun m => match m with | .slack c2 up => if c2 = c then slackDelta up else 0 | _ => 0))

/-- The state after the moves: every term of R251 is exact. `nbs` holds the lists of the flipped variables. -/
def applyMoves (e : StepEnv) (x : AnlVars) (nbs : List (Nat × List (Nat × Int))) (ms : List Cand) : AnlVars :=
  let vs := flipsOf ms
  let dg := (List.range e.p.n).map (fieldChange x nbs)
  let dr := (List.range e.p.nc).map (rowChange e x vs)
  let dsig := (List.range e.p.nc).map (slackChange ms)
  let dE :=
    isum (vs.map (fun v => 2 * x.spin v * fieldTerm e.p x v)) + e.p.jscale * isum (vs.map (fun v => x.spin v * nth 0 dg v)) +
    isum ((List.range e.p.nc).map (fun c =>
      let d := conD e.p x c
      (e.p.con c).lambda * ((d + nth 0 dr c + nth 0 dsig c) ^ 2 - d ^ 2)))
  { spins := x.spins.mapIdx (fun v b => if vs.contains v then !b else b)
    g := x.g.mapIdx (fun v g => g + nth 0 dg v)
    r := x.r.mapIdx (fun c r => r + nth 0 dr c)
    sigma := x.sigma.mapIdx (fun c (sg : Nat) => ((sg : Int) + nth 0 dsig c).toNat)
    energy := x.energy + dE }

/-! ### Frost (R265) -/

/-- The candidate with the most negative change, the earlier of equal ones. -/
def frostPick (e : StepEnv) (x : AnlVars) (ms : List Cand) : Option Cand :=
  leastBy (fun m => (candDelta e x m + 2 ^ 64).toNat) (ms.filter (fun m => candAllowed e x m && decide (candDelta e x m < 0)))

/-! ### What a step chooses -/

structure Choice where
  moves : List Cand
  withdrawn : Nat
  stale : List Cand
  null : Bool
  residence : Nat
  quiet : Bool
  deriving DecidableEq, Repr

/-- Weights of a selecting set at temperature t. -/
def weighted (e : StepEnv) (x : AnlVars) (t : Nat) (ms : List Cand) : List (Cand × Nat) :=
  ms.map (fun m => (m, candWeight e x t m))

/-- The proposals of the regions, in region order; `draws` gives each lead core's u (R246, R265). -/
def proposals (e : StepEnv) (x : AnlVars) (t : Nat) (frost : Bool) (phase : Option Nat) (draws : Nat → Nat) : List Cand :=
  (List.range e.img.regions.regions).filterMap (fun r =>
    let ms := regionCands e r
    if frost then frostPick e x ms
    else drawCand (weighted e x t (match phase with | none => ms | some k => ms.filter (inPhase e k)))
           (draws (posCore e.o (leadPos e r))))

/-- Select and Check under each policy (R244 to R252, R265). -/
def choose (e : StepEnv) (x : AnlVars) (policy t : Nat) (frost : Bool) (phase : Option Nat) (draws : Nat → Nat)
    (near : Nat → List Nat) : Choice :=
  let all := candidates e
  let quiet := (frostPick e x all).isNone
  if policy = 0 then
    let ws := weighted e x t all
    let sum := weightSum ws
    let m := if frost then frostPick e x all else drawCand ws (draws (posCore e.o 0))
    { moves := m.toList, withdrawn := 0, stale := [], null := !frost && sum == 0
      residence := if frost || sum == 0 then 0 else rneDiv (all.length * 2 ^ 40) sum, quiet := quiet }
  else
    let ps := proposals e x t frost phase draws
    if policy = 1 ∨ frost then
      let ms := unwithdrawn e near [] ps
      { moves := ms, withdrawn := ps.length - ms.length, stale := [], null := false, residence := 0, quiet := quiet }
    else { moves := ps, withdrawn := 0, stale := staleMoves e near ps, null := false, residence := 0, quiet := quiet }

/-- Cores whose annealer clients draw in a step outside Frost (R267). -/
def drawingCores (o : Geo) (img : PartImage) (policy : Nat) : List Nat :=
  if policy = 0 then [posCore o 0]
  else
    let e : StepEnv :=
      { o := o, img := img, clamp := [], nOwn := 0, mem := []
        p := { dense := false, qubo := false, int4 := false, n := 0, nc := 0, jscale := 0, tag := 0#64, base := 0, bytes := 0,
               e0 := 0, offset := 0, bound := 0, spins0 := [], sigma0 := [], degrees := [], members := [], lin := [],
               constrs := [] } }
    (List.range img.regions.regions).map (fun r => posCore o (leadPos e r))

/-! ### Step beats (R27, R270) -/

/-- DIE_LAT from a core to a die (R27). -/
def dieLat (g : Grade) (c d : Nat) : Nat :=
  let d0 := coreDie g c
  if d0 = d then 0
  else
    (2 * (coreRow g c : Int) - 7).natAbs + 24 * ((d0 / 4 : Nat) - (d / 4 : Nat) : Int).natAbs
      + 18 * ((d0 % 4 : Nat) - (d % 4 : Nat) : Int).natAbs

def maxOf (l : List Nat) : Nat := l.foldl max 0

/-- The largest DIE_LAT from one of `a` to a core of `b`. -/
def maxLat (g : Grade) (a b : List Nat) : Nat := maxOf (a.flatMap (fun x => (b.map (coreDie g)).eraseDups.map (dieLat g x)))

def partCoreList (o : Geo) : List Nat := (List.range (posCount o)).map (posCore o)

def beatsEV (e : StepEnv) : Nat :=
  let sc := maxOf ((List.range (posCount e.o)).map (fun q =>
    (ownedAt e.o e.p.n q).length + 2 * ((homedAt e.o e.p.nc q).filter (offersSlack e.p)).length))
  4 + (sc + 255) / 256

def beatsH (o : Geo) : Nat :=
  2 + 2 * ceilLog2 (o.dieRowCores * o.dieColCores) + 4 * (o.dieRows / 2) + 3 * (o.dieCols / 2)

def beatsSel (e : StepEnv) : Nat :=
  let rs := (List.range e.img.regions.regions).map (fun r => (regionPositions e r).map (posCore e.o))
  let xr := maxOf (rs.map (fun l => maxLat e.o.grade l l))
  2 * (2 + 2 * ceilLog2 (maxOf (rs.map List.length)) + xr) + 4

def beatsXP (o : Geo) : Nat := 8 + maxLat o.grade (partCoreList o) (partCoreList o)

/-- DG: the longest list moved, 16 entries a beat, or a dense row (R270). -/
def beatsDG (e : StepEnv) (vs : List Nat) : Nat :=
  if vs.isEmpty then 0
  else if e.p.dense then maxOf ((List.range e.o.dieCols).map (fun dc => (denseRS e.o e.p.n e.p.bits dc + 4095) / 4096))
  else maxOf (vs.map (fun v => (e.p.degree v + 15) / 16))

def ownerCore (e : StepEnv) (v : Nat) : Nat := posCore e.o (ownerPos e.o v)
def homeCore (e : StepEnv) (c : Nat) : Nat := posCore e.o (c % posCount e.o)
/-- Cores that mirror constraint c (R222). -/
def mirrorCores (e : StepEnv) (c : Nat) : List Nat :=
  (((List.range e.p.n).filter (fun v => (e.members v).any (fun k => k.1 == c))).map (ownerCore e)).eraseDups

/-- XN: 8 and the largest DIE_LAT from a mover to a core that its adds, homes or mirrors reach. -/
def beatsXN (e : StepEnv) (near : Nat → List Nat) (ms : List Cand) : Nat :=
  8 + maxOf (ms.map (fun m =>
    match m with
    | .flip v =>
      let cs := (e.members v).map Prod.fst
      maxLat e.o.grade [ownerCore e v] ((near v).map (ownerCore e) ++ cs.map (homeCore e) ++ cs.flatMap (mirrorCores e))
    | .slack c _ => maxLat e.o.grade [homeCore e c] (mirrorCores e c)))

def touchesCon (e : StepEnv) (ms : List Cand) : Bool :=
  ms.any (fun m => match m with | .flip v => !(e.members v).isEmpty | .slack _ _ => true)

/-- UPD: the field-update passes of R254. -/
def beatsUPD (e : StepEnv) (vs : List Nat) : Nat :=
  let o := e.o
  let blocks := (e.p.n + 64 * o.cols - 1) / (64 * o.cols)
  let per := 64 * o.dieRowCores * (if e.p.int4 then 2 else 1)
  let fr := maxOf ((List.range o.dieRows).map (fun dr => (vs.filter (fun v => posDieRow o (ownerPos o v) == dr)).length))
  let passes := blocks * ((fr + per - 1) / per)
  8 + 6 + fillBeats o + columnBeats o true false + dieTreeBeats o e.img.tree.order + 4 + 8 + 16 * (passes - 1)

/-- The nominal work beats of a step. -/
def stepBeats (e : StepEnv) (policy : Nat) (frost : Bool) (near : Nat → List Nat) (ms : List Cand) : Nat :=
  let vs := flipsOf ms
  let h := beatsH e.o
  let xn := beatsXN e near ms
  let cons := if touchesCon e ms then 4 + 2 * xn else 0
  let array := e.p.dense && 2 ≤ vs.length
  let apply := if array then beatsUPD e vs + cons else 8 + beatsDG e vs + 2 * xn + cons
  let sync := if array then 0 else 2 * h
  if policy = 0 then beatsEV e + (2 * h + 4) + (8 + beatsDG e vs + beatsXP e.o)
  else if policy = 1 ∨ frost then
    beatsEV e + beatsSel e + (2 * h + (e.img.regions.regions + 63) / 64) + (4 + beatsDG e vs) + apply + sync
  else beatsEV e + beatsSel e + apply + sync

/-! ### Temperature curves (R260 to R264) -/

def cFld (c : Curve) (lo hi : Nat) : Nat := ofLe ((c.bytes.drop lo).take (hi + 1 - lo))
def Curve.kind (c : Curve) : Nat := cFld c 0 0
def Curve.origin (c : Curve) : Nat := cFld c 1 1
def Curve.endAction (c : Curve) : Nat := cFld c 2 2
def Curve.points (c : Curve) : Nat := cFld c 4 7
def Curve.t0 (c : Curve) : Nat := cFld c 8 11
def Curve.t1 (c : Curve) : Nat := cFld c 12 15
def Curve.ratio (c : Curve) : Nat := cFld c 16 19
def Curve.every (c : Curve) : Nat := cFld c 20 23
def Curve.len (c : Curve) : Nat := cFld c 24 31
def Curve.stepAt (c : Curve) (i : Nat) : Nat := cFld c (64 + 8 * i) (67 + 8 * i)
def Curve.tempAt (c : Curve) (i : Nat) : Nat := cFld c (68 + 8 * i) (71 + 8 * i)

/-- Bytes of a record by its head. -/
def curveBytes (c : Curve) : Nat := if c.kind = 3 then 64 + 8 * c.points else 64

/-- The last index of the span; none where it has no end. -/
def Curve.last (c : Curve) : Option Nat :=
  match c.kind with
  | 1 => some c.len
  | 3 => some (c.stepAt (c.points - 1))
  | _ => if c.len = 0 then none else some c.len

/-- n factors of a GEOMETRIC curve. -/
def coolBy (t1 ratio : Nat) : Nat → Nat → Nat
  | 0, g => g
  | n + 1, g => coolBy t1 ratio n (max t1 (rneDiv (g * ratio) (2 ^ 32)))

/-- lg of R262. -/
def curveLg (t : Nat) : Int :=
  let b := t.log2
  let frac := if b ≤ 23 then (t - 2 ^ b) * 2 ^ (23 - b) else (t - 2 ^ b) / 2 ^ (b - 23)
  ((b : Int) - 16) * 2 ^ 30 + interpolate tableL frac 23

/-- T of a TABLE curve at an index of its span (R262). -/
def tableTemp (c : Curve) (k : Nat) : Nat :=
  match (List.range c.points).find? (fun i => c.stepAt i == k) with
  | some i => c.tempAt i
  | none =>
    let i := ((List.range c.points).filter (fun i => c.stepAt i < k)).length - 1
    let a := curveLg (c.tempAt i)
    let d := curveLg (c.tempAt (i + 1)) - a
    let w := c.stepAt (i + 1) - c.stepAt i
    let l := a + rneInt (decide (d < 0)) (d.natAbs * (k - c.stepAt i)) w 0
    let n2 := l / (2 ^ 30 : Int)
    let f := (l - n2 * (2 ^ 30 : Int)).toNat
    let v := (interpolate tableE f 30).toNat
    (clampInt 1 0xFFFFFFFF (rneInt false v 1 (n2 - 14))).toNat

/-- T(k) within the span, with the G that a GEOMETRIC curve keeps (R261). -/
def curveTemp (c : Curve) (k : Nat) : Nat × Curve :=
  match c.kind with
  | 1 =>
    let d := (c.t1 : Int) - c.t0
    ((clampInt 0 0xFFFFFFFF (c.t0 + rneInt (decide (d < 0)) (d.natAbs * k) c.len 0)).toNat, c)
  | 2 =>
    let i := k / c.every
    let g := if c.gIndex ≤ i then coolBy c.t1 c.ratio (i - c.gIndex) c.gValue else coolBy c.t1 c.ratio i c.t0
    let t := min g 0xFFFFFFFF
    (t, { c with gIndex := i, gValue := g })
  | 3 => (tableTemp c k, c)
  | _ => (c.t0, c)

/-- The curve index of step n (R260). -/
def Curve.index (c : Curve) (n : Nat) : Nat := if c.origin = 0 then n else n - c.n0

/-- Index n lies beyond the span (R263). -/
def beyondSpan (c : Curve) (k : Nat) : Bool := match c.last with | none => false | some l => decide (l < k)

/-- The code of the first check that a record fails, 0 when it passes (R264). -/
def curveCheck (s : State) (a : Nat) : Nat :=
  if a = 0 ∨ a % 64 ≠ 0 ∨ !rangeAllowed s .localOnly a 64 then 1
  else
    let head := rmBytes s a 64
    let c : Curve := { bytes := dataOf head, addr := a, n0 := 0, gIndex := 0, gValue := 0 }
    let n := if c.kind = 3 ∧ c.points ≤ 1024 then 64 + 8 * c.points else 64
    if !rangeAllowed s .localOnly a n then 1
    else
      let all := rmBytes s a n
      let c : Curve := { c with bytes := dataOf all }
      if anyPoison all then 4
      else if 3 < c.kind ∨ 1 < c.origin ∨ 2 < c.endAction ∨ cFld c 3 3 ≠ 0 ∨ cFld c 32 63 ≠ 0 then 2
      else
        let fieldsOk :=
          match c.kind with
          | 0 => c.points == 0
          | 1 => c.points == 0 && 1 ≤ c.len
          | 2 => c.points == 0 && 1 ≤ c.ratio && 1 ≤ c.every
          | _ => 2 ≤ c.points && c.points ≤ 1024 && c.len == 0 && c.stepAt 0 == 0 &&
                 (List.range (c.points - 1)).all (fun i => c.stepAt i < c.stepAt (i + 1)) &&
                 (List.range c.points).all (fun i => 1 ≤ c.tempAt i)
        if fieldsOk then 0 else 3

/-- The curve of a record that passed its checks; its first step is n. -/
def readCurve (s : State) (a n : Nat) : Curve :=
  let c : Curve := { bytes := dataOf (rmBytes s a 64), addr := a, n0 := n, gIndex := 0, gValue := 0 }
  let c : Curve := { c with bytes := dataOf (rmBytes s a (curveBytes c)) }
  { c with gValue := c.t0 }

/-- The checked reads of a curve record: its head, then by the head its points (R260, R264). -/
def curveTouch (s : State) (a : Nat) : Bool × State :=
  if !rangeAllowed s .localOnly a 64 then (false, s)
  else
    let r0 := localTouch s ownRemote a 64
    let c : Curve := { bytes := dataOf (rmBytes r0.2 a 64), addr := a, n0 := 0, gIndex := 0, gValue := 0 }
    if c.kind = 3 ∧ 1 ≤ c.points ∧ c.points ≤ 1024 ∧ rangeAllowed s .localOnly a (curveBytes c) then
      let r1 := localTouch r0.2 ownRemote (a + 64) (8 * c.points)
      (r0.1 || r1.1, r1.2)
    else r0

/-- Beats of a curve read at a boundary (R259), with the factors that a GEOMETRIC record repeats at k > 0 (R261). -/
def curveReadBeats (s : State) (c : Curve) (n : Nat) : Nat :=
  let lines := (curveBytes c + 63) / 64
  (if isHbm s c.addr then latBeats s else 48) + lines
    + (if c.kind = 2 ∧ c.origin = 0 ∧ 0 < n then n / c.every else 0)

end Sys2Proof.Machine
end

