-- ==== Sys2Proof/Machine/AnnealRun.lean ====
section
/-!
DEFINITION. Sys2Proof/Machine/AnnealRun.lean: annealing runs: the run descriptor (R275), records and images (R285 to R291,
R304), boundaries and ends (R279 to R284), and runs over several modules (R294 to R303).
-/
namespace Sys2Proof.Machine

/-! ### The run descriptor (R275) -/

structure RunDesc where
  typ : Nat
  policy : Nat
  init : Nat
  flags : Nat
  traceEvery : Nat
  stepLimit : Nat
  curveAddr : Nat
  traceAddr : Nat
  traceBytes : Nat
  bestAddr : Nat
  finalAddr : Nat
  summaryAddr : Nat
  stateAddr : Nat
  clampAddr : Nat
  target : Int
  runId : Nat
  splitAddr : Nat
  sampleAddr : Nat
  sampleEvery : Nat
  sampleCount : Nat
  seedAddr : Nat
  deriving DecidableEq, Repr

def runDesc (d : Nat) : RunDesc where
  typ := byteFld d 0 0
  policy := byteFld d 1 1
  init := byteFld d 2 2
  flags := byteFld d 3 3
  traceEvery := byteFld d 4 7
  stepLimit := byteFld d 8 15
  curveAddr := byteFld d 16 23
  traceAddr := byteFld d 24 31
  traceBytes := byteFld d 32 39
  bestAddr := byteFld d 40 47
  finalAddr := byteFld d 48 55
  summaryAddr := byteFld d 56 63
  stateAddr := byteFld d 64 71
  clampAddr := byteFld d 72 79
  target := signedOf 64 (byteFld d 80 87)
  runId := byteFld d 88 95
  splitAddr := byteFld d 96 103
  sampleAddr := byteFld d 104 111
  sampleEvery := byteFld d 112 115
  sampleCount := byteFld d 116 119
  seedAddr := byteFld d 120 127

def RunDesc.best (d : RunDesc) : Bool := bitOf d.flags 0
def RunDesc.feasible (d : RunDesc) : Bool := bitOf d.flags 1
def RunDesc.final (d : RunDesc) : Bool := bitOf d.flags 2
def RunDesc.wrap (d : RunDesc) : Bool := bitOf d.flags 3
def RunDesc.hasTarget (d : RunDesc) : Bool := bitOf d.flags 4
def RunDesc.clamp (d : RunDesc) : Bool := bitOf d.flags 5

def AnlRun.d (r : AnlRun) : RunDesc := runDesc r.desc.toNat

/-! ### Images (R290) -/

def spinPart (n : Nat) : Nat := 64 * ((n + 511) / 512)
def imageSize (n nc : Nat) : Nat := (spinPart n + 4 * nc + 63) / 64 * 64

def spinBytesOf (n : Nat) (spins : List Bool) : List Byte :=
  (List.range (spinPart n)).map (fun i =>
    BitVec.ofNat 8 (sumOver (fun j => if nth false spins (8 * i + j) && 8 * i + j < n then 2 ^ j else 0) (List.range 8)))

def imageBytes (p : AnlProb) (spins : List Bool) (sigma : List Nat) : List Byte :=
  let b := spinBytesOf p.n spins ++ (List.range p.nc).flatMap (fun c => leBytes 4 (nth 0 sigma c))
  b ++ List.replicate (imageSize p.n p.nc - b.length) 0#8

def spinsOfBytes (n : Nat) (bs : List Byte) : List Bool :=
  (List.range n).map (fun v => bitOf (nth 0#8 bs (v / 8)).toNat (v % 8))
def sigmaOfBytes (n nc : Nat) (bs : List Byte) : List Nat :=
  (List.range nc).map (fun c => ofLe ((bs.drop (spinPart n + 4 * c)).take 4))

/-! ### Writes of a run -/

/-- A write of the run of slot k, of which `signed` enters the March signature (R483); a refused one makes its status
PARTIAL (R229, R367). -/
def anlPutAs (s : State) (k a : Nat) (bs signed : List Byte) : State :=
  let s0 := if (partOf s (slotPart s k)).holder = some k then marchPut s (slotPart s k) a (clean signed) else s
  let w := opWrite s0 (some k) ownRemote a (clean bs)
  if w.1 then flagSlot w.2 k stPartial else w.2

def anlPut (s : State) (k a : Nat) (bs : List Byte) : State := anlPutAs s k a bs bs

/-- A trace record: bytes 8 to 15 and 36 to 39 enter the signature as zero. -/
def tracePut (s : State) (k a : Nat) (bs : List Byte) : State := anlPutAs s k a bs (zeroBytes [(8, 15), (36, 39)] bs)

/-- A summary: bytes 4 to 7 and 48 to 55 enter the signature as zero. -/
def summaryPut (s : State) (k a : Nat) (bs : List Byte) : State := anlPutAs s k a bs (zeroBytes [(4, 7), (48, 55)] bs)

/-! ### Split runs (R294 to R298) -/

def splitOf (bs : List Byte) : Split where
  modules := ofLe (bs.take 1)
  leader := ofLe ((bs.drop 2).take 1)
  epoch := ofLe ((bs.drop 3).take 1) == 1
  epochSteps := ofLe ((bs.drop 4).take 4)
  nOwn := ofLe ((bs.drop 8).take 4)
  beats := ofLe ((bs.drop 20).take 2)
  timeoutUs := ofLe ((bs.drop 22).take 2)
  key := BitVec.ofNat 64 (ofLe ((bs.drop 24).take 8))
  domainTrace := ofLe ((bs.drop 32).take 8)
  ghosts := (List.range (ofLe ((bs.drop 12).take 4))).map (fun i =>
    let w := ofLe ((bs.drop (64 + 8 * i)).take 8)
    (fld w 24 0, fld w 37 32))
  exports := (List.range (ofLe ((bs.drop 16).take 4))).map (fun i =>
    let w := ofLe ((bs.drop (64 + 8 * ofLe ((bs.drop 12).take 4) + 8 * i)).take 8)
    (fld w 24 0, fld w 37 32, fld w 63 40))

/-- Bytes of a split table, by its head. -/
def splitBytes (s : State) (a : Nat) : Nat := 64 + 8 * inWord s (a + 12) 4 + 8 * inWord s (a + 16) 4

def AnlRun.nOwn (r : AnlRun) (p : AnlProb) : Nat := match r.split with | none => p.n | some x => x.table.nOwn

/-- The modules that a run exchanges with (R296). -/
def peersOf (me : Nat) (t : Split) : List Nat :=
  ((t.ghosts.map Prod.snd ++ t.exports.map (fun e => e.2.1) ++ [t.leader]).filter (· != me)).eraseDups

/-- E_local: ghosts' LIN taken as zero (R295, R298). -/
def localEnergy (p : AnlProb) (x : AnlVars) (nOwn : Nat) : Int :=
  x.energy + isum ((rangeFrom nOwn (p.n - 1)).map (fun v => nth 0 p.lin v * x.spin v))

/-- X_m: a ghost's field holds its cross pairs. -/
def crossEnergy (p : AnlProb) (x : AnlVars) (nOwn : Nat) : Int :=
  -(p.jscale * isum ((rangeFrom nOwn (p.n - 1)).map (fun v => x.spin v * x.field v)))

def doubledShare (p : AnlProb) (x : AnlVars) (nOwn : Nat) : Int := 2 * localEnergy p x nOwn - crossEnergy p x nOwn

/-- The energy that a module reports: E, or its doubled share in a split run. -/
def reportE (p : AnlProb) (x : AnlVars) (r : AnlRun) : Int :=
  match r.split with
  | none => x.energy
  | some t => doubledShare p x t.table.nOwn

def violatedCount (p : AnlProb) (x : AnlVars) : Nat :=
  ((List.range p.nc).filter (fun c => (p.con c).lambda != 0 && conD p x c != 0)).length

/-! ### Context of a run -/

/-- The image, problem and run of partition n. -/
def runCtx (s : State) (n : Nat) : Option (PartImage × AnlProb × AnlRun) :=
  match partImg s n, (anlOf s n).prob, (anlOf s n).run with
  | some i, some p, some r => some (i, p, r)
  | _, _, _ => none

def setRun (s : State) (n : Nat) (r : AnlRun) : State := setAnl s n { anlOf s n with run := some r }

/-- The step environment, its memberships read from the stores, and whether they hold poison. -/
def stepEnv (s : State) (img : PartImage) (p : AnlProb) (r : AnlRun) : StepEnv × Bool :=
  let o := geoOf s.fuse.grade img.shape
  let m := (List.range p.n).map (storedMembers s o p)
  ({ o := o, img := img, p := p, clamp := r.clamp, nOwn := r.nOwn p, mem := m.map Prod.fst }, m.any Prod.snd)

def leads (s : State) (r : AnlRun) : Bool := match r.split with | none => false | some t => t.table.leader == moduleId s

/-! ### Records (R285, R287) -/

def traceBytes (s : State) (a : AnlSt) (p : AnlProb) (r : AnlRun) (energy : Int) (last domain wrapped : Bool) : List Byte :=
  let c := r.counts
  let sat := fun (x : Nat) => satTo 32 x
  leBytes 8 r.steps ++ leBytes 8 s.time.count.toNat ++ leBytes 8 (wrapTo 64 energy) ++ leBytes 8 a.residence
    ++ leBytes 4 a.temp ++ leBytes 4 s.time.boots.toNat ++ leBytes 4 (sat c.accepted) ++ leBytes 4 (sat c.withdrawn)
    ++ leBytes 4 (sat c.stale) ++ leBytes 4 (sat (if r.split.isSome then c.ghosts else c.nulls))
    ++ leBytes 4 (violatedCount p a.vars) ++ leBytes 1 a.phase
    ++ leBytes 1 (boolBit c.newBest + 2 * boolBit last + 4 * boolBit (r.split.isSome && !domain) + 8 * boolBit domain
         + 16 * boolBit wrapped) ++ leBytes 2 0

def counts0 : TraceCounts := { accepted := 0, withdrawn := 0, stale := 0, nulls := 0, ghosts := 0, newBest := false }

/-- A record or sample is lost (R288). -/
def loseRecord (s : State) (n : Nat) (r : AnlRun) : State :=
  setAnl s n { anlOf s n with run := some { r with lost := r.lost + 1 }, traceLost := satTo 16 ((anlOf s n).traceLost + 1) }

/-- Where trace record i goes (R288): none when the buffer is full. The last slot is kept for LAST. -/
def traceSlot (d : RunDesc) (i : Nat) (last : Bool) : Option Nat :=
  let m := d.traceBytes / 64
  if d.wrap then some (i % m) else if i + 1 < m then some i else if last && i < m then some (m - 1) else none

/-- Byte 61 of a record with LAST set. -/
def setLast (b : List Byte) : List Byte := b.mapIdx (fun j x => if j = 61 then x ||| 2#8 else x)

/-- The leader's domain record at the same place of its own buffer (R296, R300). -/
def domainRecord (s : State) (n : Nat) (p : AnlProb) (r : AnlRun) (i : Nat) (last : Bool) : State :=
  match r.split with
  | none => s
  | some t =>
    if leads s r && t.table.domainTrace != 0 then
      match traceSlot r.d i last with
      | none => loseRecord s n r
      | some j =>
        let b := traceBytes s (anlOf s n) p r t.domainE last true (r.d.wrap && r.d.traceBytes / 64 ≤ i)
        let s1 := tracePut s r.slot (t.table.domainTrace + 64 * j) b
        setRun s1 n { r with split := some { t with lastDomain := b, domainRecords := t.domainRecords + 1 } }
    else s

/-- The trace record of this boundary. A record that is lost leaves the counts for the next one (R287). -/
def writeTrace (s : State) (n : Nat) (p : AnlProb) (r : AnlRun) (last : Bool) : State :=
  let i := r.records
  match traceSlot r.d i last with
  | none =>
    let s1 := loseRecord s n r
    domainRecord s1 n p (((anlOf s1 n).run).getD r) i last
  | some j =>
    let b := traceBytes s (anlOf s n) p r (reportE p (anlOf s n).vars r) last false (r.d.wrap && r.d.traceBytes / 64 ≤ i)
    let s1 := domainRecord (tracePut s r.slot (r.d.traceAddr + 64 * j) b) n p r i last
    let r1 := ((anlOf s1 n).run).getD r
    setRun s1 n { r1 with records := i + 1, counts := counts0, lastRecord := some (r.steps, b) }

/-- The end at this boundary writes a record of its own: none was written here yet (R286). -/
def lastIsNew (r : AnlRun) : Bool :=
  r.d.traceEvery != 0 && (match r.lastRecord with | some (k, _) => k != r.steps | none => true)

/-- The record of the run's end: LAST is set in this boundary's record, and the leader's domain record, when there is
one already (R286, R300). -/
def writeLast (s : State) (n : Nat) (p : AnlProb) (r : AnlRun) : State :=
  if r.d.traceEvery = 0 then s
  else if lastIsNew r then writeTrace s n p r true
  else
    match r.lastRecord with
    | none => s
    | some (_, b) =>
      let i := r.records - 1
      let m := r.d.traceBytes / 64
      let at_ := 64 * (if r.d.wrap then i % m else min i (m - 1))
      let s1 := tracePut s r.slot (r.d.traceAddr + at_) (setLast b)
      match r.split with
      | none => s1
      | some t =>
        if leads s r && t.table.domainTrace != 0 then tracePut s1 r.slot (t.table.domainTrace + at_) (setLast t.lastDomain) else s1

/-- The run's figures as an end at this boundary leaves them: its LAST record counted (R280, R284). -/
def atEnd (r : AnlRun) : AnlRun :=
  if lastIsNew r then
    if (traceSlot r.d r.records true).isSome then { r with records := r.records + 1 } else { r with lost := r.lost + 1 }
  else r

/-- The best state image. The best plane of a split run holds no ghost (R295): what the image shows for one is not
stated, a free value. -/
def bestImage (s : State) (p : AnlProb) (r : AnlRun) : List Byte × State :=
  let g := p.n - r.nOwn p
  if g = 0 then (imageBytes p r.bestSpins r.bestSigma, s)
  else
    let f := takeFree s g
    (imageBytes p (r.bestSpins.take (r.nOwn p) ++ (List.range g).map (bitOf f.1)) r.bestSigma, f.2)

def bestOrNone (e : Option Int) : Int := e.getD (2 ^ 63 - 1)

def summaryBytes (s : State) (n reason : Nat) (p : AnlProb) (r : AnlRun) : List Byte :=
  let a := anlOf s n
  let lead := leads s r
  let flags := if r.split.isSome then (if lead then 2 else 1) else 0
  let fin := match r.split with | some t => if lead then t.domainE else reportE p a.vars r | none => a.vars.energy
  leBytes 1 reason ++ leBytes 1 a.phase ++ leBytes 1 flags ++ leBytes 1 0 ++ leBytes 4 s.time.boots.toNat
    ++ leBytes 8 r.steps ++ leBytes 8 (wrapTo 64 fin) ++ leBytes 8 (wrapTo 64 (bestOrNone r.bestE)) ++ leBytes 8 r.bestStep
    ++ leBytes 8 a.residence ++ leBytes 8 s.time.count.toNat ++ leBytes 4 (satTo 32 r.records) ++ leBytes 4 (satTo 32 r.lost)

/-! ### The end of a run (R281, R283, R284) -/

def steerSlot (x : Steer) : Nat := match x with | .pause k => k | .resume k => k | .frost k => k | .read k => k

/-- Steering commands that still wait complete with ABANDONED (R281). -/
def abandonSteer (s : State) (xs : List Steer) : State :=
  xs.foldl (fun s x => completeAs s (steerSlot x) stAbandoned 0) s

def endStatus (reason lost : Nat) : Nat :=
  match reason with
  | 1 | 5 => stPartial
  | 2 => stPoison
  | 3 => stNoEntropy
  | 4 => stLinkDown
  | _ => if lost = 0 then stOk else stPartial

/-- The registers after a run. -/
def closeRun (s : State) (n reason : Nat) (r : AnlRun) : State :=
  setAnl s n { anlOf s n with run := none, last := some { r with steer := [] }, lastEnd := reason, temp := 0, phase := 0, colourPhase := 0 }

/-- The run of partition n ends for a reason at a boundary, with the writes of R284; `status` is its completion. -/
def endRunAs (s : State) (n reason status : Nat) : State :=
  match runCtx s n with
  | none => s
  | some (_, p, r) =>
    let s1 := writeLast s n p r
    let r1 := ((anlOf s1 n).run).getD r
    let x := (anlOf s1 n).vars
    let b := bestImage s1 p r1
    let s2 := if r1.d.best ∧ r1.bestE.isSome then anlPut b.2 r1.slot r1.d.bestAddr b.1 else s1
    let s3 := if r1.d.final then anlPut s2 r1.slot r1.d.finalAddr (imageBytes p x.spins x.sigma) else s2
    let s4 := summaryPut s3 r1.slot r1.d.summaryAddr (summaryBytes s3 n reason p r1)
    let s5 := abandonSteer (closeRun s4 n reason r1) r1.steer
    completeOp s5 r1.slot defaultOrder status (put reason 7 0 + put r1.steps 55 8) r1.workBeats

def endRun (s : State) (n reason : Nat) : State :=
  match runCtx s n with
  | none => s
  | some (_, _, r) => endRunAs s n reason (endStatus reason (atEnd r).lost)

/-- A reset or a hang ends the run: nothing further is written (R283, R362). -/
def dropRun (s : State) (n status : Nat) : State :=
  match (anlOf s n).run with
  | none => s
  | some r =>
    let s1 := abandonSteer (closeRun s n 1 r) r.steer
    completeOp s1 r.slot defaultOrder status (put 1 7 0 + put r.steps 55 8) r.workBeats

/-! ### Boundaries (R236, R259, R263, R279 to R284, R291) -/

/-- What the next step would be. -/
inductive NextStep where
  | curve (t : Nat) (hold : Bool) (c : Curve)
  | frost
  | stop
  deriving DecidableEq, Repr

def isFrostCmd (x : Steer) : Bool := match x with | .frost _ => true | _ => false
def isPauseCmd (x : Steer) : Bool := match x with | .pause _ => true | _ => false
def isResumeCmd (x : Steer) : Bool := match x with | .resume _ => true | _ => false

/-- Frost begins with the next step: by a decision of the leader in a split run, else by a waiting ANL_FROST. -/
def frostBegins (r : AnlRun) : Bool := r.frostNext || (r.split.isNone && r.steer.any isFrostCmd)

def nextStep (r : AnlRun) : NextStep :=
  if r.frost || frostBegins r then .frost
  else
    let k := r.curve.index r.steps
    if beyondSpan r.curve k then
      match r.curve.endAction with
      | 1 => .frost
      | 2 => .stop
      | _ => let t := curveTemp r.curve (r.curve.last.getD 0); .curve t.1 true t.2
    else let t := curveTemp r.curve k; .curve t.1 false t.2

/-- A curve record written to ANL_CURVE_n is read at the boundary (R259, R264). -/
def curveChange (s : State) (n : Nat) (r : AnlRun) : State :=
  if !r.newCurve then s
  else
    let a := regActive s (0x00430030 + 0x100 * n) 0 % 2 ^ 48
    let s0 := (curveTouch s a).2
    let code := curveCheck s0 a
    if code = 0 then
      let c := readCurve s0 a r.steps
      setRun s0 n { r with curve := c, newCurve := false, workBeats := r.workBeats + curveReadBeats s0 c r.steps }
    else
      let x := anlOf s0 n
      let s1 := if code = 4 then noteConsumed s0 1 else s0
      setAnl s1 n { x with run := some { r with newCurve := false }, curveRejected := satTo 16 (x.curveRejected + 1),
                           lastCurveFail := code }

/-- The highest slot in use on the busiest core, plus 1 (R291). -/
def slotsInUse (o : Geo) (n : Nat) : Nat := maxOf ((List.range n).map (fun v => varSlot o v + 1))

/-- The state is judged against the best so far (R291); a split run takes its best from the leader (R299). -/
def judgeBest (s : State) (n : Nat) (img : PartImage) (p : AnlProb) (r : AnlRun) : State :=
  let a := anlOf s n
  let e := a.vars.energy
  let better := match r.bestE with | none => true | some b => decide (e < b)
  if r.split.isSome || !r.d.best || (r.d.feasible && violatedCount p a.vars != 0) || !better then s
  else
    let o := geoOf s.fuse.grade img.shape
    setAnl s n { a with best := e, run := some { r with
      bestE := some e, bestStep := r.steps, bestSpins := a.vars.spins, bestSigma := a.vars.sigma
      counts := { r.counts with newBest := true }, workBeats := r.workBeats + (slotsInUse o p.n + 4095) / 4096 } }

/-- A commit drains partition n (R91). -/
def commitDrains (s : State) (n : Nat) : Bool :=
  match s.image.committing with
  | some c => c.drains.contains n
  | none => false

/-- The first end reason of R283 that arises at this boundary, 0 for none; `frostDone` is R266's. -/
def endReason (s : State) (n : Nat) (r : AnlRun) (frostDone : Bool) : Nat :=
  let e := (anlOf s n).vars.energy
  let codes :=
    (if r.ended ≠ 0 then [r.ended] else []) ++
    (if commitDrains s n then [5] else []) ++
    (if r.split.isNone && r.d.hasTarget && r.steps != 0 && decide (e ≤ r.d.target) then [6] else []) ++
    (if frostDone && r.split.isNone then [7] else []) ++
    (if nextStep r = .stop then [8] else []) ++
    (if r.d.stepLimit ≤ r.steps then [9] else [])
  (leastBy id codes).getD 0

/-- One sample, numbered by the samples so far (R304). -/
def writeSample (s : State) (n : Nat) (p : AnlProb) (r : AnlRun) : State :=
  if r.d.sampleAddr = 0 ∨ r.steps = 0 ∨ r.steps % r.d.sampleEvery ≠ 0 then s
  else if r.d.sampleCount ≤ r.samples then loseRecord s n r
  else
    let s1 := anlPut s r.slot (r.d.sampleAddr + r.samples * spinPart p.n) (spinBytesOf p.n (anlOf s n).vars.spins)
    setRun s1 n { r with samples := r.samples + 1 }

/-- The run that a read of an IDLE, RUNNING or PAUSED partition sees: an armed one has not started. -/
def seenRun (x : AnlSt) : Option AnlRun :=
  match x.run with
  | some r => if r.state = 0 then x.last else some (atEnd r)
  | none => x.last

/-- What a read of SOURCE src gives (R280), none where it has nothing to give. -/
def anlSource (s : State) (n src : Nat) : Option (List Byte × State) :=
  let x := anlOf s n
  match x.prob with
  | none => none
  | some p =>
    match src, seenRun x with
    | 0, _ => some (imageBytes p x.vars.spins x.vars.sigma, s)
    | 1, some r => if r.bestE.isSome then some (bestImage s p r) else none
    | 2, some r => some (summaryBytes s n 0 p r, s)
    | _, _ => none

/-- ANL_READ of slot k: what it writes and its end (R280). -/
def anlRead (s : State) (n k : Nat) (c : CmdWord) : State :=
  let a := cmdFld c 24 31
  match anlSource s n (cmdFld c 16 16) with
  | none => completeAs s k stFormat 0
  | some x =>
    if rangeAllowed s .store a x.1.length then completeAs (anlPut x.2 k a x.1) k stOk 0 else completeAs s k stFormat 0

/-- Reads that wait for the boundary act there. -/
def boundaryReads (s : State) (n : Nat) (r : AnlRun) : State :=
  let ks := r.steer.filterMap (fun x => match x with | .read k => some k | _ => none)
  let s0 := setRun s n { r with steer := r.steer.filter (fun x => match x with | .read _ => false | _ => true) }
  ks.foldl (fun s k => match (slotOf s k).cmd with | some c => anlRead s n k c.bits | none => s) s0

/-- PAUSE_NOTICE and END_NOTICE carry the run's key (R302, R428). -/
def sendNotice (s : State) (typ : Nat) (t : Split) : State :=
  (peersOf (moduleId s) t).foldl (fun s m => sendMgmt s m (mgmtFlit s typ m t.key.toNat)) s

/-- A core retirement quiesces partition n, which holds a core of its row (R510). -/
def quiesces (s : State) (n : Nat) : Bool :=
  match s.err.retire with
  | none => false
  | some x =>
    let g := s.fuse.grade
    (partCores s n).any (fun c => coreDie g c == coreDie g x.core && coreRow g c == coreRow g x.core)

/-- The run pauses, by command, by a halt or for a retirement. Its partition is free for other work (R282). -/
def pauseRun (s : State) (n : Nat) (r : AnlRun) : State :=
  let ks := (r.steer.filter isPauseCmd).map steerSlot
  let s1 := setRun s n { r with state := 2, steer := r.steer.filter (fun x => !isPauseCmd x) }
  let s2 := setPart s1 n { partOf s1 n with holder := none }
  let s3 := match r.split with | none => s2 | some t => sendNotice s2 0x26 t.table
  ks.foldl (fun s k => completeAs s k stOk 0) s3

/-- COLOUR_PHASE of step n (R257, R272). -/
def colourPhaseOf (s : State) (img : PartImage) (p : AnlProb) (r : AnlRun) : Option Nat :=
  if r.coloured ∧ !r.frost then some (r.steps % colourPhases (stepEnv s img p r).1) else none

/-- The next step begins (R272, R279): pending resumes and Frosts complete, and the temperature is fixed. -/
def startStep (s : State) (n : Nat) : State :=
  match runCtx s n with
  | none => s
  | some (_, _, r0) =>
    let s0 := curveChange s n r0
    match runCtx s0 n with
    | none => s0
    | some (img, p, r) =>
      let done := r.steer.filter (fun x => isResumeCmd x || (isFrostCmd x && frostBegins r))
      let finish_ := fun (s : State) => done.foldl (fun s x => completeAs s (steerSlot x) stOk 0) s
      let r1 := { r with steer := r.steer.filter (fun x => !done.contains x), state := 1, frostNext := false, drawn := [] }
      match nextStep r with
      | .stop => endRun (setRun s0 n { r with state := 1 }) n 8
      | .frost =>
        let a := anlOf s0 n
        finish_ (setAnl s0 n { a with run := some { r1 with frost := true, temp := 0, phase := 2 }, temp := 0, phase := 2, colourPhase := 0 })
      | .curve t hold c =>
        let r2 := { r1 with curve := c, temp := t, phase := if hold then 3 else 1 }
        let a := anlOf s0 n
        finish_ (setAnl s0 n { a with run := some r2, temp := t, phase := if hold then 3 else 1,
                                      colourPhase := (colourPhaseOf s0 img p r2).getD 0 })

/-- The step boundary: the state after `steps` steps is judged, recorded and sampled, and the run ends, pauses or goes
on (R279, R280, R283, R286, R291, R304). -/
def runBoundary (s : State) (n : Nat) (frostDone pause : Bool) : State :=
  match runCtx s n with
  | none => s
  | some (img, p, r) =>
    let s0 := noteProgress (setAnl s n { anlOf s n with steps := r.steps, energy := reportE p (anlOf s n).vars r }) r.slot
    let s1 := judgeBest s0 n img p r
    let s2 := curveChange s1 n (((anlOf s1 n).run).getD r)
    let r2 := ((anlOf s2 n).run).getD r
    let reason := endReason s2 n r2 frostDone
    let due := r2.d.traceEvery != 0 && r2.steps % r2.d.traceEvery == 0
    let s3 := if due && reason == 0 then writeTrace s2 n p r2 false else s2
    let s4 := writeSample s3 n p (((anlOf s3 n).run).getD r2)
    let s5 := boundaryReads s4 n (((anlOf s4 n).run).getD r2)
    let r5 := ((anlOf s5 n).run).getD r2
    if reason ≠ 0 then endRun s5 n reason
    else if pause || (r5.split.isNone && r5.steer.any isPauseCmd) then pauseRun s5 n r5
    else if breakKind s5 n = 4 ∧ breakValue s5 n = r5.steps then pauseRun (haltPart s5 n 1) n r5
    else if quiesces s5 n then
      let s6 := pauseRun s5 n r5
      { s6 with err := { s6.err with retire := s6.err.retire.map (fun x => { x with paused := n :: x.paused }) } }
    else startStep s5 n

/-! ### One step (R236, R267, R268) -/

/-- The blocks of the drawing clients that are still missing; a client that cannot deliver leaves its core out. -/
def drawStep (s : State) (n : Nat) (cores : List Nat) (r : AnlRun) : List Nat × Bool × State :=
  cores.foldl (fun x c =>
    let r1 := ((anlOf x.2.2 n).run).getD r
    if (mfind r1.drawn c).isSome then x
    else
      let g := generate x.2.2 (5 * c + 4) 1
      match g.1 with
      | .blocks bs => (x.1, x.2.1, setRun g.2 n { r1 with drawn := mins r1.drawn c bs.flatten })
      | .wait => (x.1 ++ [c], x.2.1, g.2)
      | .refused => (x.1 ++ [c], true, g.2)) ([], false, s)

/-- The store ranges that a move of v reads. -/
def moveRanges (o : Geo) (p : AnlProb) (v : Nat) : List (Nat × Nat) :=
  if p.dense then (List.range o.dieCols).map (rowRange o p v) else [listRange o p v]

/-- Candidates and moves by core, for the performance counters (R495). -/
def countAnnealing (s : State) (e : StepEnv) (ms : List Cand) : State :=
  (List.range (posCount e.o)).foldl (fun s q =>
    let s1 := perfAdd s (perfCore (posCore e.o q) 2) (candsAt e q).length
    perfAdd s1 (perfCore (posCore e.o q) 3) ((candsAt e q).filter ms.contains).length) s

/-- The update and announce writes to peer m, on the data channel in the order of the pair (R297, R415, R416): one
write of each update in export-entry order, and the announce behind them. Their addresses and bytes are free. -/
def sendExchange (s : State) (m : Nat) (updates : List (Nat × Bool)) (word : List Nat) : State :=
  let put_ := fun (s : State) (u : Nat × Bool) =>
    sendPacket s (writePacket s 1 m (Config.exchangeAddr [m, u.1]) 0 (clean (leBytes 8 (Config.exchangeWord [u.1, boolBit u.2]).toNat)) none)
  let s1 := updates.foldl put_ s
  sendPacket s1 { writePacket s1 2 m (Config.exchangeAddr [m]) 0 [] none with len := 8, offset := 0, inline := Config.exchangeWord word }

/-- The announce of the module's own sync point to peer m. -/
def shareTo (s : State) (n : Nat) (p : AnlProb) (r : AnlRun) (t : SplitRun) (m : Nat) : Share :=
  let x := (anlOf s n).vars
  let lead := leads s r
  let own := t.table.exports.filter (fun e => e.2.1 == m)
  let ups := (own.filter (fun e => nth false x.spins e.1 != nth false t.lastSent e.1)).map (fun e => (e.2.2, nth false x.spins e.1))
  { peer := moduleId s, updates := if t.setupDone then ups else [], doubled := doubledShare p x t.table.nOwn, quiet := t.quiet,
    violated := violatedCount p x
    setup := if t.setupDone then [] else
      [t.table.key.toNat, t.table.modules, t.table.leader, boolBit t.table.epoch, t.table.epochSteps, r.d.stepLimit, r.d.policy,
       r.d.traceEvery, p.jscale, Config.curveDigest r.curve.bytes, own.length]
    promote := lead && t.promote, endWith := if lead then t.endNext else 0, pause := lead && t.pauseNext,
    resume := lead && t.resumeNext, frost := lead && t.frostNext, mismatch := false }

/-- Announces of a sync point (R297): to each peer its updates, the share, and the leader's decisions. -/
def sendShares (s : State) (n : Nat) (p : AnlProb) (r : AnlRun) (t : SplitRun) : State :=
  (peersOf (moduleId s) t.table).foldl (fun s m =>
    let x := shareTo s n p r t m
    emit (sendExchange s m x.updates [m, r.steps, wrapTo 64 x.doubled]) (.anlShare n m x)) s

/-- The module reaches a sync point and waits there; after an end notice it ends there (R302). -/
def reachSync (s : State) (n : Nat) (p : AnlProb) (r : AnlRun) (t : SplitRun) : State :=
  if t.noticed then endRun s n 4
  else
    let s1 := sendShares s n p r t
    setRun s1 n { r with split := some { t with waiting := true, since := s.time.count, lastSent := (anlOf s n).vars.spins } }

/-- A step's counts in the registers (R245, R274). -/
def countStep (a : AnlSt) (c : Choice) : AnlSt :=
  { a with residence := min (a.residence + c.residence) (2 ^ 64 - 1), withdrawn := satTo 21 (a.withdrawn + c.withdrawn),
           stale := satTo 21 (a.stale + c.stale.length), nulls := satTo 22 (a.nulls + boolBit c.null) }

/-- The flips of the last step that another module's move may still make stale (R252, R297). -/
def uncountedFlips (c : Choice) : List Nat := flipsOf (c.moves.filter (fun m => !c.stale.contains m))

/-- The step is applied and its boundary reached; the draws are at hand. Check reads the lists of the proposed flips
(R247), Apply the lists or rows of the moves. -/
def applyStep (s : State) (n : Nat) (img : PartImage) (p : AnlProb) (r : AnlRun) : State :=
  let o := geoOf s.fuse.grade img.shape
  let s00 := touchRanges s (memberRanges o p)
  let ev := stepEnv s00 img p r
  let e := ev.1
  let x := (anlOf s00 n).vars
  let draws := fun (c : Nat) => blockWord (mget [] r.drawn c)
  let phase := colourPhaseOf s00 img p r
  let checked := if p.dense || r.d.policy == 0 then [] else flipsOf (proposals e x r.temp r.frost phase draws)
  let s0 := touchRanges s00 (checked.flatMap (moveRanges o p))
  let c := choose e x r.d.policy r.temp r.frost phase draws (fun v => (storedNeighbours s0 o p v).1.map Prod.fst)
  let s1 := touchRanges s0 ((flipsOf c.moves).flatMap (moveRanges o p))
  let near := fun (v : Nat) => (storedNeighbours s1 o p v).1.map Prod.fst
  let nbs := (flipsOf c.moves).map (fun v => (v, storedNeighbours s1 o p v))
  if ev.2 || nbs.any (fun l => l.2.2) then endRun (noteConsumed s1 1) n 2
  else
    let x1 := applyMoves e x (nbs.map (fun l => (l.1, l.2.1))) c.moves
    let k := r.counts
    let r1 := { r with
      steps := r.steps + 1, workBeats := r.workBeats + stepBeats e r.d.policy r.frost near c.moves, drawn := [], held := false
      counts := { k with accepted := k.accepted + c.moves.length, withdrawn := k.withdrawn + c.withdrawn,
                         stale := k.stale + c.stale.length, nulls := k.nulls + boolBit c.null } }
    let s2 := countAnnealing (setAnl s1 n { countStep (anlOf s1 n) c with vars := x1, run := some r1 }) e c.moves
    match r1.split with
    | none => runBoundary s2 n (r1.frost && c.quiet) false
    | some t =>
      let t1 := { t with quiet := r1.frost && c.quiet, moved := uncountedFlips c }
      if r1.steps % t.table.epochSteps = 0 ∨ r1.frost then reachSync s2 n p r1 t1
      else runBoundary (setRun s2 n { r1 with split := some t1 }) n false false

/-- ANL_STEP of partition n. A draw that waits holds the step, and the command is given again (R268). -/
def anlStep (s : State) (n : Nat) : State :=
  match runCtx s n with
  | none => s
  | some (img, p, r) =>
    let waiting := match r.split with | none => false | some t => t.waiting
    if r.state ≠ 1 ∨ waiting = true then s
    else if r.frost then applyStep s n img p r
    else
      let d := drawStep s n (drawingCores (geoOf s.fuse.grade img.shape) img r.d.policy) r
      let r1 := ((anlOf d.2.2 n).run).getD r
      if d.2.1 then endRun d.2.2 n 3
      else if d.1 ≠ [] then setRun d.2.2 n { r1 with held := true }
      else applyStep d.2.2 n img p r1

/-- The paused run of partition n goes on. An ANL_FROST that waits at the leader of a split run begins Frost with this
step on every module: its announce says so (R279, R281). -/
def resumeRun (s : State) (n : Nat) : State :=
  match (anlOf s n).run with
  | none => s
  | some r =>
    let frost := r.frostNext || r.steer.any isFrostCmd
    let s0 := setPart (setRun s n { r with frostNext := frost }) n { partOf s n with holder := some r.slot }
    match r.split, (anlOf s n).prob with
    | some t, some p =>
      sendShares (startStep s0 n) n p r
        { t with resumeNext := true, frostNext := frost, promote := false, endNext := 0, pauseNext := false }
    | _, _ => startStep s0 n

/-- Partition n is free for a paused run: no operation in it, no halt, and no held annealer bank (R282, R372). -/
def canResume (s : State) (n : Nat) : Bool := (partOf s n).holder.isNone && haltCause s n == 0 && !partHeld s n [2]

/-- A paused run goes on once its partition is free (R282). -/
def tryResume (s : State) (n : Nat) : State :=
  match (anlOf s n).run with
  | none => s
  | some r => if r.state = 2 ∧ r.steer.any isResumeCmd = true ∧ canResume s n = true then resumeRun s n else s

/-! ### Sync points (R297 to R303) -/

def shareOf (shares : List Share) (m : Nat) : Option Share := shares.find? (fun x => x.peer == m)

/-- The setup values that a peer must bring (R301). -/
def setupOk (p : AnlProb) (r : AnlRun) (t : Split) (x : Share) : Bool :=
  x.setup == [t.key.toNat, t.modules, t.leader, boolBit t.epoch, t.epochSteps, r.d.stepLimit, r.d.policy, r.d.traceEvery, p.jscale,
    Config.curveDigest r.curve.bytes, (t.ghosts.filter (fun g => g.2 == x.peer)).length]

/-- Received updates as flips of ghosts. -/
def ghostFlips (x : AnlVars) (t : Split) (shares : List Share) : List Nat :=
  (shares.flatMap Share.updates).filterMap (fun u =>
    let v := t.nOwn + u.1
    if v < x.spins.length ∧ nth false x.spins v ≠ u.2 then some v else none)

/-- Beats of a sync point (R303). -/
def syncBeats (e : StepEnv) (near : Nat → List Nat) (t : Split) (vs : List Nat) (setup : Bool) : Nat :=
  let adds := sumOver e.p.degree vs
  t.beats + 8 + (adds + 15) / 16 + (if setup then beatsXP e.o else beatsXN e near (vs.map .flip))

/-- The leader's decisions from the shares of this sync point (R299). Its own share counts the updates applied, as the
peers' do, so that half the sum is the domain energy (R298). TARGET arises only after a step (R283); a pause or Frost
that takes effect here is not decided again. -/
def leaderDecides (s : State) (n : Nat) (p : AnlProb) (r : AnlRun) (t : SplitRun) (shares : List Share) (pause : Bool) : SplitRun :=
  if !leads s r then t
  else
    let x := (anlOf s n).vars
    let e := (doubledShare p x t.table.nOwn + isum (shares.map Share.doubled)) / 2
    let viol := violatedCount p x + sumOver id (shares.map Share.violated)
    let better := r.d.best && !(r.d.feasible && viol != 0) && (match t.domainBest with | none => true | some b => decide (e < b))
    let quiet := t.quiet && shares.all Share.quiet
    { t with
      domainE := e, promote := better, domainBest := if better then some e else t.domainBest
      endNext := if r.d.hasTarget && r.steps != 0 && decide (e ≤ r.d.target) then 6 else if r.frost && quiet then 7 else 0
      pauseNext := !pause && r.steer.any isPauseCmd
      frostNext := !r.frost && !r.frostNext && r.steer.any isFrostCmd }

/-- The pending plane becomes the best (R299). -/
def promoteBest (s : State) (n : Nat) (r : AnlRun) (t : SplitRun) : State :=
  let e := if leads s r then t.domainBest.getD t.pendE else t.pendE
  setAnl s n { anlOf s n with best := e, run := some { r with
    bestE := some e, bestStep := t.pendStep, bestSpins := t.pendSpins, bestSigma := t.pendSigma
    counts := { r.counts with newBest := true } } }

/-- The setup exchange does not match: the run ends before step 0 with FORMAT, nothing written but the summary (R301).
The spec gives no END_REASON: a free value. A module that meets the mismatch itself tells its peers. -/
def setupFails (s : State) (n : Nat) (p : AnlProb) (r : AnlRun) (t : SplitRun) (own : Bool) : State :=
  let s0 := if own then
      (peersOf (moduleId s) t.table).foldl (fun s m => emit s (.anlShare n m { shareTo s n p r t m with mismatch := true })) s
    else s
  let f := takeFree s0 8
  let s2 := summaryPut f.2 r.slot r.d.summaryAddr (summaryBytes f.2 n f.1 p r)
  completeOp (abandonSteer (closeRun s2 n f.1 r) r.steer) r.slot defaultOrder stFormat (put f.1 7 0) r.workBeats

/-- What a sync point decides on this module: the leader's decisions of the sync point before. -/
structure Decided where
  promote : Bool
  ends : Nat
  pause : Bool
  frost : Bool
  deriving DecidableEq, Repr

def decidedAt (s : State) (r : AnlRun) (t : SplitRun) (shares : List Share) : Decided :=
  if leads s r then { promote := t.setupDone && t.promote, ends := t.endNext, pause := t.pauseNext, frost := t.frostNext }
  else
    match shareOf shares t.table.leader with
    | none => { promote := false, ends := 0, pause := false, frost := false }
    | some x => { promote := t.setupDone && x.promote, ends := x.endWith, pause := x.pause, frost := x.frost }

/-- The updates of a sync point apply to the ghosts `vs`, the decisions take effect, the pending plane is captured without
ghosts (R295), and the boundary follows. -/
def passSync (s : State) (n : Nat) (img : PartImage) (p : AnlProb) (r : AnlRun) (t : SplitRun) (shares : List Share)
    (vs : List Nat) : State :=
  let o := geoOf s.fuse.grade img.shape
  let e := (stepEnv s img p r).1
  let near := fun (v : Nat) => (storedNeighbours s o p v).1.map Prod.fst
  let x1 := applyMoves e (anlOf s n).vars (vs.map (fun v => (v, (storedNeighbours s o p v).1))) (vs.map .flip)
  let d := decidedAt s r t shares
  let stale := if t.table.epoch then 0 else (t.moved.filter (fun u => vs.any (fun v => (near v).contains u))).length
  let t1 := { t with waiting := false, setupDone := true, pausedPeers := [] }
  let r1 := { r with
    split := some t1, workBeats := r.workBeats + syncBeats e near t.table vs (!t.setupDone), frostNext := r.frostNext || d.frost
    counts := { r.counts with ghosts := r.counts.ghosts + vs.length, stale := r.counts.stale + stale }
    ended := if d.ends ≠ 0 then d.ends else r.ended }
  let s2 := setAnl s n { anlOf s n with vars := x1, run := some r1, stale := satTo 21 ((anlOf s n).stale + stale) }
  let s3 := if d.promote then promoteBest s2 n r1 t1 else s2
  let r3 := ((anlOf s3 n).run).getD r1
  let share := doubledShare p x1 t.table.nOwn
  let t3 := leaderDecides s3 n p r3 { t1 with
    pendSpins := x1.spins.take t.table.nOwn, pendSigma := x1.sigma, pendStep := r.steps, pendE := share } shares d.pause
  let s4 := setRun s3 n { r3 with split := some t3 }
  let s5 := if leads s r then s4 else emit s4 (.anlDoubled n t.table.leader share)
  runBoundary s5 n false d.pause

/-- The announces of every peer are here: updates apply, decisions take effect, and the next step begins. A paused run
goes on when the leader's announce says so. -/
def syncPoint (s : State) (n : Nat) (shares : List Share) : State :=
  match runCtx s n with
  | none => s
  | some (img, p, r) =>
    match r.split with
    | none => s
    | some t =>
      let peers := peersOf (moduleId s) t.table
      let lead := shareOf shares t.table.leader
      if r.state = 2 ∧ (lead.map Share.resume).getD false = true ∧ canResume s n = true then
        startStep (setPart (setRun s n { r with frostNext := r.frostNext || (lead.map Share.frost).getD false }) n
          { partOf s n with holder := some r.slot }) n
      else if !t.waiting || !peers.all (fun m => (shareOf shares m).isSome) then s
      else
        let o := geoOf s.fuse.grade img.shape
        let vs := if t.setupDone then ghostFlips (anlOf s n).vars t.table shares else []
        let s0 := touchRanges s (vs.flatMap (moveRanges o p))
        let a := anlOf s0 n
        let s1 := setAnl s0 n { a with syncPoints := (a.syncPoints + 1) % 2 ^ 48
                                       lastWait := ((shares.map Share.peer).filter peers.contains).getLastD a.lastWait }
        let own := !shares.all (setupOk p r t.table)
        if !t.setupDone && (own || shares.any Share.mismatch) then setupFails s1 n p r t own
        else if (stepEnv s1 img p r).2 || vs.any (fun v => (storedNeighbours s1 o p v).2) then endRun (noteConsumed s1 1) n 2
        else passSync s1 n img p r t shares vs

end Sys2Proof.Machine
end

