-- ==== Sys2Proof/Machine/AnnealRows.lean ====
section
/-!
DEFINITION. Sys2Proof/Machine/AnnealRows.lean: ANL_LOAD and its build pass (R231 to R233), ANL_RUN (R276 to R278), steering
(R279 to R281), steps, and the exchange of split runs (R297 to R302).
-/
namespace Sys2Proof.Machine

/-- The command that runs in slot k, when its opcode is op. -/
def runningCmd (s : State) (k op : Nat) : Option Fetched :=
  match (slotOf s k).cmd with
  | none => none
  | some c => if opcodeOf c.bits = op ∧ (slotOf s k).state = 5 then some c else none

/-- The command of slot k waits for its partition, with opcode op. -/
def waitingCmd (s : State) (k op : Nat) : Option Fetched :=
  match (slotOf s k).cmd with
  | none => none
  | some c => if opcodeOf c.bits = op ∧ (slotOf s k).state = 3 then some c else none

/-! ### Loading (R229 to R233) -/

/-- The partition's problem is unloaded, and its fence released (R233). -/
def unloadProblem (s : State) (n : Nat) : State :=
  setAnl s n { anlOf s n with prob := none, loading := none, vars := anlVars0, last := none }

/-- A load fails: its code and item go to the registers and to DETAIL (R234, R235, R358). -/
def loadFails (s : State) (n k : Nat) (f : AnlFail) : State :=
  let a := anlOf s n
  let s1 := setAnl s n { a with lastCheck := f.code, fails := satTo 16 (a.fails + 1), failIndex := f.index }
  let s2 := if f.status = stPoison then noteConsumed s1 1 else s1
  completeOp s2 k defaultOrder f.status (put f.code 7 0 + put f.index 63 8) 0

/-- The load's descriptor and input are read for the command of slot k, in either pass: a refused piece marks it
PARTIAL (R367). -/
def loadTouched (s : State) (k desc : Nat) : State :=
  let r := touchInput s desc
  if r.1 then flagSlot r.2 k stPartial else r.2

/-- The check pass (R231): a load that passes takes the place of the previous problem and moves the fence. -/
def doAnlLoad (k : Nat) (s : State) : State :=
  match waitingCmd s k 0x40 with
  | none => s
  | some c =>
    let t := tryTake s k
    let n := slotPart s k
    if !t.1 then t.2
    else
      match partImg s n with
      | none => t.2
      | some img =>
        if (anlOf t.2 n).run.isSome then loadFails t.2 n k { code := 1, index := 0, status := stFormat }
        else
          let desc := cmdFld c.bits 24 31
          let s1 := loadTouched t.2 k desc
          let d := anlDesc (inWord s1 desc 128)
          match anlCheck s1 n desc (geoOf s.fuse.grade img.shape) d with
          | some f => loadFails s1 n k f
          | none =>
            let a := anlOf (unloadProblem s1 n) n
            setAnl (setPart s1 n { partOf s1 n with lastDesc := desc }) n { a with loading := some { slot := k, desc := desc, base := d.base, bytes := d.bytes } }

/-- The build pass ends (R231, R232). -/
def doAnlLoadDone (n : Nat) (stalls : Stalls) (s : State) : State :=
  match (anlOf s n).loading, partImg s n with
  | some l, some img =>
    let s0 := addStalls s l.slot stalls
    let s1 := loadTouched s0 l.slot l.desc
    if contextWaits s n then s0 else
    let d := anlDesc (inWord s1 l.desc 128)
    let o := geoOf s.fuse.grade img.shape
    match anlCheck s1 n l.desc o d with
    | some f => loadFails (unloadProblem s1 n) n l.slot f
    | none =>
      let p := builtProb s1 d
      let images := (anlDies o).map (fun rc => (sramAddr (anlDieNo o rc) d.base, dieImage s1 o d rc))
      let s2 := images.foldl (fun s x => storeMem s x.1 (clean x.2)) s1
      let v := builtVars s1 d p
      let a := anlOf s2 n
      let s3 := setAnl s2 n { a with prob := some { p with e0 := v.energy }, vars := v, loading := none, lastCheck := 0,
                                     loads := satTo 16 (a.loads + 1) }
      completeOp s3 l.slot defaultOrder stOk (put a.failIndex 63 8) 0
  | _, _ => s

/-! ### The start of a run (R276 to R278) -/

/-- A drawing client of the run is seeded (R278). -/
def seededRun (s : State) (img : PartImage) (d : RunDesc) : Bool :=
  (drawingCores (geoOf s.fuse.grade img.shape) img d.policy).any (fun c => isSeeded s (5 * c + 4))

/-- An address that the run uses: alignment, its bytes, and no fence at it (R278). -/
def runAddrOk (s : State) (r : Ranges) (a align n : Nat) : Bool :=
  a % align == 0 && rangeAllowed s r a (max n 1) && !meetsFence s a 1

/-- The Descriptor check of R278. -/
def runDescOk (s : State) (img : PartImage) (p : AnlProb) (d : RunDesc) : Bool :=
  let size := imageSize p.n p.nc
  d.typ == 0x11 && d.policy ≤ 2 && d.init ≤ 2 && d.flags < 64 && d.stepLimit < 2 ^ 48 &&
  runAddrOk s .localOnly d.curveAddr 64 64 && runAddrOk s .store d.summaryAddr 64 64 &&
  (d.traceEvery == 0 || (128 ≤ d.traceBytes && d.traceBytes % 64 == 0 && runAddrOk s .store d.traceAddr 64 d.traceBytes)) &&
  (!d.best || runAddrOk s .store d.bestAddr 64 size) && (!d.final || runAddrOk s .store d.finalAddr 64 size) &&
  (d.init != 2 || runAddrOk s .localOnly d.stateAddr 64 size) &&
  (!d.clamp || runAddrOk s .localOnly d.clampAddr 64 (spinPart p.n)) &&
  (d.splitAddr == 0 || runAddrOk s .localOnly d.splitAddr 64 64) &&
  (d.sampleAddr == 0 || (1 ≤ d.sampleEvery && runAddrOk s .store d.sampleAddr 64 (d.sampleCount * spinPart p.n))) &&
  (!seededRun s img d || d.seedAddr == 0 || runAddrOk s .localOnly d.seedAddr 32 32)

/-- The Split check (R294, R296). -/
def splitOk (s : State) (o : Geo) (p : AnlProb) (d : RunDesc) : Bool :=
  d.splitAddr == 0 ||
  (let n := splitBytes s d.splitAddr
   rangeAllowed s .localOnly d.splitAddr n &&
   (let bs := dataOf (rmBytes s d.splitAddr n)
    let t := splitOf bs
    let w := fun (lo hi : Nat) => ofLe ((bs.drop lo).take (hi + 1 - lo))
    let entry := fun (i : Nat) => w (64 + 8 * i) (71 + 8 * i)
    let ghosts := rangeFrom t.nOwn (p.n - 1)
    2 ≤ t.modules && t.modules ≤ 64 && w 1 1 == moduleId s && t.leader < 64 && w 3 3 ≤ 1 && 1 ≤ t.epochSteps &&
    t.epochSteps ≤ 65536 && (t.epoch || t.epochSteps == 1) && t.nOwn + t.ghosts.length == p.n && 64 ≤ t.beats &&
    1 ≤ t.timeoutUs && w 40 63 == 0 && d.traceEvery % t.epochSteps == 0 &&
    (if t.leader = moduleId s then
       t.domainTrace == 0 || (t.domainTrace % 64 == 0 && (d.traceEvery == 0 || rangeAllowed s .store t.domainTrace d.traceBytes))
     else t.domainTrace == 0) &&
    (List.range t.ghosts.length).all (fun i => fld (entry i) 31 25 == 0 && fld (entry i) 63 38 == 0) &&
    (List.range t.exports.length).all (fun i =>
      let e := entry (t.ghosts.length + i)
      fld e 31 25 == 0 && fld e 39 38 == 0 && fld e 24 0 < t.nOwn) &&
    !p.dense && ghosts.all (fun v =>
      let l := (storedNeighbours s o p v).1
      p.memberCount v == 0 && l.all (fun e => e.1 < t.nOwn) &&
      nth 0 p.lin v == (if p.qubo then p.jscale * isum (l.map Prod.snd) else 0))))

/-- Seed, state image and clamp bitmap. -/
def runImages (s : State) (img : PartImage) (p : AnlProb) (d : RunDesc) : List (Nat × Nat) :=
  (if seededRun s img d then [(d.seedAddr, 32)] else []) ++
    (if d.init = 2 then [(d.stateAddr, imageSize p.n p.nc)] else []) ++
    (if d.clamp then [(d.clampAddr, spinPart p.n)] else [])

/-- What R278's Input check reads: descriptor, seed, state image, clamp bitmap, split table. -/
def runInputs (s : State) (img : PartImage) (p : AnlProb) (desc : Nat) (d : RunDesc) : List (Nat × Nat) :=
  [(desc, 128)] ++ runImages s img p d ++
    (if d.splitAddr ≠ 0 then [(d.splitAddr, splitBytes s d.splitAddr)] else [])

/-- The first check of R278 that fails: its status, none when the run may start. -/
def runCheck (s : State) (n desc : Nat) (img : PartImage) : Option Nat :=
  match (anlOf s n).prob with
  | none => some stFormat
  | some p =>
    let d := runDesc (inWord s desc 128)
    let o := geoOf s.fuse.grade img.shape
    if (anlOf s n).run.isSome || !runDescOk s img p d || (seededRun s img d && d.seedAddr == 0) then some stFormat
    else
      let c := curveCheck s d.curveAddr
      if c = 4 then some stPoison
      else if c ≠ 0 || !splitOk s o p d then some stFormat
      else if (runInputs s img p desc d).any (fun r => inPoison s r.1 r.2) then some stPoison
      else none

def split0 (t : Split) : SplitRun :=
  { table := t, lastSent := [], setupDone := false, waiting := false, quiet := false, pendSpins := [], pendSigma := [], pendStep := 0,
    pendE := 0, domainBest := none, promote := false, endNext := 0, pauseNext := false, resumeNext := false, frostNext := false,
    noticed := false, pausedPeers := [], domainE := 0, domainRecords := 0, moved := [],
    lastDomain := [], since := 0#64 }

/-- The run as its checks leave it, before its first boundary. -/
def newRun (s : State) (k desc : Nat) (img : PartImage) (p : AnlProb) : AnlRun :=
  let w := inWord s desc 128
  let d := runDesc w
  { slot := k, state := 0, desc := BitVec.ofNat 1024 w, steps := 0, curve := readCurve s d.curveAddr 0, newCurve := false,
    frost := false, frostNext := false, steer := [], temp := 0, phase := 0
    clamp := if d.clamp then spinsOfBytes p.n (dataOf (rmBytes s d.clampAddr (spinPart p.n))) else []
    coloured := d.policy != 0 && colouringUsable img p, bestE := none, bestStep := 0, bestSpins := [], bestSigma := [],
    counts := counts0, records := 0, lastRecord := none, samples := 0, lost := 0, workBeats := 0, ended := 0, held := false,
    drawn := []
    seed := if seededRun s img d then dataOf (rmBytes s d.seedAddr 32) else []
    image := if d.init = 2 then dataOf (rmBytes s d.stateAddr (imageSize p.n p.nc)) else []
    split := if d.splitAddr = 0 then none
             else some (split0 (splitOf (dataOf (rmBytes s d.splitAddr (splitBytes s d.splitAddr))))) }

/-- Seeded annealer clients of the partition are instantiated afresh (R277). -/
def seedClients (s : State) (img : PartImage) (r : AnlRun) : State :=
  if r.seed.isEmpty then s
  else
    let id := r.d.runId ^^^ (if r.split.isSome then moduleId s * 2 ^ 56 else 0)
    (shapeCores s.fuse.grade img.shape).foldl (fun s c =>
      if isSeeded s (5 * c + 4) then instantiate s (5 * c + 4) (BitVec.ofNat 256 (ofLe r.seed)) (BitVec.ofNat 64 id) else s) s

/-- The state by INIT (R276), whether a slack was clipped, and whether poison was met. -/
def initVars (s : State) (o : Geo) (p : AnlProb) (x : AnlVars) (r : AnlRun) : AnlVars × Bool × Bool :=
  match r.d.init with
  | 0 => (x, false, false)
  | 1 => let v := computeVars s o p p.spins0 p.sigma0; (v.1, false, v.2)
  | _ =>
    let raw := sigmaOfBytes p.n p.nc r.image
    let sigma := raw.mapIdx (fun c v => min v (p.con c).sigmaMax)
    let v := computeVars s o p (spinsOfBytes p.n r.image) sigma
    (v.1, raw != sigma, v.2)

/-- The run starts: seeds, state, registers, and its first boundary, or the setup sync point of a split run. -/
def beginRun (s : State) (n : Nat) : State :=
  match runCtx s n with
  | none => s
  | some (img, p, r) =>
    let o := geoOf s.fuse.grade img.shape
    let s0 := seedClients s img r
    let s1 := if r.d.init = 0 then s0 else touchRanges s0 (couplingRanges o p ++ memberRanges o p)
    let v := initVars s1 o p (anlOf s1 n).vars r
    let r1 := { r with state := 1 }
    let first := nextStep r1
    let tp := match first with | .curve t hold _ => (t, if hold then 3 else 1) | .frost => (0, 2) | .stop => (0, 0)
    let a := anlOf s1 n
    let s2 := setAnl s1 n { a with
      vars := v.1, run := some r1, temp := tp.1, phase := tp.2, colourPhase := 0, policy := r.d.policy
      colourIgnored := r.d.policy != 0 && img.regions.colours != 0 && !r.coloured
      residence := 0, withdrawn := 0, stale := 0, nulls := 0, steps := 0, energy := 0, best := 2 ^ 63 - 1
      clipped := a.clipped || v.2.1, runs := satTo 32 (a.runs + 1), syncPoints := 0 }
    let desc := match (slotOf s2 r.slot).cmd with | some c => cmdFld c.bits 24 31 | none => (partOf s2 n).lastDesc
    let s3 := noteProgress (setPart s2 n { partOf s2 n with lastDesc := desc }) r.slot
    if v.2.2 then endRun (noteConsumed s3 1) n 2
    else
      match r.split with
      | none => runBoundary s3 n false false
      | some t => reachSync s3 n p r1 t

/-- The split table is read: its head, then by the head its entries (R296). -/
def splitTouch (s : State) (a : Nat) : Bool × State :=
  let r0 := localTouch s ownRemote a 64
  let n := splitBytes r0.2 a
  if rangeAllowed s .localOnly a n then
    let r1 := localTouch r0.2 ownRemote (a + 64) (n - 64)
    (r0.1 || r1.1, r1.2)
  else r0

/-- The run's descriptor, curve and inputs are read for the command of slot k: a refused piece marks it PARTIAL (R278,
R367). -/
def runTouched (s : State) (n k desc : Nat) (img : PartImage) : State :=
  let x0 := localTouch s ownRemote desc 128
  let d := runDesc (inWord x0.2 desc 128)
  let x :=
    match (anlOf s n).prob with
    | none => x0
    | some p =>
      if !runDescOk x0.2 img p d then x0
      else
        let x1 := curveTouch x0.2 d.curveAddr
        let x2 := if d.splitAddr = 0 then (false, x1.2) else splitTouch x1.2 d.splitAddr
        let x3 := touchAll x2.2 ownRemote ((runImages x2.2 img p d))
        (x0.1 || x1.1 || x2.1 || x3.1, x3.2)
  if x.1 then flagSlot x.2 k stPartial else x.2

/-- ANL_RUN: its checks, then its start or, with TIMED, its arming (R278). Banks that await their hand-over delay a start
(R372). -/
def doAnlRun (k : Nat) (s : State) : State :=
  match waitingCmd s k 0x41 with
  | none => s
  | some c =>
    let t := tryTake s k
    let n := slotPart s k
    if !isTimed c.bits ∧ partHeld s n [2] = true then s
    else if !t.1 then t.2
    else
      match partImg s n with
      | none => t.2
      | some img =>
        let desc := cmdFld c.bits 24 31
        let s1 := runTouched t.2 n k desc img
        match runCheck s1 n desc img, (anlOf s1 n).prob with
        | none, some p =>
          let s2 := setRun s1 n (newRun s1 k desc img p)
          if isTimed c.bits then
            let s3 := armSlot s2 k c
            if (slotOf s3 k).state = 4 then s3 else setAnl s3 n { anlOf s3 n with run := none }
          else beginRun s2 n
        | some st, _ =>
          let s2 := if st = stPoison then noteConsumed s1 1 else s1
          completeOp s2 k defaultOrder st 0 0
        | none, none => completeOp s1 k defaultOrder stFormat 0 0

/-! ### Steering (R279 to R281) -/

/-- The run that steering meets: none while the partition is IDLE. -/
def activeRun (s : State) (n : Nat) : Option AnlRun :=
  match (anlOf s n).run with
  | none => none
  | some r => if r.state = 0 then none else some r

def isPaused (r : AnlRun) : Bool := r.state == 2

def addSteer (s : State) (n : Nat) (r : AnlRun) (x : Steer) : State :=
  if r.steer.contains x then s else setRun s n { r with steer := r.steer ++ [x] }

/-- A steering command other than a read belongs to the leader (R299). -/
def mayDirect (s : State) (r : AnlRun) : Bool := r.split.isNone || leads s r

def doAnlPause (k : Nat) (s : State) : State :=
  match runningCmd s k 0x42 with
  | none => s
  | some _ =>
    let n := slotPart s k
    match activeRun s n with
    | none => completeAs s k stFormat 0
    | some r =>
      if !mayDirect s r then completeAs s k stFormat 0
      else if isPaused r then completeAs s k stOk 0
      else addSteer s n r (.pause k)

def doAnlResume (k : Nat) (s : State) : State :=
  match runningCmd s k 0x43 with
  | none => s
  | some _ =>
    let n := slotPart s k
    match activeRun s n with
    | none => completeAs s k stFormat 0
    | some r =>
      if !mayDirect s r then completeAs s k stFormat 0
      else if !isPaused r then completeAs s k stOk 0
      else tryResume (addSteer s n r (.resume k)) n

def doAnlFrost (k : Nat) (s : State) : State :=
  match runningCmd s k 0x44 with
  | none => s
  | some _ =>
    let n := slotPart s k
    match activeRun s n with
    | none => completeAs s k stFormat 0
    | some r =>
      if !mayDirect s r then completeAs s k stFormat 0
      else if r.frost then completeAs s k stOk 0
      else addSteer s n r (.frost k)

def doAnlRead (k : Nat) (s : State) : State :=
  match runningCmd s k 0x45 with
  | none => s
  | some c =>
    let n := slotPart s k
    if 2 < cmdFld c.bits 16 16 then completeAs s k stFormat 0
    else
      match activeRun s n with
      | none => anlRead s n k c.bits
      | some r => if isPaused r then anlRead s n k c.bits else addSteer s n r (.read k)

/-! ### Steps and the exchange

A context that waits holds the run (R394): its stalls count, and the row is given again. -/

def doAnlStep (n : Nat) (stalls : Stalls) (s : State) : State :=
  let s0 := match (anlOf s n).run with | none => s | some r => addStalls s r.slot stalls
  if contextWaits s n then s0 else anlStep (tryResume s0 n) n

def doAnlSyncPoint (n : Nat) (shares : List Share) (stalls : Stalls) (s : State) : State :=
  let s0 := match (anlOf s n).run with | none => s | some r => addStalls s r.slot stalls
  if contextWaits s n then s0 else syncPoint s0 n shares

/-- No announce of `peer` within EXCH_TIMEOUT_US of the module's own, and no pause notice suspends the timeout (R302). At
the setup sync point a module that starts late only delays the others (R301). -/
def doAnlExchTimeout (n peer : Nat) (s : State) : State :=
  match (anlOf s n).run with
  | none => s
  | some r =>
    match r.split with
    | none => s
    | some t =>
      if !t.waiting || !t.setupDone || !t.pausedPeers.isEmpty || !(peersOf (moduleId s) t.table).contains peer ||
          sinceCount s t.since ≤ 1000 * t.table.timeoutUs then s
      else
        let s1 := setAnl s n { anlOf s n with lastWait := peer }
        sendNotice (endRun s1 n 4) 0x25 t.table

/-- Runs whose split table carries a key. -/
def keyedRuns (s : State) (key : BitVec 64) : List Nat :=
  (s.anl.filter (fun na => match na.2.run with
    | some r => (match r.split with | some t => t.table.key == key | none => false)
    | none => false)).map Prod.fst

/-- An end notice with a run's key: that run ends at the sync point where it waits, or at its next one (R302). -/
def takeEndNotice (s : State) (key : BitVec 64) : State :=
  (keyedRuns s key).foldl (fun s n =>
    match (anlOf s n).run with
    | none => s
    | some r =>
      match r.split with
      | none => s
      | some t => if t.waiting then endRun s n 4 else setRun s n { r with split := some { t with noticed := true } }) s

/-- A pause notice of module m suspends the timeout (R302). -/
def takePauseNotice (s : State) (m : Nat) (key : BitVec 64) : State :=
  (keyedRuns s key).foldl (fun s n =>
    match (anlOf s n).run with
    | none => s
    | some r =>
      match r.split with
      | none => s
      | some t => setRun s n { r with split := some { t with pausedPeers := (m :: t.pausedPeers).eraseDups } }) s

/-- A held request of the run found no source in time (R268, R445). -/
def runStarves (s : State) (n : Nat) : State :=
  match (anlOf s n).run with
  | none => s
  | some r =>
    if r.held then
      match partImg s n with
      | none => s
      | some img =>
        let cs := drawingCores (geoOf s.fuse.grade img.shape) img r.d.policy
        endRun (cs.foldl (fun s c => dropDraw s (5 * c + 4)) (countNoEntropy s)) n 3
    else s

end Sys2Proof.Machine
end

