-- ==== Sys2Proof/Machine/ImageCheck.lean ====
section
/-!
DEFINITION. Sys2Proof/Machine/ImageCheck.lean: the layout of an image (R59 to R81) and the checks that a load runs on
its staged copy, stage by stage (R82, R84 to R88).
-/
namespace Sys2Proof.Machine

/-- Bytes lo .. hi of a payload as one little-endian number. -/
def payFld (p : List Byte) (lo hi : Nat) : Nat := ofLe ((p.drop lo).take (hi + 1 - lo))
def payByte (p : List Byte) (i : Nat) : Nat := (nth 0#8 p i).toNat
def zeroFrom (p : List Byte) (lo hi : Nat) : Bool := ((p.drop lo).take (hi + 1 - lo)).all (· == 0#8)

/-- The image header's fields (R60). -/
structure ImgHeader where
  magic : Nat
  version : Nat
  kind : Nat
  keySlot : Nat
  part : Nat
  minStepping : Nat
  rate : Nat
  count : Nat
  length : Nat
  svn : Nat
  mask : Nat
  buildId : Nat
  resvOk : Bool
  deriving DecidableEq, Repr

def imgHeader (b : List Byte) : ImgHeader where
  magic := payFld b 0 3
  version := payFld b 4 5
  kind := payByte b 6
  keySlot := payByte b 7
  part := payFld b 8 9
  minStepping := payByte b 10
  rate := payByte b 11
  count := payFld b 12 15
  length := payFld b 16 23
  svn := payFld b 24 27
  mask := payFld b 32 39
  buildId := payFld b 40 55
  resvOk := zeroFrom b 28 31 && zeroFrom b 56 127

/-- The HEADER stage (R84); `limit` is the command's LENGTH. -/
def headerOk (s : State) (limit : Nat) (h : ImgHeader) : Bool :=
  h.magic == 0x55534345 && h.version == 1 && h.part == 0x6416 && h.minStepping ≤ s.fuse.stepping.toNat &&
  (h.kind == 1 || h.kind == 2) && h.keySlot ≤ 3 && 1 ≤ h.count && h.count ≤ 4096 && h.length ≤ limit &&
  h.length % 64 == 0 && 128 + 64 * h.count + 256 ≤ h.length && h.length ≤ 2 ^ 31 && h.rate ≤ 2 &&
  (h.kind != 2 || h.rate == s.rate.rate)

/-- The SECTION_COUNT sections, in order, each from a multiple of 64 bytes (R59, R61), and where they end. -/
def imgSections : Nat → List Byte → Nat → List Section × Nat
  | 0, _, off => ([], off)
  | n + 1, b, off =>
    let h := (b.drop off).take 64
    let plen := payFld h 8 15
    let room := b.length - (off + 64)
    let pl := min plen room
    let padded := (pl + 63) / 64 * 64
    let body := (b.drop (off + 64)).take pl
    let pad := (b.drop (off + 64 + pl)).take (padded - pl)
    let sec : Section :=
      { kind := payFld h 0 1, sversion := payFld h 2 3, scope := payByte h 4, part := payByte h 5,
        flags := payByte h 6, resv := payByte h 7, plen := plen,
        hash := BitVec.ofNat 384 (ofBe ((h.drop 16).take 48)), payload := body,
        padOk := pad.all (· == 0#8) && pl == plen }
    let rest := imgSections n b (off + 64 + padded)
    (sec :: rest.1, rest.2)

/-! ### SECTION stage: hashes and firmware signatures (R61, R80) -/

/-- The device knows this section type and layout (R62, R63). -/
def knownType (k : Nat) : Bool :=
  [1, 2, 4, 5, 6, 7, 8, 9, 10, 11, 12, 13].contains k

def knownSection (c : Section) : Bool := knownType c.kind && c.sversion == 1

/-- A section that the load skips (R62). Type 0x0003 is never skipped: it fails the load (R63). -/
def skipped (c : Section) : Bool := !knownSection c && bitOf c.flags 0 && c.kind != 3

def firmwareSigOk (c : Section) : Bool :=
  let body := (c.payload.drop 128).take (payFld c.payload 8 15)
  let e := sha384 (c.payload.take 16 ++ body)
  ecdsaOk e Config.firmwareKeyX Config.firmwareKeyY (ofBe ((c.payload.drop 16).take 48))
    (ofBe ((c.payload.drop 64).take 48))

def sectionAuth (c : Section) : Bool :=
  c.payload.length == c.plen && c.hash.toNat == sha384 c.payload &&
  (!(knownSection c && c.kind == 11) || firmwareSigOk c)

/-- The index of the first section that fails a test. -/
def firstFail {α : Type} (ok : α → Bool) : Nat → List α → Option Nat
  | _, [] => none
  | i, c :: cs => if ok c then firstFail ok (i + 1) cs else some i

/-! ### Section payloads (R66 to R80) -/

def payloadShape (c : Section) : Shape where
  dieRect := payByte c.payload 0 == 1
  die := payByte c.payload 1
  loRow := payByte c.payload 2
  hiRow := payByte c.payload 3
  loCol := payByte c.payload 4
  hiCol := payByte c.payload 5

/-- The PARTITION section that an image gives partition n. -/
def partSection (cs : List Section) (n : Nat) : Option Section :=
  cs.find? (fun c => knownSection c && c.kind == 2 && c.part == n)

def secShape (cs : List Section) (n : Nat) : Option Shape := (partSection cs n).map payloadShape

def moduleOk (partitions : Nat) (c : Section) : Bool :=
  c.plen == 64 && payByte c.payload 0 < 64 && 1 ≤ payByte c.payload 1 && payByte c.payload 1 ≤ 64 &&
  1 ≤ payByte c.payload 2 && payByte c.payload 2 == partitions && payByte c.payload 3 ≤ 1 && zeroFrom c.payload 4 63

def partitionOk (g : Grade) (c : Section) : Bool :=
  let p := payloadShape c
  c.plen == 16 && (payByte c.payload 0 == 1 || payByte c.payload 0 == 2) && p.loRow ≤ p.hiRow && p.loCol ≤ p.hiCol &&
  (if p.dieRect then p.die == 0 && p.hiRow ≤ 3 && p.hiCol ≤ 3
   else p.die ≤ 15 && p.hiRow ≤ 7 && p.hiCol < cprOf g) &&
  payByte c.payload 6 ≤ 1 && payByte c.payload 7 ≤ 1 && zeroFrom c.payload 8 15

def treeOk (shape : Option Shape) (c : Section) : Bool :=
  let m := payByte c.payload 1
  payByte c.payload 0 ≤ 1 && 1 ≤ m && m ≤ 64 && payByte c.payload 2 ≤ 1 && payByte c.payload 3 < m &&
  zeroFrom c.payload 4 7 && c.plen == 8 + m && (c.payload.drop 8).all (fun b => b.toNat < 64) &&
  (match shape with
   | some p => p.dieRect || (payByte c.payload 0 == 0 && m == 1)
   | none => false)

def nodup (l : List Nat) : Bool :=
  match l with
  | [] => true
  | x :: xs => !xs.contains x && nodup xs

def bankDefaultsOk (g : Grade) (shape : Option Shape) (c : Section) : Bool :=
  let n := payFld c.payload 4 5
  let cores := (List.range n).map (fun i => payFld c.payload (8 + 8 * i) (9 + 8 * i))
  (List.range 4).all (fun i => payByte c.payload i ≤ 4) && zeroFrom c.payload 6 7 && c.plen == 8 + 8 * n &&
  (List.range n).all (fun i =>
    (List.range 4).all (fun j => payByte c.payload (10 + 8 * i + j) ≤ 4) &&
    zeroFrom c.payload (14 + 8 * i) (15 + 8 * i)) &&
  (match shape with
   | some p => n ≤ (shapeCores g p).length && cores.all (inShape g p)
   | none => false) && nodup cores

/-- QUEUE_POLICY with the conditions of R71. -/
def queuePolicyOk (c : Section) : Bool :=
  let p := c.payload
  let q := fun i => 8 * i
  let k := fun i => 4096 + 8 * i
  let live := (List.range 512).filter (fun i => payByte p (q i) != 0xFF)
  let pins := (live.map (fun i => payByte p (q i + 3))).filter (· != 0xFF)
  c.plen == 4352 &&
  (List.range 512).all (fun i =>
    (payByte p (q i) < 64 || payByte p (q i) == 0xFF) && payByte p (q i + 1) ≤ 1 && payByte p (q i + 2) ≤ 7 &&
    (payByte p (q i + 3) < 32 || payByte p (q i + 3) == 0xFF) && zeroFrom p (q i + 4) (q i + 7)) &&
  (List.range 32).all (fun i =>
    1 ≤ payFld p (k i) (k i + 3) && payFld p (k i) (k i + 3) ≤ 4000000 && payByte p (k i + 4) ≤ 7 &&
    zeroFrom p (k i + 5) (k i + 7)) &&
  payByte p 0 != 0xFF && payByte p 1 == 1 && nodup pins && pins.length < 32

/-- LINK_TOPOLOGY with the conditions of R72; `me` and `dom` are the image's MODULE_ID and DOMAIN_SIZE. -/
def linkTopologyOk (me dom : Nat) (c : Section) : Bool :=
  let p := c.payload
  let l := fun i => 64 + 8 * i
  let r := fun i => 320 + 8 * i
  let used := fun i => payByte p (l i) != 0xFF
  c.plen == 832 && payByte p 0 < 64 && (payByte p 1 < 32 || payByte p 1 == 0xFF) && zeroFrom p 2 63 &&
  ((payByte p 0 == me) == (payByte p 1 == 0xFF)) &&
  (List.range 32).all (fun i =>
    (payByte p (l i) < 64 || payByte p (l i) == 0xFF) && payByte p (l i + 1) < 32 &&
    (payByte p (l i + 2) == 8 || payByte p (l i + 2) == 6 || payByte p (l i + 2) == 4) && payByte p (l i + 3) ≤ 1 &&
    zeroFrom p (l i + 4) (l i + 7)) &&
  (List.range 64).all (fun i =>
    (bitList 32 (payFld p (r i) (r i + 3))).all used && zeroFrom p (r i + 4) (r i + 7) &&
    (payFld p (r i) (r i + 3) == 0 || (i != me && i < dom)))

def regionsOf (g : Grade) (shape : Option Shape) (c : Section) : AnlRegions :=
  let cores := match shape with | some p => (shapeCores g p).length | none => 0
  let padded := (2 * cores + 63) / 64 * 64
  let vars := payFld c.payload 16 23
  { regions := payFld c.payload 0 1, colours := payByte c.payload 2, tag := BitVec.ofNat 64 (payFld c.payload 8 15),
    vars := vars,
    regionOf := (List.range cores).map (fun i => payFld c.payload (64 + 2 * i) (65 + 2 * i)),
    colourOf := (List.range vars).map (fun i =>
      (payByte c.payload (64 + padded + i / 2) >>> (if i % 2 = 1 then 4 else 0)) % 16) }

def anlRegionsOk (g : Grade) (shape : Option Shape) (c : Section) : Bool :=
  let cores := match shape with | some p => (shapeCores g p).length | none => 0
  let padded := (2 * cores + 63) / 64 * 64
  let a := regionsOf g shape c
  cores != 0 && 1 ≤ a.regions && a.regions ≤ cores &&
  (a.colours == 0 || (2 ≤ a.colours && a.colours ≤ 16)) && zeroFrom c.payload 3 7 && zeroFrom c.payload 24 63 &&
  (a.colours != 0 || a.vars == 0) && c.plen == 64 + padded + (a.vars + 1) / 2 &&
  zeroFrom c.payload (64 + 2 * cores) (64 + padded - 1) &&
  (List.range a.regions).all (fun r => a.regionOf.contains r) && a.regionOf.all (· < a.regions) &&
  a.colourOf.all (· < a.colours) && (a.vars % 2 == 0 || payByte c.payload (c.plen - 1) < 16)

def clientsOf (c : Section) : EntClients where
  ctxMode := payByte c.payload 0
  annMode := payByte c.payload 1
  noEntropyUs := payFld c.payload 4 7
  overrides := (List.range (payFld c.payload 16 17)).foldl
    (fun m i => mins m (payFld c.payload (24 + 4 * i) (25 + 4 * i)) (payByte c.payload (26 + 4 * i))) []

def entropyClientsOk (g : Grade) (shape : Option Shape) (c : Section) : Bool :=
  let n := payFld c.payload 16 17
  let ids := (List.range n).map (fun i => payFld c.payload (24 + 4 * i) (25 + 4 * i))
  payByte c.payload 0 ≤ 1 && payByte c.payload 1 ≤ 1 && zeroFrom c.payload 2 3 &&
  1 ≤ payFld c.payload 4 7 && payFld c.payload 4 7 ≤ 1000000 && zeroFrom c.payload 8 15 && zeroFrom c.payload 18 23 &&
  c.plen == 24 + 4 * n &&
  (List.range n).all (fun i => payByte c.payload (26 + 4 * i) ≤ 1 && payByte c.payload (27 + 4 * i) == 0) &&
  (match shape with | some p => ids.all (fun i => inShape g p (i / 5)) | none => false) && nodup ids

def interleaveOf (c : Section) : Interleave where
  policy := payByte c.payload 0
  keySource := payByte c.payload 1
  key := BitVec.ofNat 128 (payFld c.payload 8 23)
  lat150 := payFld c.payload 24 25
  lat135 := payFld c.payload 26 27
  lat120 := payFld c.payload 28 29

def interleaveOk (c : Section) : Bool :=
  let i := interleaveOf c
  c.plen == 64 && i.policy ≤ 1 && i.keySource ≤ 1 && zeroFrom c.payload 2 7 && 480 ≤ i.lat150 && 440 ≤ i.lat135 &&
  400 ≤ i.lat120 && zeroFrom c.payload 30 63

def firmwareOk (c : Section) : Bool :=
  let t := payByte c.payload 0
  let n := payFld c.payload 8 15
  t ≤ 1 && (t == 0 || c.scope == 0) && payByte c.payload 1 == 0 && c.plen == 128 + n &&
  n ≤ (if t = 1 then 2 ^ 22 else 2 ^ 21) && payFld c.payload 4 7 < n && zeroFrom c.payload 112 127

/-- RESCALE_TABLES (R178): the number of tables, then 16 bytes a table, then their entries of 8 bytes. -/
def rescaleTables (p : List Byte) : Nat := payFld p 0 1

/-- UPROG_LIB (R212). -/
def uprogCount (p : List Byte) : Nat := payFld p 0 1

end Sys2Proof.Machine
end

