-- ==== Sys2Proof/Machine/Fec.lean ====
section
/-!
DEFINITION. Sys2Proof/Machine/Fec.lean: a frame on its lanes (R407 to R409): the stripe of its flit bytes that each lane
carries, the lane's slot codes, and the RS(544,514) codeword around them. The code's own constants, and the order of the
bits of a codeword, are those of IEEE 802.3 (PRESUMED, log entry 50).
-/
namespace Sys2Proof.Machine

/-! ### GF(2^10) and the generator (IEEE 802.3, RS(544,514)) -/

/-- Times α, for the field polynomial x^10 + x^3 + 1. -/
def symDouble (a : Nat) : Nat := if a < 512 then 2 * a else (2 * a) ^^^ 0x409

/-- a, α a, α² a, … -/
def symPowers : Nat → Nat → List Nat
  | 0, _ => []
  | n + 1, a => a :: symPowers n (symDouble a)

def symMul (a b : Nat) : Nat :=
  ((symPowers 10 a).mapIdx (fun (i : Nat) (x : Nat) => if b.testBit i then x else 0)).foldl (· ^^^ ·) 0

/-- A polynomial, lowest coefficient first, times x + r. -/
def symTimesRoot (p : List Nat) (r : Nat) : List Nat :=
  List.zipWith (· ^^^ ·) (0 :: p) (p.map (symMul r) ++ [0])

/-- The generator: the product of x + α^j for j from 0 to 29, lowest coefficient first. -/
def rsGenerator : List Nat := (symPowers 30 1).foldl symTimesRoot [1]

/-- Thirty coefficients as one number, ten bits each. -/
def rsPack (cs : List Nat) : Nat := cs.foldr (fun c t => c + 1024 * t) 0

/-- The generator without its leading term, times 1, α, …, α^9. -/
def rsSteps : List Nat := (symPowers 10 1).map (fun a => rsPack ((rsGenerator.take 30).map (symMul a)))

/-- One message symbol enters the division by the generator; `table` is rsSteps. -/
def rsStep (table : List Nat) (r m : Nat) : Nat :=
  let fb := m ^^^ (r / 2 ^ 290)
  (table.mapIdx (fun (i : Nat) (x : Nat) => if fb.testBit i then x else 0)).foldl (· ^^^ ·) (r * 1024 % 2 ^ 300)

/-- The n symbols of a message from bit 0 on. -/
def rsSymbols : Nat → Nat → List Nat
  | 0, _ => []
  | n + 1, v => v % 1024 :: rsSymbols n (v / 1024)

/-- The codeword of a message: its 514 symbols, then the remainder's 30, highest coefficient first. -/
def rsEncode (m : BitVec 5140) : BitVec 5440 :=
  let table := rsSteps
  let r := (rsSymbols 514 m.toNat).foldl (rsStep table) 0
  BitVec.ofNat 5440 (m.toNat + 2 ^ 5140 * rsPack (rsSymbols 30 r).reverse)

/-! ### Stripes (R408, R409) -/

/-- Bytes of the slot codes of L lanes. -/
def codeLength (lanes : Nat) : Nat := (20 * lanes + 7) / 8

/-- The message of one lane: its 20 bits of slot codes, then bytes b of the frame's flit stream with b mod L its number. -/
def laneMessage (lanes : Nat) (codes : Nat) (rows : List (List Byte)) (l : Nat) : BitVec 5140 :=
  BitVec.ofNat 5140 (codes / 2 ^ (20 * l) % 2 ^ 20 + 2 ^ 20 * ofLe (rows.map (fun row => nth 0#8 row (l % lanes))))

/-- The messages of a frame, from its bytes in the order of R411. -/
def laneMessages (lanes : Nat) (frame : List Byte) : List (BitVec 5140) :=
  let codes := ofLe (frame.take (codeLength lanes))
  let rows := chunks lanes 640 (frame.drop (codeLength lanes))
  (List.range lanes).map (laneMessage lanes codes rows)

/-- The lanes of a frame of so many bytes. -/
def frameLanes (frame : List Byte) : Nat := 2 * frame.length / 1285

/-- The codewords of a frame, lane by lane. -/
def laneCodewords (frame : List Byte) : List (BitVec 5440) := (laneMessages (frameLanes frame) frame).map rsEncode

/-- A frame's bytes in the order of R411, from the messages of its lanes. -/
def frameOfLanes (ms : List (BitVec 5140)) : List Byte :=
  leBytes (codeLength ms.length) (ms.foldr (fun m t => m.toNat % 2 ^ 20 + 2 ^ 20 * t) 0)
    ++ (List.range 640).flatMap (fun j => ms.map (fun m => BitVec.ofNat 8 (m.toNat / 2 ^ (20 + 8 * j))))

end Sys2Proof.Machine
end

