-- ==== Sys2Proof/Machine/SyncRows.lean ====
section
/-!
DEFINITION. Sys2Proof/Machine/SyncRows.lean: Equinox barriers and counters at work: signals and their refusals (R385, R406),
arrivals and rounds (R386 to R388, R390), counters and their waits (R395, R396), realignment (R397), and what the links'
sync channel brings (R392, R418).
-/
namespace Sys2Proof.Machine

/-! ### Signals (R385) -/

/-- Who sends an arrival: a context of this module, a context of another module, or the host (R384). -/
inductive Arriver where
  | ctx (k : Nat)
  | remote (m : Nat) (k : Option Nat)
  | host
  deriving DecidableEq, Repr

/-- ARRIVE's word, and PRODUCE's or CONSUME's. -/
def arriveWord (sense : Bool) : Nat := put (boolBit sense) 61 61
def countWord (consume : Bool) (n : Nat) : Nat := put (if consume then 2 else 1) 63 62 + put n 47 32

def sigKind (w : Nat) : Nat := fld w 63 62
def sigSense (w : Nat) : Bool := bitOf w 61
def sigN (w : Nat) : Nat := fld w 47 32

/-- The reserved fields of a signal word are zero, and its KIND is not reserved (R385); INDEX is a field of a host
signal only. -/
def sigOk (host : Bool) (w : Nat) : Bool :=
  sigKind w != 3 && fld w 60 48 == 0 && fld w 31 5 == 0 && (host || fld w 4 0 == 0) &&
  (if sigKind w = 0 then sigN w == 0 else !sigSense w && sigN w != 0)

/-! ### Counters (R395 to R397) -/

/-- The wait is satisfied (R396). -/
def waitMet (s : State) (c : Nat) (w : CtxWait) : Bool :=
  match w with
  | .data i n => decide ((n : Int) ≤ fillOf (ctrOf s c i))
  | .space i n => decide ((n : Int) ≤ (ctrSlack s c i : Int) - fillOf (ctrOf s c i))
  | .bar _ _ _ => false

/-- A satisfied wait of counter b of core c wakes its context. -/
def wakeCtr (c : Nat) (s : State) (k : Nat) : State :=
  match (ctxOf s k).wait with
  | some w => if waitMet s c w then setCtx s k { ctxOf s k with wait := none, mark := 1 } else s
  | none => s

/-- The waits of counter b of core c are evaluated (R396). -/
def evalCtr (s : State) (c b : Nat) : State := (ctrWaiters s c b).foldl (wakeCtr c) s

/-- PRODUCE or CONSUME of n units is applied; a fill level outside 0 to SLACK is counted (R395). -/
def homeCount (s : State) (c b : Nat) (consume : Bool) (n : Nat) : State :=
  let t := ctrOf s c b
  let u : CtrSt := if consume then { t with consumed := t.consumed + BitVec.ofNat 32 n }
                   else { t with produced := t.produced + BitVec.ofNat 32 n }
  let s1 := setCtr s c b u
  let f := fillOf u
  let s2 :=
    if f < 0 ∨ (ctrSlack s c b : Int) < f then
      let x := syncStatusOf s1 c
      countErr (setSyncStatus s1 c { x with faults := satTo 12 (x.faults + 1) }) (errCore c) catProtocol
    else s1
  evalCtr s2 c b

/-- Counter b realigns: the drift is judged, and the counter rebased (R397). -/
def realign (s : State) (c b : Nat) : State :=
  let slack := ctrSlack s c b
  let d := fillOf (ctrOf s c b) - (slack : Int)
  let s1 := setCtr s c b { produced := BitVec.ofNat 32 slack, consumed := 0#32 }
  let s2 :=
    if d = 0 then s1
    else
      let x := syncStatusOf s1 c
      countErr (setSyncStatus s1 c { x with drifts := satTo 12 (x.drifts + 1),
                                            lastDrift := BitVec.ofNat 64 (put b 36 32 + wrapTo 32 d) }) (errCore c) catProtocol
  evalCtr s2 c b

/-- Counters that a round of barrier b realigns. -/
def boundCounters (s : State) (c b round : Nat) : List Nat :=
  (List.range 32).filter (fun i =>
    let v := ctrCfg s c i
    bitOf v 26 && fld v 31 27 == b && round % fld v 25 16 == 0)

/-! ### Barriers (R387, R388, R390) -/

/-- A release has been sent to every context of this module that waits on a barrier with its sense: no later change of the
barrier takes it back (R388). -/
def oweRelease (s : State) (name : Nat) (sense : Bool) : State :=
  ((barContexts s name).filter (fun k => match (ctxOf s k).wait with | some (.bar _ _ t) => t == sense | _ => false)).foldl
    (fun s k => setCtx s k { ctxOf s k with owed := true }) s

/-- A round of barrier b of core c completes: realignment, then the release to other modules and to this module's own
cores, which receive theirs by RELEASE_RECEIVE. -/
def roundComplete (s : State) (c b : Nat) : State :=
  let x := barOf s c b
  let round := (x.round + 1) % 2 ^ 16
  let s1 := setBar s c b { x with sense := !x.sense, arrived := 0, round := round, hostArrivals := 0 }
  let s2 := (boundCounters s1 c b round).foldl (fun s i => realign s c i) s1
  let s3 := oweRelease s2 (barName (moduleId s) c b) (!x.sense)
  (remoteModules s3 c b).foldl (fun s m =>
    sendSync s m (syncFlit s 0x11 m (objWord c b false 0) (boolBit (!x.sense)))) s3

/-- The home refuses an arrival (R390): a context of this module will receive the refusal, one of another module is sent
it, a host arrival is counted only. -/
def overArrival (s : State) (src : Arriver) (c b : Nat) : State :=
  let x := barOf s c b
  let y := syncStatusOf s c
  let s1 := setSyncStatus (setBar s c b { x with overs := satTo 8 (x.overs + 1) }) c { y with overs := satTo 16 (y.overs + 1) }
  match src with
  | .ctx k => setCtx s1 k { ctxOf s1 k with mark := 4 }
  | .remote m (some k) => sendSync s1 m (syncFlit s1 0x12 m (objWord c b false k) 0)
  | .remote _ none => s1
  | .host => s1

/-- An ARRIVE at its home (R387). -/
def homeArrive (s : State) (src : Arriver) (c b : Nat) (sense : Bool) : State :=
  let x := barOf s c b
  let n := barCount s c b
  if sense = x.sense ∨ n = 0 then overArrival s src c b
  else
    let host := match src with | .host => 1 | _ => 0
    let s1 := setBar s c b { x with arrived := x.arrived + 1, hostArrivals := x.hostArrivals + host }
    if x.arrived + 1 = n then roundComplete s1 c b else s1

/-- A signal word reaches object b of core c: `ctr` says which kind of object the address names (R385). -/
def homeSignal (s : State) (src : Arriver) (c b : Nat) (ctr host : Bool) (w : Nat) : State :=
  if !sigOk host w || (sigKind w == 0) == ctr then syncRefused s c
  else if sigKind w = 0 then homeArrive s src c b (sigSense w)
  else homeCount s c b (sigKind w == 2) (sigN w)

/-! ### The rows -/

/-- A wait that a context of the home core makes on a counter (R396). -/
def makeWait (c b : Nat) (s : State) (w : CtrWait) : State :=
  let k := 4 * c + w.ctx % 4
  let x := if w.space then CtxWait.space b w.n else CtxWait.data b w.n
  if (ctxOf s k).wait.isSome then s
  else wakeCtr c (setCtx s k { ctxOf s k with wait := some x, mark := 0 }) k

/-- The device address of an object in the sync window, as offset in its peer window (R385, R528). -/
def peerObject (c b : Nat) (ctr : Bool) : Nat := 0xF600000000 + c * 0x1000 + (if ctr then 0x800 else 0) + b * 0x40

/-- A packet of a command of partition n. -/
def sentBy (s : State) (n : Nat) (slot : Option Nat) : Bool := match slot with | some k => slotPart s k == n | none => false

/-- Writes of core c's partition that have not been accepted at their destination on another module (R393): held, waiting
for their pair, sent and not yet released there, or multicast and not yet granted. -/
def writesOut (s : State) (c : Nat) : Bool :=
  match partOfCore s c with
  | none => false
  | some n =>
    s.net.held.any (fun h => sentBy s n h.pkt.slot) || s.net.mcast.any (fun t => sentBy s n t.slot) ||
    s.net.tx.any (fun t => t.2.sent.any (sentBy s n) || t.2.waiting.any (fun p => sentBy s n p.slot))

/-- ARRIVE: context k inverts its local sense for barrier b of core c of module m and waits (R386). The signal goes to the
home: at once on this module, else as a sync flit or as an announce write (R392). On this module an announce is held while
earlier writes of the core are not accepted (R393), and the row is given again. -/
def doArrive (k m c b : Nat) (announce : Bool) (s : State) : State :=
  let x0 := ctxOf s k
  let name := barName m c b
  if 4 * logicalCores s ≤ k ∨ 32 ≤ b ∨ (m = moduleId s ∧ logicalCores s ≤ c) then s
  else if x0.held = true ∧ waitsOn x0 name = true then
    if writesOut s (k / 4) then s
    else homeArrive (setCtx s k { x0 with held := false }) (.ctx k) c b (senseOf x0 name)
  else if x0.wait.isSome then s
  else
    let x := flipSense x0 name
    let t := senseOf x name
    let y : CtxSt := { x with wait := some (.bar (m * 2048 + c) b t), mark := 0, owed := false, held := false }
    let s1 := setCtx s k y
    if m = moduleId s then
      if announce = true ∧ writesOut s (k / 4) = true then setCtx s k { y with held := true }
      else homeArrive s1 (.ctx k) c b t
    else if announce then
      peerAnnounceTag s1 m (peerObject c b false) (BitVec.ofNat 64 (arriveWord t)) (opSlot s (k / 4)) (k + 1)
    else sendSync s1 m (syncFlit s1 0x10 m (objWord c b false k) (arriveWord t))

/-- PRODUCE or CONSUME by a context of this module, of core `src` where it goes as an announce. From here a counter of
another module is reached by an announce write (R392); an announce on this module is held while earlier writes of its core
are not accepted (R393), and the row is given again. `waits` are the waits that contexts of the home core make before it
(R396); with them and no units the row makes the waits alone. -/
def doCount (consume : Bool) (m c b n : Nat) (src : Option Nat) (waits : List CtrWait) (s : State) : State :=
  if 32 ≤ b ∨ (m = moduleId s ∧ logicalCores s ≤ c) then s
  else if m ≠ moduleId s then
    peerAnnounce s m (peerObject c b true) (BitVec.ofNat 64 (countWord consume (n % 2 ^ 16))) (src.bind (opSlot s))
  else
    let s1 := waits.foldl (makeWait c b) s
    if n = 0 ∧ waits ≠ [] then s1
    else if (match src with | some d => writesOut s d | none => false) = true then s1
    else homeSignal s1 .host c b true false (countWord consume (n % 2 ^ 16))

/-- A host write of a signal word to SYNC_ARRIVE_c (R405). -/
def doHostSignal (c : Nat) (w : BitVec 64) (s : State) : State :=
  if logicalCores s ≤ c then s
  else homeSignal s .host c (fld w.toNat 4 0) (sigKind w.toNat != 0) true w.toNat

/-- Core `at_` receives the release of barrier b of core c of module m: each waiting context with that target sense is
woken (R388). Only a release that was sent wakes: the last one, or one that is still on its way to the context. -/
def doReleaseReceive (at_ m c b : Nat) (sense : Bool) (s : State) : State :=
  let name := barName m c b
  let sent := if m = moduleId s then (barOf s c b).sense == sense else s.sync.remoteReleases.contains (name, sense)
  ((barContexts s name).filter (fun k => k / 4 == at_ && (sent || (ctxOf s k).owed))).foldl (fun s k =>
    let x := ctxOf s k
    match x.wait with
    | some (.bar _ _ t) =>
      if t = sense ∧ x.held = false then setCtx s k { x with wait := none, mark := if x.mark = 4 then 5 else 1, owed := false } else s
    | _ => s) s

/-- Context k receives the refusal of its arrival (R390). -/
def doRefusalReceive (k m c b : Nat) (s : State) : State :=
  let x := ctxOf s k
  let waits := match x.wait with | some (.bar mc j _) => decide (mc * 32 + j = barName m c b) | _ => false
  if (x.mark ≠ 4 ∨ waits = false) ∧ x.mark ≠ 5 then s
  else
    let y := flipSense { x with wait := if x.mark = 4 then none else x.wait, mark := 2, owed := false } (barName m c b)
    flagOp (setCtx s k y) (k / 4) stOverArrival

/-! ### Sync flits (R418) -/

def freeSync (s : State) (l : Nat) (rest : List (BitVec 512)) : State :=
  let x := linkOf s l
  setLink s l { x with rxSync := rest, freedSync := x.freedSync + 1 }

/-- A SIGNAL of another module reaches its home (R385, R392). -/
def signalLands (s : State) (src obj : Nat) (w : Nat) : State :=
  let c := fld obj 10 0
  if bitOf obj 16 then syncRefused s c else homeSignal s (.remote src (some (fld obj 31 17))) c (fld obj 15 11) false false w

/-- The sync flit at the head of link l's buffer, if it is not of a type that has a row of its own. -/
def doSyncFlitReceive (l : Nat) (s : State) : State :=
  match (linkOf s l).rxSync with
  | [] => s
  | f :: rest =>
    let typ := flitByte f 0 0
    let dst := flitByte f 1 1
    let src := flitByte f 2 2
    let obj := flitByte f 4 7
    let w := flitByte f 8 15
    let c := fld obj 10 0
    let b := fld obj 15 11
    if typ = 0x18 ∨ typ = 0x19 ∨ typ = 0x1A then s
    else
      let s1 := freeSync s l rest
      if typ ≠ 0x10 ∧ typ ≠ 0x11 ∧ typ ≠ 0x12 ∧ typ ≠ 0x13 then
        setLink s1 l { linkOf s1 l with formatDrops := satTo 32 ((linkOf s1 l).formatDrops + 1) }
      else if dst ≠ moduleId s then sendSync s1 dst f
      else
        match typ with
        | 0x10 =>
          if logicalCores s ≤ c then s1
          else
            match partOfCore s c with
            | some n =>
              if replays s n then ignoreEvent s1
              else signalLands (recordEntry s1 6 n src (leBytes 64 f.toNat)) src obj w
            | none => signalLands s1 src obj w
        | 0x11 =>
          let name := barName src c b
          let old := s1.sync.remoteReleases.filter (fun r => r.1 != name)
          oweRelease { s1 with sync := { s1.sync with remoteReleases := old ++ [(name, bitOf w 0)] } } name (bitOf w 0)
        | 0x12 =>
          let k := fld obj 31 17
          match (ctxOf s1 k).wait with
          | some (.bar mc j _) =>
            if mc * 32 + j = barName src c b then setCtx s1 k { ctxOf s1 k with mark := 4 } else s1
          | _ => setCtx s1 k { ctxOf s1 k with mark := 5 }
        | _ => (barWaiters s1 (barName src c b)).foldl abandonCtx s1

end Sys2Proof.Machine
end

