-- ==== Sys2Proof/Machine/LinkRows.lean ====
section
/-!
DEFINITION. Sys2Proof/Machine/LinkRows.lean: the links at work: frames, CRC and replay (R408 to R413), lanes and training
(R421, R422), the data channel at its receiver (R414 to R417), RELEASED and multicast flits (R426 to R428), and routes
(R423). Link events are those of R434 and R504.
-/
namespace Sys2Proof.Machine

/-! ### Events and states -/

def laneCount (x : LinkSt) : Nat := popUpTo 8 x.laneMask

/-- LANES as LNK_STATUS reports it. -/
def lanesIn (x : LinkSt) : Nat := laneCount x

/-- LINK_EVENT of link l (R504). -/
def linkEvent (s : State) (l sub : Nat) : State :=
  let x := linkOf s l
  let base := msgAt 20 1 x.peerModule + msgAt 21 1 x.peerLink + msgAt 22 1 (lanesIn x) + msgAt 23 1 x.state
  let more := match sub with
    | 3 => msgAt 24 1 x.laneMask + msgAt 28 4 x.delay
    | 4 => msgAt 24 1 x.peerDomain + msgAt 25 1 x.peerLeader
    | _ => 0
  sendMsg s 0x06 sub l (base + more)

def evUp : Nat := 1
def evDown : Nat := 2
def evDegraded : Nat := 3
def evMiswired : Nat := 4
def evRetrain : Nat := 5
def evRouteLost : Nat := 6
def evMcastRetry : Nat := 7
def evJoinStep : Nat := 8

/-- Held packets whose route has a link again go on (R423). -/
def releaseHeld (s : State) : State :=
  let go := s.net.held.filter (fun h => !(upRoute s h.pkt.dst).isEmpty)
  let s1 := { s with net := { s.net with held := s.net.held.filter (fun h => (upRoute s h.pkt.dst).isEmpty) } }
  go.foldl (fun s h => forward (freeHeld s h) h.pkt) s1

/-- LNK_CTRL_l.MAX_LANES (R432): the register, which LINK_TOPOLOGY sets at its commit. -/
def maxLanes (s : State) (l : Nat) : Nat := regActive s (0x00A00008 + 0x100 * l) 8 % 16

/-! ### Training (R422) -/

/-- Full training of link l starts. -/
def startTraining (s : State) (l : Nat) : State :=
  linkEvent (setLink s l { linkOf s l with state := 2, trained := false, laneMask := 0 }) l evRetrain

/-- The command of slot k waits no longer for links. -/
def dropTrainer (s : State) (k : Nat) : State :=
  (List.range 32).foldl (fun s l =>
    let x := linkOf s l
    if x.trainers.contains k then setLink s l { x with trainers := x.trainers.filter (· != k) } else s) s

/-- Commands that waited for link l end with LINK_DOWN (R430). -/
def failTrainers (s : State) (l : Nat) : State :=
  (linkOf s l).trainers.foldl (fun s k => complete (dropTrainer s k) k (doneWith stLinkDown 0)) s

/-- Link l is up: a command whose links are all up completes (R430). -/
def joinTrainers (s : State) (l : Nat) : State :=
  let ks := (linkOf s l).trainers
  let s1 := setLink s l { linkOf s l with trainers := [] }
  ks.foldl (fun s k =>
    if (List.range 32).any (fun i => (linkOf s i).trainers.contains k) then s else completeAs s k stOk 0) s1

/-- A link that was up goes down and starts full training at once (R421, R422). -/
def linkFails (s : State) (l : Nat) : State :=
  let s1 := setLink s l { linkOf s l with state := 1, laneMask := 0, trained := false }
  requeue (startTraining (countErr (linkEvent s1 l evDown) errLink catHard) l) l

/-- The HELLO of this module on link l (R422, R428; log entry 16). -/
def helloFlit (s : State) (l : Nat) : BitVec 512 :=
  let f := s.image.force
  mgmtFlit s 0x20 (linkTopo s l).peer
    (l + domainSize s * 2 ^ 8 + (match f with | some f => f.leader | none => 0) * 2 ^ 16)

def sendHello (s : State) (l : Nat) : State :=
  setLink s l { linkOf s l with txMgmt := (linkOf s l).txMgmt ++ [helloFlit s l] }

/-- A link after training starts with full credits and a new frame sequence (R413). -/
def freshLink (x : LinkSt) (mask : Nat) : LinkSt :=
  { x with trained := true, laneMask := mask, txSeq := 0#32, rxSeq := 0xFFFFFFFF#32, unacked := [], resend := [],
           resends := [], nakDue := false, degradeReq := none, switchAt := none, switchOurs := false, creditData := 1536, creditResp := 512,
           creditSync := 32, creditMgmt := 128, freedData := 0, freedResp := 0, freedSync := 0, freedMgmt := 0,
           txCur := [], rxData := [], rxSync := [], rxMgmt := [], reqOut := none, reqIn := [] }

/-- Held packets hold no buffer of a link whose buffers start empty. -/
def dropVia (s : State) (l : Nat) : State :=
  { s with net := { s.net with held := s.net.held.map (fun h => if h.via = some l then { h with via := none } else h) } }

/-- Training of link l ends (R422). One that fails, or whose HELLO has not brought the link up in time, ends the
commands that wait for it. -/
def doTrainingDone (l : Nat) (ok : Bool) (mask : BitVec 8) (s : State) : State :=
  let x := linkOf s l
  let n := popUpTo 8 mask.toNat
  if 32 ≤ l then s
  else if x.state = 2 ∧ !x.trained ∧ ok = true ∧ (n = 8 ∨ n = 6 ∨ n = 4) ∧ n ≤ maxLanes s l then
    sendHello (setLink (dropVia s l) l (freshLink x mask.toNat)) l
  else if x.state = 2 ∧ ok = false then
    let s1 := setLink s l { x with state := 1, trained := false, laneMask := 0, everUp := x.everUp && x.trainers.isEmpty }
    failTrainers (linkEvent s1 l evDown) l
  else if x.state = 4 ∧ ok = false then failTrainers s l
  else s

/-- A link that was up and is down retrains (R422). -/
def doTrainingRetry (l : Nat) (s : State) : State :=
  if l < 32 ∧ (linkOf s l).state = 1 ∧ (linkOf s l).everUp = true then startTraining s l else s

/-- The peer's HELLO agrees with LINK_TOPOLOGY (R422). -/
def helloAgrees (s : State) (l : Nat) : Bool :=
  let x := linkOf s l
  let t := linkTopo s l
  x.peerModule == t.peer && x.peerLink == t.peerLink && x.peerDomain == domainSize s &&
    x.peerLeader == (match s.image.force with | some f => f.leader | none => 0)

/-- The HELLO comparison decides the link's state. -/
def judgeHello (s : State) (l : Nat) : State :=
  let x := linkOf s l
  if helloAgrees s l then
    joinTrainers (releaseHeld (linkEvent (setLink s l { x with state := 3, everUp := true }) l evUp)) l
  else if x.state = 4 then s
  else linkEvent (setLink s l { x with state := 4 }) l evMiswired

def freeMgmt (s : State) (l : Nat) (rest : List (BitVec 512)) : State :=
  let x := linkOf s l
  setLink s l { x with rxMgmt := rest, freedMgmt := x.freedMgmt + 1 }

/-- The management flit at the head of link l, when it has type t. -/
def mgmtHead (s : State) (l t : Nat) : Option (BitVec 512 × State) :=
  match (linkOf s l).rxMgmt with
  | [] => none
  | f :: rest => if flitByte f 0 0 = t then some (f, freeMgmt s l rest) else none

/-- A HELLO arrives (R422). -/
def doHello (l : Nat) (s : State) : State :=
  match mgmtHead s l 0x20 with
  | none => s
  | some (f, s1) =>
    let x := linkOf s1 l
    let s2 := setLink s1 l { x with peerModule := flitByte f 2 2, peerLink := flitByte f 4 4, peerDomain := flitByte f 5 5,
                                    peerLeader := flitByte f 6 6 }
    if (x.state = 2 ∧ x.trained = true) ∨ x.state = 4 then judgeHello s2 l else s2

def doHelloResend (l : Nat) (s : State) : State := if (linkOf s l).state = 4 then sendHello s l else s

/-! ### Frames (R408 to R411) -/

/-- What a transmitter puts into one slot. -/
structure SlotFill where
  code : Nat
  flit : BitVec 512
  link : LinkSt
  deriving DecidableEq, Repr

/-- The link carries nothing but HELLO: it is not up (R422). -/
def helloOnly (x : LinkSt) : Bool := x.state != 3

/-- The data flit that may go next: the packet in progress, else a response, else another packet, each begun only against
credit for all of it (R413, R417). -/
def nextData (x : LinkSt) : Option (BitVec 512 × LinkSt) :=
  match x.txCur with
  | f :: rest => some (f, { x with txCur := rest })
  | [] =>
    match x.txResp with
    | (f :: fs) :: more =>
      if fs.length + 1 ≤ x.creditResp then
        some (f, { x with txCur := fs, txResp := more, creditResp := x.creditResp - (fs.length + 1) })
      else dataOnly x
    | _ => dataOnly x
where
  /-- The next packet that is no response. -/
  dataOnly (x : LinkSt) : Option (BitVec 512 × LinkSt) :=
    match x.txData with
    | (f :: fs) :: more =>
      if fs.length + 1 ≤ x.creditData then
        some (f, { x with txCur := fs, txData := more, creditData := x.creditData - (fs.length + 1) })
      else none
    | _ => none

/-- One slot is filled: SYNC, else MGMT, else DATA, else IDLE (R409). -/
def fillSlot (x : LinkSt) : SlotFill :=
  match x.txMgmt, x.txSync, helloOnly x with
  | f :: rest, _, true =>
    if flitByte f 0 0 = 0x20 ∧ 0 < x.creditMgmt then
      { code := 3, flit := f, link := { x with txMgmt := rest, creditMgmt := x.creditMgmt - 1 } }
    else { code := 0, flit := 0#512, link := x }
  | [], _, true => { code := 0, flit := 0#512, link := x }
  | ms, ss, false =>
    match ss with
    | f :: rest => if 0 < x.creditSync then { code := 2, flit := f, link := { x with txSync := rest, creditSync := x.creditSync - 1 } }
                   else mgmtOr x ms
    | [] => mgmtOr x ms
where
  /-- MGMT, else DATA, else IDLE. -/
  mgmtOr (x : LinkSt) (ms : List (BitVec 512)) : SlotFill :=
    match ms with
    | f :: rest => if 0 < x.creditMgmt then { code := 3, flit := f, link := { x with txMgmt := rest, creditMgmt := x.creditMgmt - 1 } }
                   else dataOr x
    | [] => dataOr x
  /-- DATA, else IDLE. -/
  dataOr (x : LinkSt) : SlotFill :=
    match nextData x with
    | some (f, y) => { code := 1, flit := f, link := y }
    | none => { code := 0, flit := 0#512, link := x }

/-- n slots in turn. -/
def fillSlots : Nat → LinkSt → List (Nat × BitVec 512) × LinkSt
  | 0, x => ([], x)
  | n + 1, x =>
    let a := fillSlot x
    let r := fillSlots n a.link
    ((a.code, a.flit) :: r.1, r.2)

/-- Slot codes of a frame as bytes: 20 bits per lane, lane 0 lowest (R409, R411). -/
def codeBytes (codes : List Nat) : List Byte :=
  let v := (codes.foldr (fun c t => c + 4 * t) 0)
  leBytes ((codes.length * 2 + 7) / 8) v

/-- Bytes 0 to 55 of the link flit (R410). -/
def linkFlitHead (x : LinkSt) (seq : BitVec 32) (retrain : Bool) : List Byte :=
  let req := match x.degradeReq with | some _ => 1 | none => 0
  let ours := if x.switchOurs then x.switchAt else none
  let ack := match ours with | some _ => 1 | none => 0
  let mask := match ours, x.degradeReq with | some w, _ => w.2 | none, some m => m | none, none => 0
  let sw := match ours with | some w => w.1.toNat | none => 0
  leBytes 4 seq.toNat ++ leBytes 4 x.rxSeq.toNat
    ++ leBytes 1 (boolBit x.nakDue + 2 * req + 4 * ack + 8 * boolBit retrain) ++ leBytes 1 mask ++ leBytes 4 sw
    ++ leBytes 2 x.freedData ++ leBytes 2 x.freedResp ++ leBytes 2 x.freedSync ++ leBytes 2 x.freedMgmt
    ++ List.replicate 34 0#8

/-- A whole frame: slot codes, flit slots, link flit with its CRC (R411). -/
def frameBytes (x : LinkSt) (seq : BitVec 32) (fills : List (Nat × BitVec 512)) : List Byte :=
  let body := codeBytes (fills.map Prod.fst ++ [3]) ++ fills.flatMap (fun f => leBytes 64 f.2.toNat)
    ++ linkFlitHead x seq false
  body ++ leBytes 8 (crc64 body)

/-- The link sends frames. -/
def sendsFrames (x : LinkSt) : Bool := x.state == 3 || x.state == 4 || (x.state == 2 && x.trained)

/-- A link whose frame has been resent 16 times without acknowledgement retrains fast (R412). -/
def fastRetrain (s : State) (l : Nat) : State :=
  let x := linkOf s l
  requeue (countErr (linkEvent (setLink s l { x with state := 5, retrains := satTo 8 (x.retrains + 1) }) l evRetrain)
    errLink catHard) l

/-- ns in which the link sent no traffic flit (R433). -/
def addStallNs (s : State) (l n : Nat) : State :=
  let x := linkOf s l
  if n = 0 then s else setLink s l { x with stallNs := BitVec.ofNat 64 (satTo 64 (x.stallNs.toNat + n)) }

/-- One frame leaves (R409): a kept frame while a replay runs, else a new one, as long as fewer than 64 are kept.
`stall` counts the ns that a replay took before it (R433). -/
def doFrameSend (l stall : Nat) (s0 : State) : State :=
  let s := if l < 32 then addStallNs s0 l stall else s0
  let x := linkOf s l
  if 32 ≤ l ∨ sendsFrames x = false then s
  else
    match x.resend with
    | f :: rest => emit (setLink s l { x with resend := rest }) (.linkFrame l (laneCodewords f))
    | [] =>
      if 64 ≤ x.unacked.length || (x.switchOurs && (x.switchAt.map Prod.fst == some x.txSeq)) then s
      else
        let r := fillSlots (10 * laneCount x - 1) x
        let y := r.2
        let f := frameBytes y y.txSeq r.1
        let z := { y with txSeq := y.txSeq + 1#32, unacked := y.unacked ++ [(y.txSeq, f)], resends := y.resends ++ [0], nakDue := false,
                          freedData := 0, freedResp := 0, freedSync := 0, freedMgmt := 0 }
        emit (setLink s l z) (.linkFrame l (laneCodewords f))

/-- Frames kept after ACK_SEQ. -/
def keptAfter (ack : BitVec 32) (kept : List (BitVec 32 × List Byte)) : List (BitVec 32 × List Byte) :=
  kept.filter (fun f => 0 < (f.1 - ack).toNat && (f.1 - ack).toNat < 2 ^ 31)

/-- A management flit's type is one of R428's. -/
def mgmtKnown (f : BitVec 512) : Bool := 0x20 ≤ flitByte f 0 0 && flitByte f 0 0 ≤ 0x26

/-- A management flit is taken into the buffer, passed on by route, or dropped for a reserved type (R428). -/
def takeMgmt (s : State) (l : Nat) (f : BitVec 512) : State :=
  let x := linkOf s l
  if !mgmtKnown f then
    setLink s l { x with formatDrops := satTo 32 (x.formatDrops + 1), freedMgmt := x.freedMgmt + 1 }
  else if flitByte f 0 0 ≠ 0x20 ∧ flitByte f 1 1 ≠ moduleId s then
    sendMgmt (setLink s l { x with freedMgmt := x.freedMgmt + 1 }) (flitByte f 1 1) f
  else setLink s l { x with rxMgmt := x.rxMgmt ++ [f] }

/-- The flits of an accepted frame are delivered. -/
def deliverSlot (l : Nat) (s : State) (cf : Nat × BitVec 512) : State :=
  let x := linkOf s l
  match cf.1 with
  | 1 => setLink s l { x with rxData := x.rxData ++ [cf.2] }
  | 2 => setLink s l { x with rxSync := x.rxSync ++ [cf.2] }
  | 3 => takeMgmt s l cf.2
  | _ => s

/-- The link flit's own part: acknowledgement, NAK, credits and lane requests (R410, R411, R421). -/
def takeLinkFlit (s : State) (l : Nat) (h : List Byte) : State :=
  let w := fun (lo hi : Nat) => payFld' h lo hi
  let x := linkOf s l
  let ack := BitVec.ofNat 32 (w 4 7)
  let flags := w 8 8
  let kept := keptAfter ack x.unacked
  let counts := x.resends.drop (x.unacked.length - kept.length)
  let nak := bitOf flags 0
  let y := { x with
    unacked := kept
    resend := if nak then kept.map Prod.snd else x.resend
    resends := if nak then counts.map (· + 1) else counts
    replays := if nak then satTo 16 (x.replays + 1) else x.replays
    creditData := min 1536 (x.creditData + w 14 15)
    creditResp := min 512 (x.creditResp + w 16 17)
    creditSync := min 32 (x.creditSync + w 18 19)
    creditMgmt := min 128 (x.creditMgmt + w 20 21)
    switchAt := if bitOf flags 1 ∧ x.switchAt.isNone = true then some (x.txSeq + 64#32, w 9 9)
                else if bitOf flags 2 ∧ x.switchAt.isNone = true then some (BitVec.ofNat 32 (w 10 13), w 9 9)
                else x.switchAt
    switchOurs := if bitOf flags 1 ∧ x.switchAt.isNone = true then true else x.switchOurs
    degradeReq := if bitOf flags 2 then none else x.degradeReq }
  let s1 := setLink s l y
  let s2 := if nak then countErr s1 errLink catCorrected else s1
  if (nak && counts.any (fun n => 16 ≤ n)) || bitOf flags 3 then fastRetrain s2 l else s2
where
  /-- Bytes lo .. hi of the link flit. -/
  payFld' (h : List Byte) (lo hi : Nat) : Nat := ofLe ((h.drop lo).take (hi + 1 - lo))

/-- A frame of n lanes can be one of the link: it has the lanes in use, or it was first sent before the link lost lanes and is
resent in the layout it has (R412, R421; DESIGN CHOICE, log entry 16). -/
def takesLanes (x : LinkSt) (n : Nat) : Bool := n == laneCount x || (laneCount x < n && (n == 8 || n == 6))

/-- A frame arrives (R411): `decoded` says that every codeword decodes, `corrected` how many symbols the FEC corrected, and
`ms` are the messages decoded from the lanes. -/
def doFrameReceive (l : Nat) (decoded : Bool) (corrected : Nat) (ms : List (BitVec 5140)) (s : State) : State :=
  let x := linkOf s l
  if 32 ≤ l ∨ sendsFrames x = false then s
  else
    let lanes := ms.length
    let bytes := frameOfLanes ms
    let codeLen := codeLength lanes
    let slots := 10 * lanes
    let size := codeLen + 64 * slots
    let x1 := { x with fec := BitVec.ofNat 64 (satTo 64 (x.fec.toNat + corrected)) }
    if decoded = false then setLink s l { x1 with fecUnc := satTo 16 (x.fecUnc + 1), nakDue := true }
    else
      let body := bytes.take (size - 8)
      let link := (bytes.drop (codeLen + 64 * (slots - 1))).take 56
      let crc := ofLe ((bytes.drop (size - 8)).take 8)
      if takesLanes x lanes = false ∨ crc64 body ≠ crc then
        countErr (setLink s l { x1 with crcFails := satTo 16 (x.crcFails + 1), nakDue := true }) errLink catCorrected
      else if BitVec.ofNat 32 (ofLe (link.take 4)) ≠ x.rxSeq + 1#32 then setLink s l x1
      else
        let codes := ofLe (bytes.take codeLen)
        let flits := (chunks 64 slots (bytes.drop codeLen)).take (slots - 1)
        let fills := flits.mapIdx (fun (i : Nat) (bs : List Byte) =>
          (fld codes (2 * i + 1) (2 * i), BitVec.ofNat 512 (ofLe bs)))
        let s1 := setLink s l { x1 with rxSeq := x.rxSeq + 1#32, nakDue := false }
        takeLinkFlit (fills.foldl (deliverSlot l) s1) l link

/-- A fast retrain ends: kept frames are resent, or full training starts (R412). -/
def doFastRetrainDone (l : Nat) (ok : Bool) (stall : Nat) (s0 : State) : State :=
  let s := if l < 32 then addStallNs s0 l stall else s0
  let x := linkOf s l
  if 32 ≤ l ∨ x.state ≠ 5 then s
  else if ok then
    releaseHeld (linkEvent (setLink s l { x with state := 3, resend := x.unacked.map Prod.snd, resends := x.unacked.map (fun _ => 0) }) l evUp)
  else startTraining s l

/-! ### Lanes (R421) -/

/-- The lowest n of the lanes in mask. -/
def lowestLanes (n mask : Nat) : Nat := ((bitList 8 mask).take n).foldl (fun t i => t + 2 ^ i) 0

/-- A receiver finds a failed lane; `good` are the lanes that work. -/
def doLaneFail (l : Nat) (good : BitVec 8) (s : State) : State :=
  let x := linkOf s l
  let m := good.toNat &&& x.laneMask
  let n := popUpTo 8 m
  if 32 ≤ l ∨ x.state ≠ 3 ∨ m = x.laneMask then s
  else if 6 ≤ n then setLink s l { x with degradeReq := some (lowestLanes 6 m) }
  else if 4 ≤ n then setLink s l { x with degradeReq := some (lowestLanes 4 m) }
  else linkFails s l

/-- SWITCH_SEQ is reached: by the frames this side sent where it named SWITCH_SEQ, by those it took where the peer did. The
failed lane can keep it from being reached, when 64 frames wait for acknowledgement or a frame did not arrive well: the change
may then come at once (DESIGN CHOICE, log entry 16). -/
def switchReached (x : LinkSt) (w : BitVec 32 × Nat) : Bool :=
  if x.switchOurs then (x.txSeq - w.1).toNat < 2 ^ 31 || 64 ≤ x.unacked.length
  else (x.rxSeq + 1#32 - w.1).toNat < 2 ^ 31 || x.nakDue

/-- Both sides change lane set at SWITCH_SEQ; the delay is measured again (R50, R421). -/
def doLaneSwitch (l stall : Nat) (s0 : State) : State :=
  let s := if l < 32 then addStallNs s0 l stall else s0
  let x := linkOf s l
  match x.switchAt with
  | none => s
  | some w =>
    if switchReached x w = false then s
    else
    let y := { x with laneMask := w.2, switchAt := none, switchOurs := false, degradeReq := none, degrades := satTo 8 (x.degrades + 1) }
    let s1 := countErr (linkEvent (setLink s l y) l evDegraded) errLink catHard
    let f := syncFlit s1 0x19 (linkTopo s1 l).peer 0 s1.time.count.toNat
    setLink s1 l { linkOf s1 l with txSync := f :: (linkOf s1 l).txSync, reqOut := some (s1.time.count, 0) }

/-! ### The data channel at a receiver (R415, R416) -/

/-- The partition in which a packet's bytes land (R488): a scratchpad's, a die's, or a listed HBM range's. -/
def landsIn (s : State) (a : Nat) : Option Nat :=
  match region s.fuse.grade a with
  | .scratch c _ | .bitSet c _ | .bitClear c _ => partOfCore s c
  | .sram d _ =>
    match s.image.force with
    | none => none
    | some f => ((f.parts.filter (fun p => (shapeDies p.2.shape).contains d)).head?).map Prod.fst
  | .hbm =>
    if (replayOf s).ranges.any (fun r => r.1 ≤ a && a < r.1 + r.2) then (bitList 64 (replayOf s).mask.toNat).head? else none
  | _ => none

/-- A packet's data is written at its target (R414, R528). -/
def landWrite (s : State) (p : Packet) : State :=
  match region s.fuse.grade p.addr with
  | .events => countErr s errFe catProtocol
  | _ => if isLocal s.fuse.grade p.addr then noteMoved (localWrite s ownDma p.addr p.data).2 (poisonUnits p.data) else s

/-- The bytes of a buffer reserved for a multicast transfer are used up (R426). -/
def useBuffer (s : State) (src : Nat) (id : BitVec 32) (n : Nat) : State :=
  let bs := s.net.buffers.map (fun b => if b.1 = src ∧ b.2.1 = id then (b.1, b.2.1, b.2.2 - n) else b)
  { s with net := { s.net with buffers := bs.filter (fun b => b.2.2 != 0) } }

/-- Waiting reservations are granted while buffers are free (R426). -/
def grantUpTo : Nat → State → State
  | 0, s => s
  | fuel + 1, s =>
    match s.net.reserves with
    | [] => s
    | r :: rest =>
      if 16 ≤ s.net.buffers.length then s
      else
        let s1 := { s with net := { s.net with reserves := rest, buffers := s.net.buffers ++ [r] } }
        grantUpTo fuel (sendMgmt s1 r.1 (mgmtFlit s1 0x23 r.1 r.2.1.toNat))

def grantBuffers (s : State) : State := grantUpTo 17 s

/-- A packet is released to its target in pair order (R415). A replay supplies the link data of its partitions. -/
def releasePacket (s : State) (p : Packet) : State :=
  let x := pairRxOf s p.src
  match p.typ with
  | 1 | 5 =>
    let s1 :=
      match landsIn s p.addr with
      | some n =>
        if replays s n then ignoreEvent s
        else landWrite (recordEntry s 5 n p.src ((packetFlits p).flatMap (fun f => leBytes 64 f.toNat))) p
      | none => landWrite s p
    if p.typ = 5 then grantBuffers (useBuffer s1 p.src (BitVec.ofNat 32 p.tag) p.data.length) else s1
  | 2 | 3 | 4 => setPairRx s p.src { x with announce := x.announce ++ [p] }
  | _ => s

/-- A packet's write meets a bank that a pending hand-over holds: it waits in the reorder window (R372). -/
def packetHeld (s : State) (p : Packet) : Bool :=
  (p.typ == 1 || p.typ == 5) && isLocal s.fuse.grade p.addr && dmaHeld s p.addr p.data.length

/-- The packets that stand next in their pair are released; `fuel` bounds them. -/
def releaseWindow : Nat → State → Nat → State
  | 0, s, _ => s
  | fuel + 1, s, m =>
    let x := pairRxOf s m
    match x.window.find? (fun p => BitVec.ofNat 16 p.seq == x.next) with
    | none => s
    | some p =>
      if packetHeld s p then s
      else
      let s1 := setPairRx s m { x with next := x.next + 1#16, window := x.window.filter (· != p),
                                       unreported := x.unreported + 1 }
      releaseWindow fuel (releasePacket s1 p) m

/-- Every pair's packets that may be released now. -/
def releaseAll (s : State) : State := (s.net.rx.map Prod.fst).foldl (fun s m => releaseWindow 1025 s m) s

/-- The data packet at the head of link l: into the reorder window, or on by route (R415). Its writes may meet shared
waits (R370). -/
def doDataPacketReceive (l : Nat) (waits : List (Nat × Nat)) (s0 : State) : State :=
  let s := noteDmaWaits s0 waits
  let x := linkOf s l
  match packetHead x.rxData with
  | none => s
  | some (p, rest) =>
    let n := x.rxData.length - rest.length
    let y := { x with rxData := rest, freedData := if p.typ = 4 then x.freedData else x.freedData + n,
                      freedResp := if p.typ = 4 then x.freedResp + n else x.freedResp }
    let s1 := setLink s l y
    if p.dst ≠ moduleId s then
      if (upRoute s p.dst).isEmpty then
        forwardFrom (some l) (noteMoved (setLink s l { x with rxData := rest }) (poisonUnits p.data)) p
      else forward (noteMoved s1 (poisonUnits p.data)) p
    else
      let r := pairRxOf s1 p.src
      if 1024 ≤ (BitVec.ofNat 16 p.seq - r.next).toNat then s1
      else releaseWindow 1025 (setPairRx s1 p.src { r with window := r.window ++ [p] }) p.src

/-- The released count goes back to source m (R415). While no link of the route is up it is kept, and the row is given
again. -/
def doReleasedSend (m : Nat) (s : State) : State :=
  let x := pairRxOf s m
  if x.unreported = 0 ∨ (upRoute s m).isEmpty = true then s
  else sendMgmt (setPairRx s m { x with unreported := 0 }) m (mgmtFlit s 0x21 m x.unreported)

/-- Packets that waited for the pair's window are sent; `fuel` bounds them. -/
def sendWaiting : Nat → State → Nat → State
  | 0, s, _ => s
  | fuel + 1, s, m =>
    let t := pairTxOf s m
    match t.waiting with
    | [] => s
    | p :: rest =>
      if 1024 ≤ t.unreleased then s
      else sendWaiting fuel (sendPacket (setPairTx s m { t with waiting := rest }) p) m

/-- A RELEASED count arrives (R415). -/
def doReleased (l : Nat) (s : State) : State :=
  match mgmtHead s l 0x21 with
  | none => s
  | some (f, s1) =>
    let m := flitByte f 2 2
    let t := pairTxOf s1 m
    let n := flitByte f 4 7
    sendWaiting (t.waiting.length + 1) (setPairTx s1 m { t with unreleased := t.unreleased - n, sent := t.sent.drop n }) m

/-- The first pending packet of a type from module m, and the state without it. -/
def takePending (s : State) (m typ : Nat) : Option (Packet × State) :=
  let x := pairRxOf s m
  match x.announce.find? (fun p => p.typ == typ) with
  | none => none
  | some p => some (p, setPairRx s m { x with announce := x.announce.filter (· != p) })

/-- The context that an announce's TAG names (log entry 50). -/
def tagContext (tag : Nat) : Option Nat := if tag = 0 then none else some (tag - 1)

/-- An announce write takes effect (R360, R385, R416). -/
def announceWrite (s : State) (src a : Nat) (w : BitVec 64) (tag : Nat) : State :=
  match region s.fuse.grade a with
  | .events =>
    if a % 8 ≠ 0 then countErr s errFe catProtocol
    else
      let e := (a - eventBase) / 8
      changeEvent s e (if (eventOf s e).toNat < w.toNat then w else eventOf s e)
  | .syncWin c off =>
    if off % 0x40 ≠ 0 then syncRefused s c
    else homeSignal s (.remote src (tagContext tag)) c (off % 0x800 / 0x40) (decide (0x800 ≤ off)) false w.toNat
  | _ => if isLocal s.fuse.grade a then (localWrite s ownDma a (clean (leBytes 8 w.toNat))).2 else s

/-- An access of a pair's packet to n bytes meets a bank that a pending hand-over holds (R372). -/
def pendingHeld (s : State) (p : Packet) (n : Nat) : Bool := isLocal s.fuse.grade p.addr && dmaHeld s p.addr n

/-- The first announce of the pair from module m is applied (R416). A held bank delays it, and the row is given again. -/
def doAnnounceApply (m : Nat) (waits : List (Nat × Nat)) (s0 : State) : State :=
  let s := noteDmaWaits s0 waits
  match takePending s m 2 with
  | none => s
  | some (p, s1) =>
    if pendingHeld s p 8 then s
    else
    match region s1.fuse.grade p.addr with
    | .syncWin c _ =>
      match partOfCore s1 c with
      | some n =>
        if replays s1 n then ignoreEvent s1
        else announceWrite (recordEntry s1 6 n p.src (leBytes 64 (headerFlit p).toNat)) p.src p.addr p.inline p.tag
      | none => announceWrite s1 p.src p.addr p.inline p.tag
    | _ => announceWrite s1 p.src p.addr p.inline p.tag

/-- A READ_REQ of module m is served (R417): a refused or unmapped byte reads as zero with poison (R528). A held bank
delays it, and the row is given again. -/
def doReadReq (m : Nat) (waits : List (Nat × Nat)) (s0 : State) : State :=
  let s := noteDmaWaits s0 waits
  match takePending s m 3 with
  | none => s
  | some (p, s1) =>
    if pendingHeld s p p.len then s
    else
    let t := if isLocal s1.fuse.grade p.addr then localTouch s1 ownDma p.addr p.len else (false, s1)
    let bs := (List.range p.len).map (fun i =>
      if isLocal t.2.fuse.grade (p.addr + i) && (refusedAt t.2 ownDma false (p.addr + i)).isNone then
        peekAs t.2 ownDma (p.addr + i)
      else (0#8, true))
    sendPacket (noteMoved t.2 (poisonUnits bs))
      { writePacket t.2 4 p.src p.tag p.tag bs none with offset := 0 }

/-! ### Multicast (R426, R427) -/

def doMcastReserve (l : Nat) (s : State) : State :=
  match mgmtHead s l 0x22 with
  | none => s
  | some (f, s1) =>
    let r := (flitByte f 2 2, BitVec.ofNat 32 (flitByte f 4 7), flitByte f 8 11)
    grantBuffers { s1 with net := { s1.net with reserves := s1.net.reserves ++ [r] } }

def doMcastGrant (l : Nat) (s : State) : State :=
  match mgmtHead s l 0x23 with
  | none => s
  | some (f, s1) =>
    let m := flitByte f 2 2
    let id := BitVec.ofNat 32 (flitByte f 4 7)
    match s1.net.mcast.find? (fun t => t.id == id) with
    | none => s1
    | some t =>
      let ts := s1.net.mcast.map (fun u => if u.id = id then { u with granted := u.granted ||| BitVec.ofNat 64 (2 ^ m) } else u)
      mcastGo (ts.length + 1) { s1 with net := { s1.net with mcast := ts } } t.group

/-- A member frees the buffer it reserved for the transfer, or forgets its reservation (R427). -/
def doMcastRelease (l : Nat) (s : State) : State :=
  match mgmtHead s l 0x24 with
  | none => s
  | some (f, s1) =>
    let src := flitByte f 2 2
    let id := BitVec.ofNat 32 (flitByte f 4 7)
    let keep := fun (r : Nat × BitVec 32 × Nat) => !(r.1 == src && r.2.1 == id)
    grantBuffers { s1 with net := { s1.net with buffers := s1.net.buffers.filter keep, reserves := s1.net.reserves.filter keep } }

/-- The transfer has waited 64 µs for a grant (R427). -/
def doMcastGrantTimeout (id : BitVec 32) (s : State) : State :=
  match s.net.mcast.find? (fun t => t.id == id) with
  | none => s
  | some t =>
    let late := t.members &&& ~~~t.granted
    if late = 0#64 ∨ s.net.mcast.find? (fun u => u.group == t.group) ≠ some t then s
    else
      let s1 := (bitList 64 late.toNat).foldl (fun s m => sendMgmt s m (mgmtFlit s 0x24 m t.id.toNat))
        { s with net := { s.net with mcast := s.net.mcast.filter (· != t) } }
      let s2 := mcastSend s1 t
      let c := mcastCtrOf s2 t.group
      let s3 := setMcastCtr s2 t.group { c with retried := satTo 16 (c.retried + popUpTo 64 late.toNat) }
      let s4 := sendMsg s3 0x06 evMcastRetry t.group (msgAt 20 8 late.toNat + msgAt 28 4 t.id.toNat)
      mcastGo (s4.net.mcast.length + 1) s4 t.group

end Sys2Proof.Machine
end

