-- ==== Sys2Proof/Machine/Sessions.lean ====
section
/-!
DEFINITION. Sys2Proof/Machine/Sessions.lean: the session table (R307, R308), model records (R309), creation, destruction,
hot and cold sessions and migration (R310 to R319, R326 to R329), the decode step (R320 to R324), and SES registers
(R330 to R332).
-/
namespace Sys2Proof.Machine

/-! ### Model records (R309) -/

structure Model where
  typ : Nat
  program : Nat
  perToken : Nat
  ctxMax : Nat
  vocab : Nat
  weights : Nat
  params : Nat
  stepBase : Nat
  stepPer : Nat
  resvOk : Bool
  deriving DecidableEq, Repr

def modelOf (b : List Byte) : Model where
  typ := payByte b 0
  program := payFld b 2 3
  perToken := payFld b 4 7
  ctxMax := payFld b 8 11
  vocab := payFld b 12 15
  weights := payFld b 16 23
  params := payFld b 24 31
  stepBase := payFld b 32 35
  stepPer := payFld b 36 39
  resvOk := zeroFrom b 1 1 && zeroFrom b 48 63

/-- An address in space 0x0 that a session command or DECODE uses: aligned, and its n bytes local memory (R527). -/
def spaceOk (s : State) (align a n : Nat) : Bool := a % align == 0 && rangeAllowed s .localOnly a n

/-- The check of a model record (R309). -/
def modelOk (s : State) (m : Model) : Bool :=
  m.typ == 0x20 && m.resvOk && m.perToken % 64 == 0 && 64 ≤ m.perToken && m.perToken ≤ 16777216 &&
  1 ≤ m.ctxMax && m.ctxMax ≤ 262144 && 1 ≤ m.vocab && m.vocab ≤ 2 ^ 32 - 2 &&
  m.weights % 64 == 0 && m.weights < 2 ^ 32 && m.params % 64 == 0 && allowed s .localOnly m.params

/-- What a command's read of a small record brings: its bytes, whether they carry poison, and the state. -/
structure RecRead where
  bytes : List Byte
  poison : Bool
  refused : Bool
  s : State
  deriving DecidableEq, Repr

/-- A record read through space 0x0 by a command that is no operation. -/
def recRead (s : State) (a n : Nat) : RecRead :=
  let x := localRead s ownRemote a n
  { bytes := dataOf x.bytes, poison := anyPoison x.bytes, refused := x.refused,
    s := if anyPoison x.bytes then noteConsumed x.state 1 else x.state }

/-! ### Hot areas (R314, R315, R330) -/

def sesReg (n : Nat) : Nat := 0x00480000 + 0x100 * n

structure HotArea where
  slots : Nat
  slotBytes : Nat
  base : Nat
  deriving DecidableEq, Repr

def hotArea (s : State) (n : Nat) : HotArea :=
  let v := regActive s (sesReg n) 0
  { slots := fld v 57 52, slotBytes := fld v 45 32 * 65536, base := fld v 31 16 * 65536 }

/-- The device address of byte b of a cache in hot slot k of partition n (R315). -/
def hotAddr (s : State) (n k b : Nat) : Nat :=
  let h := hotArea s n
  let dies := partDies s n
  sramAddr (nth 0 dies (b / 65536 % dies.length)) (h.base + k * h.slotBytes + b / 65536 / dies.length * 65536 + b % 65536)

/-- The session fits a slot (R315). -/
def fitsSlot (s : State) (n ctxMax perToken : Nat) : Bool :=
  let d := (partDies s n).length
  let units := (ctxMax * perToken + 65535) / 65536
  d != 0 && (units + d - 1) / d * 65536 ≤ (hotArea s n).slotBytes

/-- Hot, or moving to hot. -/
def isHot (x : SessSt) : Bool := x.hotSlot != 0xFF

/-- Hot slot k of partition n is held: by a session, by a move that still reads it, or by a DECODE in flight (R327). -/
def slotHeld (s : State) (n k : Nat) : Bool :=
  s.ses.table.any (fun e => isHot e.2 && e.2.part == n && e.2.hotSlot == k) ||
  s.ses.moves.any (fun m => m.copying && m.fromPart == n && m.fromSlot == k) ||
  s.ses.decs.any (fun d => d.2.entries.any (fun e => e.hotPart == n && e.hotSlot == k))

/-- The lowest free hot slot. -/
def freeHotSlot (s : State) (n : Nat) : Option Nat := (List.range (hotArea s n).slots).find? (fun k => !slotHeld s n k)

/-- Sessions of the module hot or moving to hot. -/
def hotCount (s : State) : Nat := (s.ses.table.filter (fun e => isHot e.2)).length

def hotIn (s : State) (n : Nat) : Nat := (s.ses.table.filter (fun e => isHot e.2 && e.2.part == n)).length

/-- A DECODE in flight names session k, whatever has become of the entry (R312, R317, R327). -/
def inFlight (s : State) (k : Nat) : Bool := s.ses.decs.any (fun d => d.2.entries.any (fun e => e.session == k))

/-- A DECODE in flight has captured epoch e of session k (R328): an entry that passed its checks captures, and keeps
what it captured when poison or a lack of entropy marks it later. -/
def captured (s : State) (k : Nat) (e : BitVec 16) : Bool :=
  s.ses.decs.any (fun d => d.2.entries.any (fun x =>
    x.session == k && x.epoch == e && x.status != stFormat && x.status != stPrivilege))

def moving (s : State) (k : Nat) : Bool := s.ses.moves.any (fun m => m.copying && m.session == k)

def sesPart0 : SesPart := { stale := 0, moves := 0, lost := 0 }
def sesPartOf (s : State) (n : Nat) : SesPart := mget sesPart0 s.ses.parts n
def setSesPart (s : State) (n : Nat) (v : SesPart) : State :=
  { s with ses := { s.ses with parts := mput sesPart0 s.ses.parts n v } }

/-- A move into or out of partition n has completed (R332). -/
def countMove (s : State) (n : Nat) : State :=
  setSesPart s n { sesPartOf s n with moves := satTo 16 ((sesPartOf s n).moves + 1) }

/-- The words of a session entry (R307). -/
def sessWords (s : State) (k : Nat) : List (BitVec 64) :=
  let x := sessOf s k
  let w0 := put x.state 1 0 + put (boolBit x.priv) 2 2 + put (boolBit x.seeded) 3 3 + put (boolBit x.lost) 4 4
    + put x.part 15 8 + put x.hotSlot 23 16 + put x.epoch.toNat 47 32 + put x.staleDrops 63 48
  let w0 := if x.state = 0 then put 0xFF 23 16 else w0
  [BitVec.ofNat 64 w0, x.modelAddr, x.coldAddr, BitVec.ofNat 64 (put x.context 31 0 + put x.ctxMax 63 32),
   BitVec.ofNat 64 (put x.perToken 31 0 + put x.lastToken 63 32), x.tokens, x.steps, x.userTag]

/-- Word w of entry k as a read returns it, the latch first (R308). -/
def sessRead (s : State) (k w : Nat) : BitVec 64 :=
  match s.ses.latch with
  | some (j, ws) => if j = k then nth 0#64 ws w else nth 0#64 (sessWords s k) w
  | none => nth 0#64 (sessWords s k) w

/-- A read of word 0 latches the entry (R308). -/
def doSessionEntryLatch (k : Nat) (s : State) : State :=
  if k < 4096 then
    let ws := sessWords s k
    emit { s with ses := { s.ses with latch := some (k, ws) } } (.readData (clean (leBytes 8 (nth 0#64 ws 0).toNat)))
  else s

/-! ### Pair checks that failed (R109) -/

def instSt0 (i : Inst) : InstSt where
  inst := i
  frozenWrites := 0
  lastOffset := 0
  lastStatus := 0
  seen := false
  commitPending := false
  pairFailed := false
  held := []

def instOf (s : State) (i : Inst) : InstSt := (s.insts.find? (fun x => x.inst == i)).getD (instSt0 i)

def setInst (s : State) (v : InstSt) : State :=
  let rest := s.insts.filter (fun x => x.inst != v.inst)
  { s with insts := if v = instSt0 v.inst then rest else v :: rest }

/-- The next operation that depends on a pair that failed its check takes note of it once (R109). -/
def takePairFail (s : State) (i : Inst) : Bool × State :=
  let x := instOf s i
  if x.pairFailed then (true, setInst s { x with pairFailed := false }) else (false, s)

/-! ### Creation and destruction (R310 to R313) -/

/-- COLD_ADDR's range lies in software HBM (R310). -/
def coldOk (a ctxMax perToken : Nat) : Bool := a % 65536 == 0 && a + ctxMax * perToken ≤ 0x00FC00000000

def doSessionCreate (k : Nat) (s : State) : State :=
  match runningCmd s k 0x60 with
  | none => s
  | some c =>
    let id := cmdFld c.bits 16 17
    let seeded := bitOf (cmdFld c.bits 18 18) 1
    let part := cmdFld c.bits 19 19
    let seedAddr := cmdFld c.bits 40 47
    let r := recRead s (cmdFld c.bits 24 31) 64
    let m := modelOf r.bytes
    let cold := cmdFld c.bits 32 39
    let bad := 4096 ≤ id || (sessOf s id).state != 0 || (partImg s part).isNone || !modelOk s m ||
      !coldOk cold m.ctxMax m.perToken || (seeded && (seedAddr == 0 || seedAddr % 32 != 0))
    let sr := if seeded && !bad then recRead r.s seedAddr 32 else { r with poison := false, refused := false }
    if bad then completeAs r.s k stFormat 0
    else if r.poison then completeAs r.s k stPoison 0
    else if sr.poison then completeAs sr.s k stPoison 0
    else
      let x : SessSt :=
        { sess0 with
          state := 1
          priv := bitOf (cmdFld c.bits 18 18) 0
          seeded := seeded
          part := part
          modelAddr := BitVec.ofNat 64 (cmdFld c.bits 24 31)
          coldAddr := BitVec.ofNat 64 cold
          ctxMax := m.ctxMax
          perToken := m.perToken
          lastToken := 0xFFFFFFFF
          userTag := BitVec.ofNat 64 (cmdFld c.bits 56 63) }
      let s1 := clearClient (setSess sr.s id x) (8192 + id)
      let s2 := if seeded then
          instantiate s1 (8192 + id) (BitVec.ofNat 256 (ofLe sr.bytes)) (BitVec.ofNat 64 (cmdFld c.bits 48 55))
        else s1
      completeAs s2 k (if r.refused || sr.refused then stPartial else stOk) 0

/-- The records whose co-owner the session is are cancelled, and their waiters abandoned (R355). -/
def cancelRecords (s : State) (k : Nat) : State :=
  let mine := fun (c : Fetched) =>
    opcodeOf c.bits == 2 && bitOf (cmdFld c.bits 19 19) 0 && cmdFld c.bits 20 21 == k && !c.cancelled
  let mark := fun (c : Fetched) => if mine c then { c with cancelled := true } else c
  let events := (s.fe.queues.flatMap (fun qx => (pendingOf s qx.1).filter mine)).map (fun c => cmdFld c.bits 16 17)
  let s1 : State := { s with fe := { s.fe with
    queues := s.fe.queues.map (fun qx => (qx.1, { qx.2 with fetched := qx.2.fetched.map mark }))
    slots := s.fe.slots.map (fun kx => (kx.1, { kx.2 with cmd := kx.2.cmd.map mark })) } }
  (events.eraseDups).foldl (fun s e => if (recordHolders s e).isEmpty then abandonEvent s e else s) s1

/-- The sync objects of the session abandon their waiters, and its records are cancelled (R355, R398). -/
def sessionGone (s : State) (k : Nat) : State := cancelRecords (abandonOwned s 1 k) k

/-- A command waits for DECODEs to drain, or for a move to end. -/
def waitMove (k session kind : Nat) : MoveRun where
  slot := some k
  session := session
  kind := kind
  copying := false
  toPart := 0
  toSlot := 0xFF
  fromPart := 0
  fromSlot := 0xFF
  model := 0#64
  hot := false
  drainFirst := false

def addMove (s : State) (m : MoveRun) : State :=
  if s.ses.moves.contains m then s else { s with ses := { s.ses with moves := s.ses.moves ++ [m] } }

/-- The command of slot k no longer waits. -/
def endWaitMove (s : State) (k : Nat) : State :=
  { s with ses := { s.ses with moves := s.ses.moves.filter (fun m => m.copying || m.slot != some k) } }

def doSessionDestroy (k : Nat) (s : State) : State :=
  match runningCmd s k 0x61 with
  | none => s
  | some c =>
    let id := cmdFld c.bits 16 17
    if 4096 ≤ id ∨ (sessOf s id).state = 0 then completeAs (endWaitMove s k) k stFormat 0
    else if inFlight s id ∨ moving s id then addMove s (waitMove k id 0x61)
    else
      let s1 := sessionGone (endWaitMove s k) id
      completeAs (clearClient (setSess s1 id sess0) (8192 + id)) k stOk 0

/-! ### Hot and cold (R313 to R318) -/

/-- SESSION_HOT and SESSION_COLD come from a queue of the session's partition, a user queue for PRIV 0 only (R313). -/
def sessionAdmits (s : State) (k : Nat) (x : SessSt) : Bool :=
  slotPart s k == x.part && (match (slotOf s k).queue with
    | some q => (queuePol s q).kernel || !x.priv
    | none => false)

def doSessionHot (k : Nat) (s : State) : State :=
  match runningCmd s k 0x62 with
  | none => s
  | some c =>
    let id := cmdFld c.bits 16 17
    let x := sessOf s id
    if s.ses.moves.any (fun m => m.copying && m.slot == some k) then s
    else if 4096 ≤ id ∨ x.state = 0 then completeAs s k stFormat 0
    else if !sessionAdmits s k x then completeAs s k stPrivilege 0
    else if x.state = 2 then completeAs s k stOk 0
    else
      let p := takePairFail s (.ses x.part)
      if p.1 || x.state != 1 || 48 ≤ hotCount s || !fitsSlot s x.part x.ctxMax x.perToken then
        completeAs p.2 k stFormat 0
      else
        match freeHotSlot s x.part with
        | none => completeAs p.2 k stFormat 0
        | some h =>
          addMove (setSess p.2 id { x with state := 3, hotSlot := h })
            { waitMove k id 0x62 with copying := true, toPart := x.part, toSlot := h, fromPart := x.part }

/-- The session's cache starts on its way to COLD_ADDR (R317); without a slot where a commit's drain asks (R319). -/
def startCold (s : State) (slot : Option Nat) (id : Nat) : State :=
  let x := sessOf s id
  addMove (setSess s id { x with state := 3, hotSlot := 0xFF })
    { waitMove 0 id 0x63 with slot := slot, copying := true, toPart := x.part, fromPart := x.part, fromSlot := x.hotSlot }

def doSessionCold (k : Nat) (s : State) : State :=
  match runningCmd s k 0x63 with
  | none => s
  | some c =>
    let id := cmdFld c.bits 16 17
    let x := sessOf s id
    if s.ses.moves.any (fun m => m.copying && m.slot == some k) then s
    else if 4096 ≤ id ∨ x.state = 0 then completeAs (endWaitMove s k) k stFormat 0
    else if !sessionAdmits s k x then completeAs (endWaitMove s k) k stPrivilege 0
    else if x.state = 1 then completeAs (endWaitMove s k) k stOk 0
    else if x.state = 3 then completeAs (endWaitMove s k) k stFormat 0
    else if inFlight s id then addMove s (waitMove k id 0x63)
    else startCold (endWaitMove s k) (some k) id

/-! ### Migration (R326 to R328) -/

/-- R326's conditions; `m` is the new model record where one is given. -/
def migrateBad (s : State) (id target : Nat) (hot : Bool) (m : Option Model) : Bool :=
  let x := sessOf s id
  let ctx := match m with | some m => m.ctxMax | none => x.ctxMax
  (partImg s target).isNone ||
  (match m with
   | some m => !modelOk s m || m.perToken != x.perToken || m.ctxMax < x.context
   | none => false) ||
  (hot && ((freeHotSlot s target).isNone || 48 ≤ hotCount s - boolBit (isHot x) || !fitsSlot s target ctx x.perToken))

/-- The migration's order from step 2 on (R327). -/
def migrateNow (s : State) (k id target : Nat) (hot : Bool) (model : Nat) (m : Option Model) : State :=
  let x := sessOf s id
  let slot := if hot then (freeHotSlot s target).getD 0xFF else 0xFF
  let y := { x with epoch := x.epoch + 1#16, part := target, hotSlot := slot, state := 3
                    modelAddr := if model = 0 then x.modelAddr else BitVec.ofNat 64 model
                    ctxMax := match m with | some m => m.ctxMax | none => x.ctxMax }
  let s1 := setSess s id y
  if !hot ∧ x.state = 1 then
    let s2 := countMove (setSess s1 id { y with state := 1 }) x.part
    completeAs (if target = x.part then s2 else countMove s2 target) k stOk 0
  else
    addMove s1 { waitMove k id 0x77 with copying := true, toPart := target, toSlot := slot, fromPart := x.part,
                                         fromSlot := x.hotSlot, hot := hot }

/-- MIGRATE with KIND 0x0. -/
def doMigrate (k : Nat) (s : State) : State :=
  match runningCmd s k 0x77 with
  | none => s
  | some c =>
    let id := cmdFld c.bits 20 21
    let target := cmdFld c.bits 18 18
    let hot := bitOf (cmdFld c.bits 17 17) 1
    let drain := bitOf (cmdFld c.bits 17 17) 0
    let model := cmdFld c.bits 24 31
    let x := sessOf s id
    if cmdFld c.bits 16 16 ≠ 0 ∨ s.ses.moves.any (fun m => m.copying && m.slot == some k) = true then s
    else if 4096 ≤ id ∨ x.state = 0 ∨ x.state = 3 then completeAs (endWaitMove s k) k stFormat 0
    else
      let r := if model = 0 then { bytes := [], poison := false, refused := false, s := s } else recRead s model 64
      let m := if model = 0 then none else some (modelOf r.bytes)
      let p := takePairFail r.s (.ses target)
      if p.1 || migrateBad s id target hot m then completeAs (endWaitMove p.2 k) k stFormat 0
      else if r.poison then completeAs (endWaitMove p.2 k) k stPoison 0
      else if (drain && inFlight s id) || captured s id (x.epoch + 1#16) then addMove s (waitMove k id 0x77)
      else migrateNow (endWaitMove p.2 k) k id target hot model m

/-- Commands that waited for a drain or a move go on, in their order. -/
def retryMoves (s : State) : State :=
  (s.ses.moves.filter (fun m => !m.copying)).foldl (fun s m =>
    match m.slot with
    | none => s
    | some k =>
      match m.kind with
      | 0x61 => doSessionDestroy k s
      | 0x63 => doSessionCold k s
      | _ => doMigrate k s) s

/-! ### The copy of a cache (R318) -/

/-- The device address of byte b of the cache at one end of a move. -/
def cacheEnd (s : State) (part slot : Nat) (cold : BitVec 64) (b : Nat) : Nat :=
  if slot = 0xFF then cold.toNat + b else hotAddr s part slot b

/-- The bytes of the cache, 64 KiB at a time: whether a piece was refused, and the state. -/
def copyCache (s : State) (m : MoveRun) (cold : BitVec 64) (bytes : Nat) : Bool × State :=
  (List.range ((bytes + 65535) / 65536)).foldl (fun (x : Bool × State) u =>
    let n := min 65536 (bytes - 65536 * u)
    let r := localRead x.2 ownDma (cacheEnd x.2 m.fromPart m.fromSlot cold (65536 * u)) n
    let w := localWrite r.state ownDma (cacheEnd r.state m.toPart m.toSlot cold (65536 * u)) r.bytes
    (x.1 || r.refused || w.1, noteMoved w.2 (poisonUnits r.bytes))) (false, s)

/-- The move of session id finishes (R316, R317, R327). A move reports its stalls (R318). -/
def doSessionMoveDone (id : Nat) (stalls : Stalls) (s : State) : State :=
  match s.ses.moves.find? (fun m => m.copying && m.session == id) with
  | none => s
  | some m =>
    let x := sessOf s id
    let c := copyCache s m x.coldAddr (x.context * x.perToken)
    let s1 := { c.2 with ses := { c.2.ses with moves := c.2.ses.moves.filter (· != m) } }
    let s2 := countMove (setSess s1 id { x with state := if m.toSlot = 0xFF then 1 else 2 }) m.toPart
    let s3 := if m.fromPart = m.toPart then s2 else countMove s2 m.fromPart
    let s4 := match m.slot with
      | none => s3
      | some k =>
        let t := slotOf s3 k
        let s5 := setSlot s3 k { t with memStall := t.memStall + stalls.mem }
        let st := pickStatus defaultOrder ((if c.1 then stPartial else stOk) :: t.flags)
        complete s5 k { doneWith st 0 with isOp := true }
    retryMoves s4

/-! ### Resets and commits (R319) -/

/-- A reset makes a hot or moving session cold without a copy back: CONTEXT 0, LOST, EPOCH + 1. -/
def sessionLost (s : State) (id : Nat) : State :=
  let x := sessOf s id
  if x.state < 2 then s
  else
    let slots := (s.ses.moves.filter (fun m => m.copying && m.session == id)).filterMap (·.slot)
    let s1 := { s with ses := { s.ses with moves := s.ses.moves.filter (fun m => !(m.copying && m.session == id)) } }
    let s2 := setSess s1 id { x with state := 1, context := 0, lost := true, epoch := x.epoch + 1#16, hotSlot := 0xFF }
    let s3 := setSesPart s2 x.part { sesPartOf s2 x.part with lost := satTo 16 ((sesPartOf s2 x.part).lost + 1) }
    let s4 := sessionGone (clearClient s3 (8192 + id)) id
    slots.foldl (fun s k => completeAs s k stAbandoned 0) s4

/-- Every hot or moving session of partition n is lost. -/
def partSessionsLost (s : State) (n : Nat) : State :=
  (s.ses.table.filter (fun e => e.2.part == n)).foldl (fun s e => sessionLost s e.1) s

/-! ### DECODE (R320 to R324) -/

def decMode (b : BitVec 128) : Nat := byteFld b.toNat 2 2
def decCount (b : BitVec 128) : Nat := byteFld b.toNat 4 7
def decTemp (b : BitVec 128) : Nat := byteFld b.toNat 8 11
def decFeedLast (b : BitVec 128) : Bool := bitOf b.toNat 24

/-- TEMP samples: a positive finite FP32 value. -/
def tempSamples (t : Nat) : Bool := t % 2 ^ 31 != 0
/-- TEMP is negative (other than −0), infinite or NaN (R320). -/
def tempBad (t : Nat) : Bool := fld t 30 23 == 255 || (bitOf t 31 && t % 2 ^ 31 != 0)

/-- A reserved field of the entry is nonzero, or MODE reserved (R321, check 1). -/
def entryBad (b : BitVec 128) : Bool :=
  fld b.toNat 15 12 != 0 || 1 < decMode b || fld b.toNat 31 25 != 0 || fld b.toNat 127 96 != 0

/-- The first check of R321 that an entry fails; `before` are the sessions named earlier in the list. -/
def entryStatus (s : State) (k part : Nat) (model : BitVec 64) (m : Model) (before : List Nat) (b : BitVec 128) : Nat :=
  let id := fld b.toNat 11 0
  let x := sessOf s id
  if x.state = 0 || entryBad b then stFormat
  else if x.part ≠ part || !sessionAdmits s k x then stPrivilege
  else if x.state ≠ 2 || x.modelAddr ≠ model || before.contains id then stFormat
  else if decMode b = 1 then (if x.ctxMax < x.context + decCount b || decCount b = 0 then stFormat else stOk)
  else if x.context = x.ctxMax || (decFeedLast b && x.lastToken = 0xFFFFFFFF) ||
      (!decFeedLast b && m.vocab ≤ decCount b) || tempBad (decTemp b) then stFormat
  else stOk

/-- The entries of the list, checked in order. -/
def checkEntries (s : State) (k part : Nat) (model : BitVec 64) (m : Model) : List Nat → List (BitVec 128) → List DecEntry
  | _, [] => []
  | before, b :: bs =>
    let id := fld b.toNat 11 0
    let x := sessOf s id
    { bits := b, session := id, epoch := x.epoch, status := entryStatus s k part model m before b, hotPart := x.part,
      hotSlot := x.hotSlot, context := x.context, lastToken := x.lastToken } :: checkEntries s k part model m (id :: before) bs

/-- The firmware in force holds decode program p for partition n (R309, R321). -/
def programPresent (s : State) (n p : Nat) : Bool :=
  match partImg s n with
  | none => false
  | some img =>
    let fw := if img.firmware.isEmpty then (match s.image.force with | some f => f.scalarFw | none => []) else img.firmware
    Config.hasProgram fw p

/-- An operation of partition n starts in slot k with nothing of its own to keep; a DECODE runs in tree mode (R322). -/
def plainOp (s : State) (n k : Nat) (kind : OpKind) (desc : BitVec 2048) : State :=
  setPart s n { partOf s n with
    op := some { slot := k, kind := kind, desc := desc, tree := kind == .decode, band64 := false, table := [], status := 0,
                 started := s.time.count } }

/-- DECODE takes its partition, and its first beat checks it and its entries (R321): FORMAT, then the poison of its model
record. Poison in an entry that passes marks it at once: its inputs carry poison (R322). A DECODE may run while an
accumulation is open in the partition, and leaves long registers and kept weights as they are; the spec settles neither
(DESIGN CHOICE, log entry 26). -/
def doDecode (k : Nat) (s : State) : State :=
  match waitingCmd s k 0x64 with
  | none => s
  | some c =>
    let t := tryTake s k
    if !t.1 then t.2
    else
      let n := slotPart s k
      let e := cmdFld c.bits 16 17
      let model := cmdFld c.bits 24 31
      let list := cmdFld c.bits 32 39
      let result := cmdFld c.bits 40 47
      let r := recRead t.2 model 64
      let m := modelOf r.bytes
      if !spaceOk s 64 model 64 then completeOp t.2 k defaultOrder stFormat 0 0
      else if !modelOk s m || !programPresent s n m.program || e = 0 || 48 < e || !spaceOk s 64 list (16 * e) ||
          result % 64 != 0 || !rangeAllowed s .store result (16 * e) then
        completeOp r.s k defaultOrder stFormat 0 0
      else if r.poison then completeOp r.s k defaultOrder stPoison 0 0
      else
        let x := localRead r.s ownRemote list (16 * e)
        let s1 := if r.refused || x.refused then flagSlot x.state k stPartial else x.state
        let cut := chunks 16 e x.bytes
        let words := cut.map (fun bs => BitVec.ofNat 128 (ofLe (dataOf bs)))
        let es := (checkEntries s1 k n (BitVec.ofNat 64 model) m [] words).zip cut
        let marked := es.map (fun p => if p.1.status == stOk && anyPoison p.2 then { p.1 with status := stPoison } else p.1)
        let d : DecRun := { slot := k, result := result, model := r.bytes, entries := marked }
        plainOp { s1 with ses := { s1.ses with decs := mins s1.ses.decs n d } } n k .decode 0#2048

/-- The expander of session id stands ready for one generate call: it is instantiated, or its draw is in line. -/
def readyClient (s : State) (i : Nat) : State :=
  if isSeeded s i then
    match (clientOf s i).drbg with
    | none => instantiate s i (clientOf s i).seed (clientOf s i).runId
    | some _ => s
  else if (match clientPart s i with | some p => replays s p | none => false) then s
  else if needsDraw s (clientOf s i) then addDraw s i
  else s

/-- The entry samples with its session's client: it passed, TEMP asks for it, and its epoch still stands (R311, R320). -/
def drawsNow (s : State) (e : DecEntry) : Bool :=
  e.status == stOk && decMode e.bits == 0 && tempSamples (decTemp e.bits) && (sessOf s e.session).epoch == e.epoch

def samplers (s : State) (d : DecRun) : List Nat := (d.entries.filter (drawsNow s)).map (·.session)

/-- Sessions of the decode whose client cannot deliver now (R311). -/
def starving (s : State) (d : DecRun) : List Nat := (samplers s d).filter (fun id => (generate s (8192 + id) 1).1 == .wait)

/-- What decides an entry's token and cache beside what the program reads: the model record, the entry, the session's
context and last token at the first beat, and the sampled block. -/
def entryInputs (d : DecRun) (x : SessSt) (e : DecEntry) (block : List Byte) : List Byte :=
  d.model ++ leBytes 16 e.bits.toNat ++ leBytes 4 x.context ++ leBytes 4 x.lastToken ++ block

/-- One result record (R320). -/
def resultBytes (id status : Nat) (epoch : BitVec 16) (token context : Nat) : List Byte :=
  leBytes 2 id ++ leBytes 1 status ++ leBytes 1 0 ++ leBytes 2 epoch.toNat ++ leBytes 2 0 ++ leBytes 4 token ++ leBytes 4 context

/-- The progress of a drain over its list: the records, the statuses and the state. -/
structure Drain where
  records : List Byte
  statuses : List Nat
  steps : Nat
  s : State
  deriving DecidableEq, Repr

/-- Address a lies in a hot area, in the cold cache of a session, or in a fenced region. -/
def inSomeCache (s : State) (a : Nat) : Bool :=
  (List.range 64).any (fun n =>
    let h := hotArea s n
    (partDies s n).any (fun d => sramAddr d h.base ≤ a && a < sramAddr d (h.base + h.slots * h.slotBytes))) ||
  s.ses.table.any (fun e => e.2.state != 0 && e.2.coldAddr.toNat ≤ a && a < e.2.coldAddr.toNat + e.2.ctxMax * e.2.perToken) ||
  meetsFence s a 1

/-- Weights and parameters of a model, as the decode program of partition n may read them: stacked SRAM of its dies from
WEIGHTS on and memory from PARAMS on. Caches are no part of them (R309, R322). -/
def modelCells (s : State) (n : Nat) (m : Model) : List (Nat × Byte) :=
  (s.mem.filter (fun e =>
    ((partDies s n).any (fun d => sramAddr d m.weights ≤ e.1 && e.1 < sramAddr (d + 1) 0) || m.params ≤ e.1) && !inSomeCache s e.1))

/-- Cache positions 0 to CONTEXT − 1 of an entry's session, in the slot it held at the first beat (R322). -/
def cacheBytes (s : State) (x : SessSt) (e : DecEntry) : List Byte :=
  (List.range ((x.context * x.perToken + 65535) / 65536)).flatMap (fun u =>
    dataOf (rmBytes s (hotAddr s e.hotPart e.hotSlot (65536 * u)) (min 65536 (x.context * x.perToken - 65536 * u))))

/-- The cache position that a STEP writes (R322), into the slot the session held at the first beat. -/
def writePosition (s : State) (x : SessSt) (e : DecEntry) (byte : Nat → Byte) (poison : Bool) : State :=
  let base := x.context * x.perToken
  (List.range (x.perToken / 64)).foldl (fun s j =>
    let bs := (List.range 64).map (fun i => (byte (64 * j + i), poison))
    let a := hotAddr s e.hotPart e.hotSlot (base + 64 * j)
    (localWrite (marchPut s e.hotPart a bs) ownRemote a bs).2) s

/-- Cached positions of the session that carry poison, read as the program reads them. -/
def cachePoison (s : State) (x : SessSt) (e : DecEntry) : Bool × State :=
  let bytes := x.context * x.perToken
  (List.range ((bytes + 65535) / 65536)).foldl (fun (r : Bool × State) u =>
    let n := min 65536 (bytes - 65536 * u)
    let y := localRead r.2 ownRemote (hotAddr r.2 e.hotPart e.hotSlot (65536 * u)) n
    (r.1 || anyPoison y.bytes, y.state)) (false, s)

/-- An entry is applied (R322). -/
def applyEntry (s : State) (id : Nat) (e : DecEntry) (token : Nat) : State :=
  let x := sessOf s id
  let y := { x with lost := false, steps := x.steps + 1#64 }
  if decMode e.bits = 0 then
    setSess s id { y with context := x.context + 1, lastToken := token, tokens := x.tokens + 1#64 }
  else setSess s id { y with context := x.context + decCount e.bits }

/-- An entry whose epoch is old is dropped (R322). -/
def staleEntry (s : State) (id n : Nat) : State :=
  let x := sessOf s id
  let s1 := setSess s id { x with staleDrops := satTo 16 (x.staleDrops + 1) }
  setSesPart s1 n { sesPartOf s1 n with stale := satTo 16 ((sesPartOf s1 n).stale + 1) }

/-- One entry at drain; `poisoned` are the sessions whose inputs or weights carried poison. -/
def drainEntry (n : Nat) (d : DecRun) (poisoned : List Nat) (r : Drain) (e : DecEntry) : Drain :=
  let id := e.session
  let x := sessOf r.s id
  let out := fun (s : State) (status token : Nat) =>
    { records := r.records ++ resultBytes (fld e.bits.toNat 15 0) status e.epoch token (sessOf s id).context,
      statuses := r.statuses ++ [status], steps := r.steps + (if decMode e.bits = 0 ∧ status ≠ stFormat ∧ status ≠ stPrivilege then 1 else 0),
      s := s : Drain }
  if e.status = stPoison then out (noteConsumed r.s 1) stPoison 0xFFFFFFFF
  else if e.status ≠ stOk then out r.s e.status 0xFFFFFFFF
  else if decMode e.bits = 1 then
    if x.epoch = e.epoch then out (applyEntry r.s id e 0) stOk 0xFFFFFFFF else out (staleEntry r.s id n) stStale 0xFFFFFFFF
  else
    let s1 := if drawsNow r.s e then readyClient r.s (8192 + id) else r.s
    let g := if drawsNow r.s e then generate s1 (8192 + id) 1 else (.blocks [], s1)
    match g.1 with
    | .blocks bs =>
      let x0 := { x with context := e.context, lastToken := e.lastToken }
      let inputs := entryInputs d x0 e (bs.flatten.take 4)
      let c := cachePoison s1 x0 e
      let bad := c.1 || poisoned.contains id
      let cache := cacheBytes c.2 x0 e
      let cells := modelCells c.2 n (modelOf d.model)
      let token := Config.decodeToken inputs cache cells % (modelOf d.model).vocab
      let s2 := writePosition c.2 x0 e (Config.decodeCache inputs cache cells) bad
      if x.epoch ≠ e.epoch then out (staleEntry s2 id n) stStale 0xFFFFFFFF
      else if bad then out (noteConsumed s2 1) stPoison 0xFFFFFFFF
      else
        let s3 := { s2 with ent := g.2.ent, dbg := g.2.dbg }
        out (applyEntry s3 id e token) stOk token
    | _ => out (countNoEntropy s1) stNoEntropy 0xFFFFFFFF

/-- The order of R323. -/
def decodeOrder : List Nat := [stFormat, stPoison, stOverArrival, stNoEntropy, stStale, stPartial, stAbandoned]

/-- The drain of a DECODE (R322 to R324). A draw that the pool cannot serve holds it (R311), as a waiting context does (R394). -/
def doDecodeDrain (n : Nat) (poisoned : List Nat) (stalls : Stalls) (s : State) : State :=
  match mfind s.ses.decs n with
  | none => s
  | some d =>
    let s0 := (samplers s d).foldl (fun s id => readyClient s (8192 + id)) s
    if contextWaits s n then addStalls s d.slot stalls
    else if !(starving s0 d).isEmpty then s0
    else
      let r := d.entries.foldl (drainEntry n d poisoned) { records := [], statuses := [], steps := 0, s := addStalls s0 d.slot stalls }
      let w := opWrite (marchPut r.s n d.result (clean r.records)) (some d.slot) ownRemote d.result (clean r.records)
      let bad := (r.statuses.filter (· != stOk)).length
      let failed := r.statuses.any (fun x => x == stFormat || x == stPrivilege)
      let applies := r.statuses.filter (fun x => x == stPoison || x == stNoEntropy || x == stStale)
      let s1 := if failed || w.1 then flagSlot w.2 d.slot stPartial else w.2
      let s2 := applies.foldl (fun s x => flagSlot s d.slot x) s1
      let m := modelOf d.model
      let inputs := d.model ++ d.entries.flatMap (fun e =>
        leBytes 16 e.bits.toNat ++ leBytes 4 e.context ++ leBytes 4 e.lastToken)
      let beats := if d.entries.all (fun e => decMode e.bits == 1) then 16 else Config.decodeBeats inputs % (m.stepBase + m.stepPer * r.steps + 1)
      let s3 := { s2 with ses := { s2.ses with decs := mdel s2.ses.decs n } }
      retryMoves (completeOp s3 d.slot decodeOrder stOk bad beats)

/-- The hold of the DECODE of partition n reaches NO_ENTROPY_US: entries that still wait end (R311). -/
def decodeStarves (s : State) (n : Nat) : State :=
  match mfind s.ses.decs n with
  | none => s
  | some d =>
    let ws := starving s d
    let es := d.entries.map (fun e => if e.status == stOk && ws.contains e.session then { e with status := stNoEntropy } else e)
    let s1 := { s with ses := { s.ses with decs := mins s.ses.decs n { d with entries := es } } }
    ws.foldl (fun s id => countNoEntropy (dropDraw s (8192 + id))) s1

/-- A DECODE stops with its partition's reset: it writes nothing further (R547). -/
def dropDecode (s : State) (n : Nat) : State := { s with ses := { s.ses with decs := mdel s.ses.decs n } }

end Sys2Proof.Machine
end

