-- ==== Sys2Proof/Machine/TimeRows.lean ====
section
/-!
DEFINITION. Sys2Proof/Machine/TimeRows.lean: alignment across a domain (R50 to R54, R424), the wired sync pulse (R55), the
snapshot and the latched count (R48, R58), and the reference clocks (R562).
-/
namespace Sys2Proof.Machine

/-! ### Alignment states (R51) -/

def alFree : Nat := 0
def alAcquiring : Nat := 1
def alAligned : Nat := 2
def alHoldover : Nat := 3
def alLeader : Nat := 4

def imageLeader (s : State) : Nat := match s.image.force with | some f => f.leader | none => 0
def beaconParent (s : State) : Option Nat := match s.image.force with | some f => f.beaconParent | none => none

/-- A time flit goes out in slot 0 of the link's next frame (R424). -/
def sendTime (s : State) (l : Nat) (f : BitVec 512) : State :=
  setLink s l { linkOf s l with txSync := f :: (linkOf s l).txSync }

/-- A BEACON flit (R418): HOPS, the count at departure in eighths of a ns, LEADER with the HOLDOVER bit. -/
def beaconFlit (s : State) (l hops frac : Nat) : BitVec 512 :=
  BitVec.ofNat 512 ((syncFlit s 0x18 (linkTopo s l).peer 0 s.time.count.toNat).toNat + put hops 31 24 + put frac 130 128
    + put (s.time.leader % 64 + 128 * boolBit (s.time.align == alHoldover)) 143 136)

/-- The links that carry the leader's beacons (R50, R53). -/
def beaconLinks (s : State) : List Nat :=
  (upLinks s).filter (fun l => s.time.reRooted || (linkTopo s l).tree)

/-- The leader sends a beacon (R50). -/
def doBeaconSend (frac : Nat) (s : State) : State :=
  if s.time.align ≠ alLeader then s
  else (beaconLinks s).foldl (fun s l => sendTime s l (beaconFlit s l 0 (frac % 8))) s

/-- Two beacons of one leader belong together when they left less than half a beacon period apart (R53). -/
def sameBeacon (s : State) (leader : Nat) (dep : BitVec 64) : Bool :=
  s.time.relayed.1 == leader &&
  ((dep - s.time.relayed.2).toNat < 8000 || (s.time.relayed.2 - dep).toNat < 8000) && s.time.periodBest.isSome

/-- A beacon is passed on once: to the tree's children, or on every other up link after a leadership change (R53). -/
def relayBeacon (s : State) (l hops frac : Nat) : State :=
  ((beaconLinks s).filter (· != l)).foldl (fun s i => sendTime s i (beaconFlit s i (hops + 1) frac)) s

/-- The link that the follower steers by: the image's BEACON_PARENT, or the link on which the last period's beacon arrived with
the lowest HOPS, the lowest link number among equals (R53). `fresh` says that a new period's beacon arrives. A new parent's delay
is not yet measured. -/
def chooseParent (s : State) (l hops : Nat) (fresh : Bool) : State :=
  let best := match s.time.periodBest with
    | some b => if fresh then (l, hops) else if hops < b.2 ∨ (hops = b.2 ∧ l < b.1) then (l, hops) else b
    | none => (l, hops)
  let parent := if !s.time.reRooted then beaconParent s
    else match s.time.periodBest with
      | some b => if fresh then some b.1 else s.time.parent
      | none => s.time.parent
  { s with time := { s.time with periodBest := some best, parent := parent
                                 parentFresh := s.time.parentFresh && s.time.parent == parent } }

/-- Armed commands whose START_COUNT a join step passes over start late (R57). -/
def passStarts (old new : BitVec 64) (s : State) : State :=
  (s.fe.slots.map Prod.fst).foldl (fun s k =>
    match (slotOf s k).cmd with
    | none => s
    | some c =>
      let start := startCount c.bits
      if (slotOf s k).state = 4 ∧ old < start ∧ start < new then setSlot s k { slotOf s k with late := true } else s) s

/-- The rate at which the count is steered against an offset, in eighths of a ns: toward the leader, within 100 ppm (R50); the
rule that sets it within these bounds is the hardware's (log entry 35). An offset of zero leaves the rate. -/
def steerBy (s : State) (off : Int) : State :=
  if off = 0 then s
  else
    let r := takeFree s 16
    let ppm : Int := (r.1 % 100 + 1 : Nat)
    { r.2 with time := { r.2.time with steer := if 0 < off then -ppm else ppm } }

/-- The module leaves ACQUIRING by taking the leader's value at once (R51): JOIN_STEP carries the count before and after. DEDUCED
(log entry 35): what it leaves ACQUIRING for is ALIGNED. -/
def joinStep (s : State) (leader hops : Nat) (dst : BitVec 64) : State :=
  let old := s.time.count
  let s1 := { s with time := { s.time with count := dst, stepSize := dst - old, steps := satTo 16 (s.time.steps + 1),
                                           align := alAligned, goodBeacons := 1, lastBeacon := dst, steer := 0, steerAcc := 0 } }
  passStarts old dst (sendMsg s1 0x06 evJoinStep 0xFF (msgAt 20 8 old.toNat + msgAt 28 1 leader + msgAt 29 1 hops))

/-- OFFSET lies within ±2 ns. -/
def offsetGood (off : Int) : Bool := decide (-16 ≤ off) && decide (off ≤ 16)

/-- The follower steers by a beacon of its leader on its parent link (R50, R51). `arrival` is in eighths of a ns and `hops` counts
the module's own hops. DESIGN CHOICE (log entry 35): an ALIGNED module whose offset leaves ±2 ns stays ALIGNED, and a module in
HOLDOVER whose beacons return stays there until 16 beacons in a row lie within ±2 ns. -/
def steer (s : State) (leader hops : Nat) (value8 arrival8 : Int) : State :=
  let off := arrival8 - value8
  let s1 := { s with time := { s.time with offset := BitVec.ofInt 24 off, hops := min 15 hops, leader := leader,
                                           lastBeacon := s.time.count } }
  if s1.time.goodBeacons = 0 then joinStep s1 leader hops (BitVec.ofInt 64 ((value8 + 4) / 8))
  else
    let good := if offsetGood off then s1.time.goodBeacons + 1 else 1
    let s2 := steerBy s1 off
    { s2 with time := { s2.time with goodBeacons := min 17 good
                                     align := if s2.time.align = alHoldover ∧ 17 ≤ good then alAligned else s2.time.align } }

/-- The module joins the segment of a beacon's leader: it has heard no leader yet, or its own has the higher id (R51, R52). -/
def joinsOther (s : State) (leader : Nat) : Bool :=
  if s.time.align == alAcquiring && s.time.goodBeacons == 0 && s.time.periodBest.isNone then true
  else s.time.align != alFree && leader < s.time.leader

/-- The module takes the leader of another segment, and waits for its join step. -/
def joinSegment (s : State) (leader : Nat) : State :=
  { s with time := { s.time with align := alAcquiring, goodBeacons := 0, leader := leader, periodBest := none
                                 reRooted := leader != imageLeader s } }

/-- A BEACON arrives on link l, its frame's first symbol at the count plus `frac` eighths (R424). -/
def doBeaconReceive (l frac : Nat) (s : State) : State :=
  match (linkOf s l).rxSync with
  | [] => s
  | f :: rest =>
    if flitByte f 0 0 ≠ 0x18 then s
    else
      let s1 := freeSync s l rest
      let leader := flitByte f 17 17 % 64
      let hops := flitByte f 3 3
      let dep := BitVec.ofNat 64 (flitByte f 8 15)
      let value8 : Int := 8 * dep.toNat + flitByte f 16 16 % 8 + (linkOf s1 l).delay
      let arrival8 : Int := 8 * s1.time.count.toNat + frac % 8
      if s1.time.align = alFree ∨ leader = moduleId s1 then s1
      else
        let s2 := if joinsOther s1 leader then joinSegment s1 leader else s1
        if leader ≠ s2.time.leader then s2
        else
          let seen := sameBeacon s2 leader dep
          let s3 := chooseParent s2 l hops (!seen)
          let s4 := if seen then s3 else relayBeacon { s3 with time := { s3.time with relayed := (leader, dep) } } l hops (frac % 8)
          if s4.time.parent = some l ∧ s4.time.parentFresh = true then steer s4 leader (hops + 1) value8 arrival8
          else { s4 with time := { s4.time with lastBeacon := s4.time.count } }

/-- A module that follows a leader whose beacons it has had. -/
def follows (s : State) : Bool :=
  s.time.align == alAligned || s.time.align == alHoldover || (s.time.align == alAcquiring && s.time.periodBest.isSome)

/-- 1 ms without beacons (R52): HOLDOVER, and the lowest id among the modules still reachable and in ALIGNED or HOLDOVER
leads; `reachable` names the others. A module that has not yet taken its join step was never aligned and does not lead
(DEDUCED, log entry 35). -/
def doBeaconLoss (reachable : BitVec 64) (s : State) : State :=
  if follows s = false ∨ sinceCount s s.time.lastBeacon < 1000000 then s
  else
    let me := moduleId s
    let ids := (bitList 64 reachable.toNat).filter (· != me)
    let joined := s.time.goodBeacons != 0
    let new := match if joined then me :: ids else ids with
      | [] => s.time.leader
      | m :: ms => ms.foldl min m
    let s1 := { s with time := { s.time with align := alHoldover, goodBeacons := min 1 s.time.goodBeacons, leader := new,
                                             reRooted := new != imageLeader s, parentFresh := false, periodBest := none } }
    if new = me ∧ joined then { s1 with time := { s1.time with align := alLeader, hops := 0, steer := 0, steerAcc := 0 } } else s1

/-! ### Link delay (R50, R424) -/

/-- The links whose delay a follower measures. -/
def measuresLink (s : State) (l : Nat) : Bool :=
  isUp s l && (if s.time.reRooted then s.time.parent == some l else (linkTopo s l).tree)

def doDelayReqSend (l frac : Nat) (s : State) : State :=
  if l < 32 ∧ measuresLink s l = true then
    let f := BitVec.ofNat 512 ((syncFlit s 0x19 (linkTopo s l).peer 0 s.time.count.toNat).toNat + put frac 130 128)
    let s1 := sendTime s l f
    setLink s1 l { linkOf s1 l with reqOut := some (s1.time.count, frac % 8) }
  else s

def doDelayReqReceive (l frac : Nat) (s : State) : State :=
  match (linkOf s l).rxSync with
  | [] => s
  | f :: rest =>
    if flitByte f 0 0 ≠ 0x19 then s
    else
      let s1 := freeSync s l rest
      setLink s1 l { linkOf s1 l with reqIn := (linkOf s1 l).reqIn ++ [(s1.time.count, frac % 8)] }

/-- The response to the earliest request leaves at least 200 ns after it arrived; EXCESS is what lies beyond (R424). -/
def doDelayRespSend (l frac : Nat) (s : State) : State :=
  match (linkOf s l).reqIn with
  | [] => s
  | (t, tf) :: rest =>
    let turn := 8 * sinceCount s t + frac % 8 - tf
    if turn < 1600 then s
    else
      let f := BitVec.ofNat 512 ((syncFlit s 0x1A (linkTopo s l).peer 0 0).toNat + put t.toNat 207 144 + put tf 215 208
        + put (min 0xFFFF (turn - 1600)) 231 216)
      let s1 := sendTime s l f
      setLink s1 l { linkOf s1 l with reqIn := rest }

/-- The one-way delay of R424; a link longer than 5,000 ns stays down (R563). -/
def doDelayRespReceive (l frac : Nat) (s : State) : State :=
  match (linkOf s l).rxSync with
  | [] => s
  | f :: rest =>
    if flitByte f 0 0 ≠ 0x1A then s
    else
      let s1 := freeSync s l rest
      match (linkOf s1 l).reqOut with
      | none => s1
      | some (t, tf) =>
        let d := (8 * sinceCount s1 t + frac % 8 - tf - (1600 + flitByte f 27 28)) / 2
        let s2 := setLink s1 l { linkOf s1 l with reqOut := none, delay := d % 2 ^ 32 }
        if 40000 < d then
          requeue (countErr (linkEvent (setLink s2 l { linkOf s2 l with state := 1, laneMask := 0, trained := false, everUp := false }) l
            evDown) errLink catHard) l
        else if s2.time.parent = some l ∨ (s2.time.reRooted = false ∧ beaconParent s2 = some l) then
          { s2 with time := { s2.time with parentFresh := true } }
        else s2

/-! ### The wired sync pulse (R55) -/

def syncCtrl (s : State) : Nat := regActive s 0x140 0
def syncMode (s : State) : Nat := fld (syncCtrl s) 1 0
def cableDelay (s : State) : Nat := fld (syncCtrl s) 47 32

/-- Pending live fields of DEV_SYNC_CTRL take effect. -/
def applySyncCtrl (s : State) : State :=
  match mfind s.cfg 0x140 with
  | none => s
  | some c => { s with cfg := mins s.cfg 0x140 { c with active := c.last } }

/-- A count that is a multiple of 2^20 ns: SYNC_OUT rises in output mode, and pending fields take effect. -/
def doSyncOutPulse (s : State) : State :=
  if s.time.count.toNat % 2 ^ 20 ≠ 0 then s else
  let s1 := applySyncCtrl s
  if syncMode s1 = 1 then emit s1 (.syncPulse s1.time.count) else s1

/-- The signed distance of a count from the nearest multiple of 2^20 ns. -/
def pulseError (c : BitVec 64) : Int :=
  let r : Nat := c.toNat % 2 ^ 20
  if r < 2 ^ 19 then (r : Int) else (r : Int) - 2 ^ 20

/-- A module with a leader that is not its own (R55). -/
def isFollower (s : State) : Bool := s.time.align == alAcquiring || s.time.align == alAligned || s.time.align == alHoldover

/-- A SYNC_IN rising edge at the present count. DESIGN CHOICE (log entry 35): in the modes off and output, where the pin is no
input, no edge is captured. -/
def doSyncInEdge (s : State) : State :=
  if syncMode s < 2 then s
  else
    let c := s.time.count - BitVec.ofNat 64 (cableDelay s)
    let s1 := { s with time := { s.time with capture := c } }
    let e := pulseError c
    if syncMode s = 3 ∧ isFollower s = true then
      let s2 := if 8 < e ∨ e < -8 then { s1 with time := { s1.time with disagree := satTo 16 (s1.time.disagree + 1) } } else s1
      if s2.time.align = alHoldover then steerBy s2 (8 * e) else s2
    else s1

/-- One ns of the module's reference: the count advances by one, and by one more or less where the steering has added up to a
whole ns (R47, R50). -/
def tick (t : TimeSt) : TimeSt :=
  let acc := t.steerAcc + t.steer
  if 1000000 ≤ acc then { t with count := t.count + 2#64, steerAcc := acc - 1000000 }
  else if acc ≤ -1000000 then { t with steerAcc := acc + 1000000 }
  else { t with count := t.count + 1#64, steerAcc := acc }

/-- A command queue that is empty: the block idles for one ns of its reference while standby power is good (R47; log
entry 3). -/
def idle (s : State) : State := if s.power.standby then { s with time := tick s.time } else s

/-! ### Snapshot, latched read, reference clocks -/

/-- A write to DEV_TIME_SNAP (R58). -/
def doDevTimeSnap (tag : BitVec 64) (s : State) : State :=
  { s with time := { s.time with snapVal := s.time.count, snapTag := tag } }

/-- A 4-byte read of DEV_SOLSTICE: the low half latches the high half, which the next read of the high half returns (R48). -/
def solsticeHalf (high : Bool) (s : State) : Nat × State :=
  let c := s.time.count.toNat
  let now := BitVec.ofNat 32 (c / 2 ^ 32)
  if high then ((s.time.lowLatch.getD now).toNat, { s with time := { s.time with lowLatch := none } })
  else (c % 2 ^ 32, { s with time := { s.time with lowLatch := some now } })

/-- A 4-byte read of DEV_SOLSTICE (R48): of the low half, which latches the high half, or of the high half, which returns what the
low half's read latched and uses it up, or else the live value. -/
def doSolsticeLowRead (high : Bool) (s : State) : State :=
  let r := solsticeHalf high s
  emit r.2 (.readData (clean (leBytes 4 r.1)))

/-- REFCLK156 is lost (R562): alignment enters HOLDOVER and every link goes down. -/
def doRefclk156Loss (s : State) : State :=
  if !s.time.refclk156 then s
  else
    let a := s.time.align
    let s1 := { s with time := { s.time with refclk156 := false, align := if a = alFree then a else alHoldover } }
    let s2 := (upLinks s1).foldl (fun s l =>
      countErr (linkEvent (setLink s l { linkOf s l with state := 1, laneMask := 0, trained := false }) l evDown) errLink catHard) s1
    (upLinks s1).foldl requeue s2

/-- REFCLK156 returns (R562): the links retrain and alignment resumes. -/
def doRefclk156Return (s : State) : State :=
  if s.time.refclk156 then s
  else
    let lead := s.time.leader == moduleId s && s.time.align == alHoldover
    let s1 := { s with time := { s.time with refclk156 := true, align := if lead then alLeader else s.time.align } }
    ((List.range 32).filter (fun l => (linkOf s1 l).state == 1 && (linkOf s1 l).everUp)).foldl startTraining s1

/-- REFCLK100 is lost (R562): both host links go down, each counted. -/
def doRefclk100Loss (s : State) : State :=
  ([0, 1].filter (fun p => (portOf s p).up)).foldl (fun s p =>
    countErr (setPort s p { portOf s p with up := false, speed := 0, width := 0, flit := false }) errHost catUncorrectable) s

end Sys2Proof.Machine
end

