-- ==== Sys2Proof/Machine/Regs.lean ====
section
/-!
DEFINITION. Sys2Proof/Machine/Regs.lean: the writable configuration registers (R520, R521): their fields by class, what
each instance's step boundary and busy condition are (R99 to R106), commits, discards and the checks of agreeing pairs
(R103, R104, R108, R109), and what taking a new value does.
-/
namespace Sys2Proof.Machine

/-! ### The register map (R520) -/

/-- A writable register: its instance, the bits of each class, and its reset value. -/
structure RegDesc where
  inst : Inst
  live : Nat
  staged : Nat
  frozen : Nat
  reset : Nat
  deriving DecidableEq, Repr

/-- The bits [hi:lo]. -/
def mask (hi lo : Nat) : Nat := put (2 ^ (hi + 1 - lo) - 1) hi lo

def liveReg (i : Inst) (m r : Nat) : Option RegDesc := some { inst := i, live := m, staged := 0, frozen := 0, reset := r }
def stagedReg (i : Inst) (m r : Nat) : Option RegDesc := some { inst := i, live := 0, staged := m, frozen := 0, reset := r }
def frozenReg (i : Inst) (m r : Nat) : Option RegDesc := some { inst := i, live := 0, staged := 0, frozen := m, reset := r }

def ringMask : Nat := mask 63 60 + mask 47 0

/-- DEV and PWR (R55, R501, R502, R551). -/
def devDesc (off : Nat) : Option RegDesc :=
  match off with
  | 0x0140 => liveReg .dev (mask 47 32 + mask 1 0) 0
  | 0x2208 => liveReg .pwr (mask 8 8) 0x100
  | 0x4000 => liveReg .dev (mask 63 0) errThreshReset
  | 0x4200 => stagedReg .dev ringMask 0
  | 0x4210 => liveReg .dev (mask 47 40 + mask 26 16 + mask 1 0) 0
  | _ => none

/-- ARR, QNT, ANL and SES, per partition (R145, R185, R271, R330); DEFAULT_MODE and DEFAULT_BAND of the image reach
ARR_CTRL at a commit. -/
def partDesc (off : Nat) : Option RegDesc :=
  let n := off % 0x10000 / 0x100
  if 64 ≤ n then none
  else
    match off / 0x10000, off % 0x100 with
    | 0x40, 0 => some { inst := .arr n, live := 0, staged := mask 1 0, frozen := mask 5 4, reset := 0 }
    | 0x41, 0 => stagedReg (.qnt n) (mask 47 32 + mask 21 0) 0
    | 0x43, 0x30 => liveReg (.anl n) (mask 47 0) 0
    | 0x48, 0 => stagedReg (.ses n) (mask 57 52 + mask 45 32 + mask 31 16) 0
    | _, _ => none

/-- FE (R337 to R340, R361). -/
def feDesc (off : Nat) : Option RegDesc :=
  if off < 0x508000 then
    match off % 0x40 with
    | 0 => stagedReg .fe ringMask 0
    | 0x08 => some { inst := .fe, live := mask 47 6, staged := mask 5 0, frozen := 0, reset := 0 }
    | 0x10 => liveReg .fe (mask 47 3) 0
    | 0x18 => liveReg .fe (mask 0 0) 0
    | _ => none
  else if off < 0x509000 then
    match off % 0x40 with
    | 0 => stagedReg .fe ringMask 0
    | 0x10 => liveReg .fe (mask 26 16 + mask 0 0) 0
    | _ => none
  else none

/-- BANK (R380, R382). -/
def bankDesc (g : Grade) (off : Nat) : Option RegDesc :=
  let c := (off - 0x600000) / 0x40
  if coresOf g ≤ c then none
  else
    match off % 0x40 with
    | 0 => stagedReg (.bank c) (mask 19 16 + mask 14 12 + mask 10 8 + mask 6 4 + mask 2 0) 0x3210
    | 0x20 => liveReg (.bank c) (mask 1 0) 1
    | _ => none

/-- SYNC (R402, R404, R405). -/
def syncDesc (g : Grade) (off : Nat) : Option RegDesc :=
  let c := (off - 0x700000) / 0x800
  let r := off % 0x800
  if coresOf g ≤ c then none
  else if r < 0x200 then
    if r % 0x10 = 0 then frozenReg (.sync c) (mask 47 35 + mask 12 0) (0xFFF * 2 ^ 35) else none
  else if r < 0x400 then
    if r % 0x10 = 0 then frozenReg (.sync c) (mask 47 35 + mask 31 0) (0xFFF * 2 ^ 35 + 2 ^ 16) else none
  else if r < 0x500 then frozenReg (.sync c) (mask 63 0) 0
  else none

/-- LNK (R432, R434). -/
def lnkDesc (off : Nat) : Option RegDesc :=
  let r := off - 0xA00000
  if r < 0x2000 then if r % 0x100 = 8 then frozenReg .lnk (mask 3 0) 8 else none
  else if r = 0x4010 then liveReg .lnk (mask 15 0) 0x7D0
  else if 0x5000 ≤ r ∧ r < 0x5400 ∧ r % 0x10 = 0 then liveReg .lnk (mask 63 0) 0
  else none

/-- DBG (R491, R493, R494). -/
def dbgDesc (off : Nat) : Option RegDesc :=
  let r := off - 0xD00000
  if r = 0 then liveReg .dbg (mask 0 0) 0
  else if r = 8 then liveReg .dbg (mask 63 60 + mask 47 0) 0
  else if 0x800 ≤ r ∧ r < 0xC00 ∧ r % 0x10 = 0 then liveReg .dbg (mask 63 63 + mask 59 56 + mask 47 0) 0
  else none

/-- Bytes of a BAR4 segment (R522). -/
def segBytes (s : State) : Nat := 2 ^ (32 + s.host.barSize)
def segReg (k : Nat) : Nat := 0xF00100 + 8 * k
def segReset (s : State) (k : Nat) : Nat := 2 ^ 63 + k * segBytes s

/-- HST (R533, R535, R536). -/
def hstDesc (s : State) (off : Nat) : Option RegDesc :=
  let r := off - 0xF00000
  if r = 0 then liveReg .hst (mask 0 0) 0
  else if 0x100 ≤ r ∧ r < 0x180 then liveReg .hst (mask 63 63 + mask 47 0) (segReset s ((r - 0x100) / 8))
  else if 0x1000 ≤ r ∧ r < 0x3000 ∧ r % 0x10 = 0 then stagedReg .hst (mask 63 7 + mask 5 0) 0
  else none

/-- The writable register at a BAR0 offset. -/
def regDesc (s : State) (off : Nat) : Option RegDesc :=
  if off % 8 ≠ 0 then none
  else if off < 0x400000 then devDesc off
  else if off < 0x500000 then partDesc off
  else if off < 0x600000 then feDesc off
  else if off < 0x700000 then bankDesc s.fuse.grade off
  else if off < 0xA00000 then syncDesc s.fuse.grade off
  else if off < 0xB00000 then lnkDesc off
  else if off = 0xB00008 then liveReg .ent (mask 13 8 + mask 3 0) 0x1804
  else if off = 0xC00010 then liveReg .mem (mask 63 62 + mask 47 0) 0
  else if off = 0xC00300 then liveReg .mem (mask 15 0) 0x80
  else if 0xD00000 ≤ off ∧ off < 0xE00000 then dbgDesc off
  else if 0xF00000 ≤ off then hstDesc s off
  else none

/-! ### Cells -/

def cell0 (d : RegDesc) : CfgCell where
  active := BitVec.ofNat 64 d.reset
  last := BitVec.ofNat 64 d.reset
  shadow := BitVec.ofNat 64 d.reset
  snap := none

def cellOf (s : State) (off : Nat) (d : RegDesc) : CfgCell := mget (cell0 d) s.cfg off
def setCell (s : State) (off : Nat) (d : RegDesc) (c : CfgCell) : State := { s with cfg := mput (cell0 d) s.cfg off c }

/-- `old` with the bits of m taken from `new`. -/
def mergeBits (m : Nat) (old new : BitVec 64) : BitVec 64 :=
  (old &&& ~~~(BitVec.ofNat 64 m)) ||| (new &&& BitVec.ofNat 64 m)

/-- The listed cells of an instance, with their offsets and fields. -/
def instCells (s : State) (i : Inst) : List (Nat × RegDesc × CfgCell) :=
  s.cfg.filterMap (fun oc =>
    match regDesc s oc.1 with
    | some d => if d.inst = i then some (oc.1, d, oc.2) else none
    | none => none)

/-- A live field that has been written and has not yet taken effect (R105). -/
def livePending (d : RegDesc) (c : CfgCell) : Bool := (c.active ^^^ c.last) &&& BitVec.ofNat 64 d.live != 0#64

def shadowDirty (d : RegDesc) (c : CfgCell) : Bool := (c.active ^^^ c.shadow) &&& BitVec.ofNat 64 d.staged != 0#64

/-! ### Step boundaries and busy instances (R101) -/

/-- The operation in flight on partition n works in the array, the drain stages or the vector unit. -/
def arrayOp (s : State) (n : Nat) : Bool :=
  match (partOf s n).op with
  | some o => o.kind == .array || o.kind == .drain || o.kind == .vector
  | none => false

/-- A command for partition n waits at the head of a slot (R147). -/
def slotWaits (s : State) (n : Nat) : Bool :=
  s.fe.slots.any (fun ks => (ks.2.state == 2 || ks.2.state == 3 || ks.2.state == 4) && slotPart s ks.1 == n)

def sessionsHot (s : State) (n : Nat) : Bool := s.ses.table.any (fun kx => kx.2.part == n && kx.2.state != 0 && isHot kx.2)

/-- Some session of partition n is hot or moving (R331). -/
def sessionsBusy (s : State) (n : Nat) : Bool := s.ses.table.any (fun kx => kx.2.part == n && 2 ≤ kx.2.state)

/-- A SCRUB runs in some slot. -/
def scrubRuns (s : State) : Bool :=
  s.fe.slots.any (fun ks => ks.2.state == 5 && (match ks.2.cmd with | some c => opcodeOf c.bits == 6 | none => false))

/-- Barrier b of core c has an arrival outstanding; a counter is busy while it has a wait, F ≠ 0, or the barrier that its
REALIGN_BAR names is busy, whether REALIGN_EN is set or not (R101, R404). -/
def barBusy (s : State) (c b : Nat) : Bool := (barOf s c b).arrived != 0

def ctrBusy (s : State) (c b : Nat) : Bool :=
  !(ctrWaiters s c b).isEmpty || fillOf (ctrOf s c b) != 0 ||
    barBusy s c (fld (ctrCfg s c b) 31 27)

/-- The object that a SYNC register governs is busy. -/
def syncBusy (s : State) (c off : Nat) : Bool :=
  let r := off % 0x800
  if r < 0x200 then barBusy s c (r / 0x10)
  else if r < 0x400 then ctrBusy s c ((r - 0x200) / 0x10)
  else barBusy s c ((r - 0x400) / 8)

/-- The instance is busy for the register at off (R101). The model counts a link as trained until it is disabled
(R430); CORE and BANK have no frozen field, and their BUSY is regRead's. -/
def busyFor (s : State) (i : Inst) (off : Nat) : Bool :=
  match i with
  | .fe => s.fe.slots.any (fun ks => ks.2.cmd.isSome)
  | .arr n | .qnt n => (partOf s n).holder.isSome || (partOf s n).arr.isOpen || slotWaits s n
  | .vec n => (match (partOf s n).op with | some o => o.kind == .vector | none => false)
  | .anl n => (anlOf s n).run.isSome
  | .ses n => sessionsHot s n
  | .core c => coreRunnable s c
  | .bank _ => false
  | .sync c => syncBusy s c off
  | .lnk => (linkOf s ((off - 0xA00000) / 0x100)).state != 0
  | .ent => !s.ent.draws.isEmpty
  | .mem => scrubRuns s
  | .pwr => true
  | .dev => false
  | .dbg => false
  | .hst => (portOf s 0).up || (portOf s 1).up

/-- CFG_STATUS.BUSY: the instance is busy for some of its fields. -/
def instBusy (s : State) (i : Inst) : Bool :=
  match i with
  | .sync c => (List.range 32).any (fun b => barBusy s c b || ctrBusy s c b)
  | .lnk => (List.range 32).any (fun l => (linkOf s l).state != 0)
  | _ => busyFor s i 0

/-- The register at off stands at its step boundary when nothing else is awaited (R101). BANK_OWNER waits for the
hand-over where it affects a bank (R371), BANK_TEST for the end of a region, PWR for the end of a loop window, DEV_SYNC_CTRL for its count. -/
def atStep (s : State) (i : Inst) (off : Nat) : Bool :=
  match i with
  | .fe => if off < 0x508000 ∧ off % 0x40 = 0 then (queueOf s ((off - 0x500000) / 0x40)).reading.isNone else true
  | .arr n | .qnt n | .vec n => !arrayOp s n
  | .anl _ => true
  | .ses n => (mfind s.ses.decs n).isNone
  | .bank c => if off % 0x40 = 0x20 then regActive s off 1 % 4 == 0 else (heldBanks s c).isEmpty
  | .lnk => !(0xA05000 ≤ off && s.net.mcast.any (fun t => t.group == (off - 0xA05000) / 0x10))
  | .pwr => false
  | .dev => off != 0x140
  | _ => true

/-! ### Agreeing pairs (R108, R109) -/

/-- The ring of a pair lies whole where rings may lie (R337, R527). -/
def ringOk (s : State) (v unit : Nat) : Bool :=
  ringBase v % 4096 == 0 && fld v 63 60 ≤ 0xA && rangeAllowed s .rings (ringBase v) (ringEntries v * unit)

def winOk (v : Nat) : Bool := (winOf v).size ≤ 24 && (winOf v).hostAddr % 2 ^ (12 + (winOf v).size) == 0

def hotAreaOk (s : State) (n v : Nat) : Bool :=
  let slots := fld v 57 52
  let units := fld v 45 32
  slots ≤ 48 && (slots == 0 || units != 0) && (fld v 31 16 + slots * units) * 65536 ≤ 2 ^ 32 && !sessionsBusy s n

/-- The value that a commit would make active passes the check of its owning chapter. -/
def pairOk (s : State) (i : Inst) (off v : Nat) : Bool :=
  match i with
  | .fe =>
    if off % 0x40 ≠ 0 then true else ringOk s v (if off < 0x508000 then 64 else 32)
  | .dev => ringOk s v 32
  | .qnt _ => fld v 21 0 % 64 == 0 && fld v 21 0 + fld v 47 32 * 8 ≤ 0x400000
  | .ses n => hotAreaOk s n v
  | .hst => winOk v
  | _ => true

/-- A pair that failed its check: the next operation that depends on it will complete with FORMAT (R109). Whether a later
commit that passes takes this back is open: the model takes it back for a ring, with afterActive, and keeps it for QNT,
SES and HST until that operation (DESIGN CHOICE, log entry 49). -/
def pairFails (s : State) (i : Inst) (off : Nat) : State :=
  match i with
  | .fe =>
    if off < 0x508000 then setQueue s ((off - 0x500000) / 0x40) { queueOf s ((off - 0x500000) / 0x40) with ringBad := true }
    else setCq s ((off - 0x508000) / 0x40) { cqOf s ((off - 0x508000) / 0x40) with ringBad := true }
  | .hst => { s with host := { s.host with winBad := (off - 0xF01000) / 0x10 :: s.host.winBad } }
  | .dev => s
  | _ => setInst s { instOf s i with pairFailed := true }

/-! ### What a new value does -/

/-- A queue takes a new ring: its indices and PENDING clear, and what has not started is dropped (R337). A FORMAT owed for
a pair that failed before goes with the old ring (DESIGN CHOICE, log entry 49). -/
def takeRing (s : State) (q : Nat) : State :=
  let x := queueOf s q
  let n := (x.writeIndex - x.readIndex).toNat + x.fetched.length
  let y := { x with
    readIndex := 0#32, writeIndex := 0#32, fetchIndex := 0#64, pending := false, fetched := [],
    dropped := satTo 8 (x.dropped + n), ringBad := false, readySince := none, woken := false, reading := none, busy := false }
  setQueue (dropRingReads s q) q y

/-- What becoming active does beyond the value itself (R123, R337, R361, R493, R502). -/
def afterActive (s : State) (i : Inst) (off : Nat) (old new : BitVec 64) : State :=
  if old = new then s
  else
    match i with
    | .fe =>
      if off < 0x508000 ∧ off % 0x40 = 0 then takeRing s ((off - 0x500000) / 0x40)
      else if 0x508000 ≤ off ∧ off % 0x40 = 0 then
        let c := (off - 0x508000) / 0x40
        setCq s c { cqOf s c with tail := 0#32, head := 0#32, ringBad := false }
      else s
    | .dev => if off = 0x4200 then { s with msg := { s.msg with tail := 0#32, head := 0#32 } } else s
    | .arr n =>
      if fld old.toNat 5 4 = fld new.toNat 5 4 then s
      else
        let p := partOf s n
        setPart s n { p with arr := { p.arr with weightsValid := false } }
    | .dbg =>
      if 0xD00800 ≤ off ∧ bitOf new.toNat 63 = true then
        { s with dbg := { s.dbg with drained := mput 0 s.dbg.drained ((off - 0xD00800) / 0x10) 0 } }
      else s
    | _ => s

def makeActive (s : State) (off : Nat) (d : RegDesc) (c : CfgCell) (new : BitVec 64) : State :=
  afterActive (setCell s off d { c with active := new }) d.inst off c.active new

/-- A cell's pending live fields take effect (R99). -/
def liveBoundary (s : State) (off : Nat) (d : RegDesc) : State :=
  let c := cellOf s off d
  if livePending d c then makeActive s off d c (mergeBits d.live c.active c.last) else s

/-- A cell's snapshot takes effect, where its pair passes its check (R104, R109). -/
def snapBoundary (s : State) (off : Nat) (d : RegDesc) : State :=
  let c := cellOf s off d
  match c.snap with
  | none => s
  | some v =>
    let new := mergeBits d.staged c.active v
    let c2 := { c with snap := none }
    if new = c.active then setCell s off d c2
    else if pairOk s d.inst off new.toNat then makeActive s off d c2 new
    else pairFails (setCell s off d c2) d.inst off

/-- A cell's step boundary: its pending live fields and its snapshot take effect. -/
def cellBoundary (s : State) (off : Nat) (d : RegDesc) : State := snapBoundary (liveBoundary s off d) off d

/-- COMMIT_PENDING clears once no snapshot of the instance waits. -/
def commitEnds (s : State) (i : Inst) : State :=
  let x := instOf s i
  if x.commitPending ∧ (instCells s i).all (fun t => t.2.2.snap.isNone) then setInst s { x with commitPending := false } else s

/-- The instance's step boundary: every field that waits takes effect. -/
def applyBoundary (s : State) (i : Inst) : State :=
  commitEnds ((instCells s i).foldl (fun s t => cellBoundary s t.1 t.2.1) s) i

/-- An image commit whose mask covers the instance has taken its shadows and has not completed: its port holds shadow
writes and commits (R110). -/
def holdsInst (s : State) (i : Inst) : Bool :=
  match s.image.committing with
  | some c => c.insts.contains i
  | none => false

/-- Such a commit has not applied yet: the snapshot waits for it. -/
def holdsSnap (s : State) (i : Inst) : Bool :=
  match s.image.committing with
  | some c => !c.applied && c.insts.contains i
  | none => false

/-- The snapshot of a cell whose boundary has come may take effect. -/
def snapDue (s : State) (d : RegDesc) (c : CfgCell) : Bool := c.snap.isSome && !holdsSnap s d.inst

/-- Cells whose fields wait and whose boundary has come. -/
def dueCells (s : State) : List (Nat × RegDesc) :=
  s.cfg.filterMap (fun oc =>
    match regDesc s oc.1 with
    | some d => if (livePending d oc.2 || snapDue s d oc.2) && atStep s d.inst oc.1 then some (oc.1, d) else none
    | none => none)

/-- What is due of a cell at its boundary: live fields always, a snapshot unless an image commit holds it. -/
def dueBoundary (s : State) (off : Nat) (d : RegDesc) : State :=
  let s1 := liveBoundary s off d
  if snapDue s1 d (cellOf s1 off d) then snapBoundary s1 off d else s1

/-- The instance stands at the boundary of its staged fields. -/
def instAtStep (s : State) (i : Inst) : Bool :=
  match i with
  | .arr _ | .qnt _ | .ses _ => atStep s i 0
  | _ => true

/-- Instances with a pending commit of which no snapshot is left and whose boundary has come; an image commit that covers
one ends with its own completion (R105, R110). -/
def endedCommits (s : State) : List Inst :=
  (s.insts.filter (fun x => x.commitPending && (instCells s x.inst).all (fun t => t.2.2.snap.isNone) && instAtStep s x.inst &&
    !holdsInst s x.inst)).map InstSt.inst

/-- Every boundary that has come. -/
def applyDue (s : State) : State :=
  let s1 := (dueCells s).foldl (fun s t => dueBoundary s t.1 t.2) s
  (endedCommits s1).foldl commitEnds s1

/-- What ends every command's step. -/
def settleAll (s : State) : State := settle (applyDue s)

/-! ### Commits and discards (R103, R104) -/

/-- The instance has S fields, hence a commit register (R521). -/
def hasStaged (i : Inst) : Bool :=
  match i with
  | .dev | .arr _ | .qnt _ | .ses _ | .fe | .bank _ | .hst => true
  | _ => false

/-- A commit snapshots every shadow of the instance; a second one replaces the first. -/
def snapshot (s : State) (i : Inst) : State :=
  let s1 := (instCells s i).foldl
    (fun s t => if t.2.1.staged = 0 then s else setCell s t.1 t.2.1 { t.2.2 with snap := some t.2.2.shadow }) s
  setInst s1 { instOf s1 i with commitPending := true }

/-- DISCARD copies every active S field into its shadow and cancels a pending commit. -/
def discard (s : State) (i : Inst) : State :=
  let s1 := (instCells s i).foldl
    (fun s t => setCell s t.1 t.2.1 { t.2.2 with shadow := mergeBits t.2.1.staged t.2.2.shadow t.2.2.active, snap := none }) s
  setInst s1 { instOf s1 i with commitPending := false }

/-- The instance returns to its reset values: active, shadow and snapshot together (R111). -/
def resetInst (s : State) (i : Inst) : State :=
  { s with
    cfg := s.cfg.filter (fun oc => match regDesc s oc.1 with | some d => d.inst != i | none => true)
    insts := s.insts.filter (fun x => x.inst != i) }

/-- The instance's configuration registers and the offset of its commit register (R521). -/
def commitOffset (i : Inst) : Option Nat :=
  match i with
  | .dev => some 0x4300
  | .arr n => some (0x400010 + 0x100 * n)
  | .qnt n => some (0x410010 + 0x100 * n)
  | .ses n => some (0x480010 + 0x100 * n)
  | .fe => some 0x50A018
  | .bank c => some (0x600008 + 0x40 * c)
  | .hst => some 0xF00020
  | _ => none

/-- The instance whose commit register lies at off. -/
def commitInst (g : Grade) (off : Nat) : Option Inst :=
  if off = 0x4300 then some .dev
  else if off = 0x50A018 then some .fe
  else if off = 0xF00020 then some .hst
  else if 0x400000 ≤ off ∧ off < 0x490000 ∧ off % 0x100 = 0x10 ∧ off % 0x10000 < 0x4000 then
    match off / 0x10000 with
    | 0x40 => some (.arr (off % 0x10000 / 0x100))
    | 0x41 => some (.qnt (off % 0x10000 / 0x100))
    | 0x48 => some (.ses (off % 0x10000 / 0x100))
    | _ => none
  else if 0x600000 ≤ off ∧ off < 0x600000 + 0x40 * coresOf g ∧ off % 0x40 = 8 then some (.bank ((off - 0x600000) / 0x40))
  else none

/-- The instance whose configuration status register lies at off. -/
def statusInst (g : Grade) (off : Nat) : Option Inst :=
  match off with
  | 0x4308 => some .dev
  | 0x2008 => some .pwr
  | 0x50A020 => some .fe
  | 0xA04018 => some .lnk
  | 0xB00018 => some .ent
  | 0xC00018 => some .mem
  | 0xD00018 => some .dbg
  | 0xF00028 => some .hst
  | _ =>
    if 0x430080 ≤ off ∧ off < 0x434080 ∧ off % 0x100 = 0x80 then some (.anl (off % 0x10000 / 0x100))
    else if 0x400000 ≤ off ∧ off < 0x490000 ∧ off % 0x100 = 0x18 ∧ off % 0x10000 < 0x4000 then
      match off / 0x10000 with
      | 0x40 => some (.arr (off % 0x10000 / 0x100))
      | 0x41 => some (.qnt (off % 0x10000 / 0x100))
      | 0x42 => some (.vec (off % 0x10000 / 0x100))
      | 0x48 => some (.ses (off % 0x10000 / 0x100))
      | _ => none
    else if 0x600000 ≤ off ∧ off < 0x600000 + 0x40 * coresOf g ∧ off % 0x40 = 0x10 then some (.bank ((off - 0x600000) / 0x40))
    else if 0x700000 ≤ off ∧ off < 0x700000 + 0x800 * coresOf g ∧ off % 0x800 = 0x508 then some (.sync ((off - 0x700000) / 0x800))
    else if 0xE00000 ≤ off ∧ off < 0xE00000 + 0x40 * coresOf g ∧ off % 0x40 = 8 then some (.core ((off - 0xE00000) / 0x40))
    else none

/-! ### Frozen writes (R106, R500) -/

/-- The error counter of an instance's frozen writes (R500). -/
def frozenKey (i : Inst) : Nat :=
  match i with
  | .core c | .bank c | .sync c => errCore c
  | _ => errConfig

def frozenWrite (s : State) (i : Inst) (off : Nat) : State :=
  let x := instOf s i
  let s1 := setInst s { x with frozenWrites := satTo 16 (x.frozenWrites + 1), seen := true, lastOffset := off / 8,
                               lastStatus := stFrozen }
  countErr s1 (frozenKey i) catProtocol

/-! ### A write to a configuration register (R99, R102) -/

/-- Field [hi:lo] of w, or of `keep` where the value is one that a write ignores (R10). -/
def keepUnless (ok : Nat → Bool) (hi lo keep w : Nat) : Nat := if ok (fld w hi lo) then w else setFld w hi lo (fld keep hi lo)

/-- w with every field whose value is ignored replaced by its present one: `keep` for live and frozen fields, `shadow`
for staged ones. -/
def legalWrite (i : Inst) (off keep shadow w : Nat) : Nat :=
  match i with
  | .arr _ => keepUnless (· < 2) 5 4 keep (keepUnless (· < 2) 1 0 shadow w)
  | .bank _ =>
    if off % 0x40 = 0 then
      keepUnless (· < 5) 14 12 shadow (keepUnless (· < 5) 10 8 shadow
        (keepUnless (· < 5) 6 4 shadow (keepUnless (· < 5) 2 0 shadow w)))
    else keepUnless (· < 2) 1 0 keep w
  | .sync _ =>
    if off % 0x800 < 0x200 then keepUnless (· ≤ 4096) 12 0 keep w
    else if off % 0x800 < 0x400 then keepUnless (fun v => decide (1 ≤ v ∧ v ≤ 1023)) 25 16 keep w
    else w
  | .lnk =>
    if off < 0xA02000 then keepUnless (fun v => v == 8 || v == 6 || v == 4) 3 0 keep w
    else if off = 0xA04010 then keepUnless (fun v => v != 0) 15 0 keep w
    else w
  | .ent =>
    keepUnless (fun v => decide (10 ≤ v ∧ v ≤ 48)) 13 8 keep (keepUnless (fun v => decide (1 ≤ v ∧ v ≤ 8)) 3 0 keep w)
  | .mem => if off = 0xC00300 then keepUnless (fun v => decide (17 ≤ v ∧ v ≤ 8192)) 15 0 keep w else w
  | _ => w

/-- The value that a write of w offers the register at off. -/
def writtenValue (s : State) (off : Nat) (d : RegDesc) (w : BitVec 64) : BitVec 64 :=
  let c := cellOf s off d
  BitVec.ofNat 64 (legalWrite d.inst off (mergeBits d.live c.active c.last).toNat c.shadow.toNat w.toNat)

/-- The write would change an F field of a busy instance: a frozen write, ignored whole (R106). -/
def isFrozenWrite (s : State) (off : Nat) (d : RegDesc) (w : BitVec 64) : Bool :=
  busyFor s d.inst off && (writtenValue s off d w ^^^ (cellOf s off d).active) &&& BitVec.ofNat 64 d.frozen != 0#64

/-- A write of the register at off that is no frozen one: F fields act at once, L fields wait for the boundary and S
fields go to the shadow (R99). -/
def writeCell (s : State) (off : Nat) (d : RegDesc) (w : BitVec 64) : State :=
  let c := cellOf s off d
  let v := writtenValue s off d w
  if isFrozenWrite s off d w then frozenWrite s d.inst off
  else
    let c1 := { c with last := mergeBits (d.live + d.frozen) c.last v, shadow := mergeBits d.staged c.shadow v }
    makeActive s off d c1 (mergeBits d.frozen c.active v)

/-- The value that a read of the register's writable fields returns: the last live value, the active staged and frozen
ones (R99, R102); in the shadow view, the shadow of the staged ones. -/
def cellRead (d : RegDesc) (c : CfgCell) (shadowView : Bool) : Nat :=
  let v := mergeBits d.live (c.active &&& BitVec.ofNat 64 (d.staged + d.frozen)) c.last
  (if shadowView then mergeBits d.staged v c.shadow else v).toNat

end Sys2Proof.Machine
end

