-- ==== Sys2Proof/Machine/Rate.lean ====
section
/-!
DEFINITION. Sys2Proof/Machine/Rate.lean: the rate-lock loop, the ceiling and its messages (R36 to R42).
-/
namespace Sys2Proof.Machine

/-- The programmed rate in units of 1/20 beat per ns (R36, R38): 6/5, 27/20 or 3/2. -/
def rateUnits (code : Nat) : Nat :=
  match code with
  | 0 => 24
  | 1 => 27
  | _ => 30

/-- Beats of the last 65,536 ns (R36). -/
def dieBeats (d : DieRate) : Nat := d.history.foldl (· + ·) 0

/-- The measured rate lies within 0.05 % of the programmed rate (R36, R41). -/
def withinRate (rate : Nat) (d : DieRate) : Bool :=
  let want := rateUnits rate * 65536
  let got := 20 * dieBeats d
  2000 * (got - want) ≤ want && 2000 * (want - got) ≤ want

/-- TRIM moves one step against the error (R36). -/
def trimMove (d : DieRate) : Nat :=
  if d.err < -80 then min 120 (d.trim + 1) else if 80 < d.err then d.trim - 1 else d.trim

/-- The loops and the boot's RATE step run: the compute side has power and the sequence has reached RATE (R542). -/
def loopsRun (s : State) : Bool := s.power.state == 2 || (s.power.state == 1 && 6 ≤ s.power.bootStep)

/-- The beats that the governor still admits in this window: no 65,536 ns of the rate in force hold more than that rate
plus 0.05 % (R37). -/
def governed (rate : Nat) (d : DieRate) : Nat :=
  rateUnits rate * 65536 * 2001 / 40000 - (d.history.take (min 63 d.age)).foldl (· + ·) 0

/-- One die's loop at a window's end: the governor, the error, TRIM, MEASURED, the lock and the run of short windows (R36, R37,
R41). `beats` is what the silicon would do, and `limiting` that the governor held it back within the window. -/
def loopStep (rate beats : Nat) (limiting : Bool) (d : DieRate) : DieRate :=
  let got := min beats (governed rate d)
  let err := d.err + 20 * (got : Int) - (rateUnits rate * 1024 : Nat)
  let d1 := { d with err := err, history := (got :: d.history).take 64, age := min 64 (d.age + 1) }
  let d2 := { d1 with trim := trimMove d1, measured := satTo 16 (dieBeats d1 * 10000 / 65536) }
  { d2 with
    locked := d2.age == 64 && withinRate rate d2 && d2.err.natAbs ≤ 320
    floor := d2.trim == 0 && (limiting || decide (governed rate d < beats))
    shortRun := if d2.trim = 120 ∧ d2.err < -80 then d2.shortRun + 1 else 0 }

def shortfallBody (s : State) (d : DieRate) (recovered : Bool) : Nat :=
  msgAt 20 1 (boolBit recovered) + msgAt 21 1 d.trim + msgAt 22 2 d.measured
    + msgAt 24 4 (sinceCount s d.entered / 2 ^ 30)

/-- AT_CEILING after the loop's step: entry after four short windows, rebasing while it lasts, and exit (R41, R42). -/
def ceilingStep (s : State) (die : Nat) (d : DieRate) : State :=
  if d.ceiling then
    if d.trim < 120 ∧ withinRate s.rate.rate d then
      let d1 := { d with ceiling := false, err := 0, shortRun := 0 }
      sendMsg (setDieRate s die d1) 0x03 0x03 die (shortfallBody s d1 true)
    else setDieRate s die { d with err := 0 }
  else if 4 ≤ d.shortRun then
    let d1 := { d with ceiling := true, err := 0, shortRun := 0, events := satTo 16 (d.events + 1), entered := s.time.count }
    sendMsg (setDieRate s die d1) 0x03 0x01 die (shortfallBody s d1 false)
  else setDieRate s die d

/-- One die's window: a step of TRIM counts in TRIM_CHANGES (R495). -/
def dieWindow (beats : List Nat) (limiting : BitVec 16) (s : State) (die : Nat) : State :=
  let old := dieRateOf s die
  let d := loopStep s.rate.rate (nth 0 beats die) (limiting.toNat.testBit die) old
  ceilingStep (if d.trim = old.trim then s else perfAdd s (perfDie die 6) 1) die d

/-- Every die is locked (R36). -/
def allLocked (s : State) : Bool := (List.range 16).all (fun d => (dieRateOf s d).locked)

/-- The end of a 1,024 ns window: every loop steps, RELOCKING clears once every die is locked, and the PWR instance
meets its step boundary (R36, R38, R101). -/
def doRateLockWindow (beats : List Nat) (limiting : BitVec 16) (s : State) : State :=
  if !loopsRun s then applyBoundary s .pwr
  else
    let s1 := (List.range 16).foldl (dieWindow beats limiting) s
    let s2 := if s1.rate.relocking ∧ allLocked s1 then { s1 with rate := { s1.rate with relocking := false } } else s1
    applyBoundary s2 .pwr

/-- A die still at its ceiling repeats its message every 2^30 ns (R42). -/
def doRateShortfallRepeat (die : Nat) (s : State) : State :=
  let d := dieRateOf s die
  if die < 16 ∧ d.ceiling ∧ sinceCount s d.entered % 2 ^ 30 = 0 ∧ d.entered ≠ s.time.count then sendMsg s 0x03 0x02 die (shortfallBody s d false) else s

/-- A rate change retargets every loop and sets RELOCKING (R38, R40): E and the windows that a lock and the governor judge start
anew, and MEASURED goes on over the last 65,536 ns (R39). -/
def retarget (s : State) (rate : Nat) : State :=
  let s1 := (List.range 16).foldl
    (fun s d => setDieRate s d { dieRateOf s d with err := 0, age := 0, locked := false, shortRun := 0 }) s
  { s1 with rate := { s1.rate with rate := rate, relocking := true } }

end Sys2Proof.Machine
end

