-- ==== Sys2Proof/Machine/ResetBase.lean ====
section
/-!
DEFINITION. Sys2Proof/Machine/ResetBase.lean: how a partition's work is stopped (R547 step 2), partition and core resets
(R546 to R548), the requests that wait (R549), and what a reset leaves of each instance (R111, R134, R233, R319, R398,
R451).
-/
namespace Sys2Proof.Machine

/-! ### Long registers (R134, R148) -/

/-- The key of long register j of core c. A die's bottom-edge registers are those of its bottom core row (R17; log
entry 32). -/
def longKey (c j : Nat) : Nat := 64 * c + j

def clearLongs (s : State) (cores : List Nat) : State :=
  let s1 := { s with longs := s.longs.filter (fun kr => !cores.contains (kr.1 / 64)) }
  (cores.filterMap (partOfCore s1)).eraseDups.foldl (fun s n =>
    let p := partOf s n
    if p.arr.passed.isNone then s else setPart s n { p with arr := { p.arr with cleared := p.arr.cleared ++ cores } }) s1

/-! ### Instances -/

/-- Every instance that p names returns to its reset values (R111). -/
def resetInsts (s : State) (p : Inst → Bool) : State :=
  { s with
    cfg := s.cfg.filter (fun oc => match regDesc s oc.1 with | some d => !p d.inst | none => true)
    insts := s.insts.filter (fun x => !p x.inst) }

def isPartInst (n : Nat) (i : Inst) : Bool :=
  match i with
  | .arr k | .qnt k | .vec k | .anl k | .ses k => k == n
  | _ => false

def isCoreInst (cores : List Nat) (i : Inst) : Bool :=
  match i with
  | .core c | .bank c | .sync c => cores.contains c
  | _ => false

/-! ### The end of a partition's work (R547 step 2, R485) -/

/-- The stalls of an operation that stops ns after its first beat: what it waited for data and for links and what it lost
to a rate shortfall, each a free value within the time that the others leave (R45; log entry 4). -/
def stopStalls (s : State) (k ns : Nat) : Nat × State :=
  let m := takeFree s 48
  let mem := m.1 % (ns + 1)
  let l := takeFree m.2 48
  let link := l.1 % (ns - mem + 1)
  let f := takeFree l.2 48
  let short := f.1 % (ns - mem - link + 1)
  let t := slotOf f.2 k
  (mem + link + short,
   setSlot f.2 k { t with memStall := t.memStall + mem, linkStall := t.linkStall + link, shortfall := t.shortfall + short })

/-- The beats that ns at the programmed rate hold, within the 0.05 % that a beat may stray (R44, R45), the place between the
two bounds being a free value. -/
def beatsWithin (s : State) (ns : Nat) : Nat × State :=
  let units := rateUnits s.rate.rate
  let lo := (ns * units * 1999 + 39999) / 40000
  let hi := ns * units * 2001 / 40000
  let f := takeFree s 48
  (lo + f.1 % (hi - lo + 1), f.2)

/-- The work beats to the stop of slot k's command and its stalls: those of the graph's nodes that have ended and of the
operation in flight. One that has drained and waits for its packets knows its beats (R44, R45, R547). -/
def stopBeats (s : State) (k : Nat) : Nat × State :=
  let t := slotOf s k
  if t.state ≠ 5 then (0, s)
  else
    match (partOf s (slotPart s k)).op with
    | some r =>
      if r.kind = .leaving then (t.graph.beats + fld r.desc.toNat 255 192, s)
      else if r.kind = .graph then (t.graph.beats, s)
      else
        let ns := sinceCount s r.started
        let x := stopStalls s k ns
        let y := beatsWithin x.2 (ns - x.1)
        (t.graph.beats + (if t.graph.node = 0 then 0 else 24) + y.1, y.2)
    | none =>
      let ns := sinceCount s t.started
      let x := stopStalls s k ns
      beatsWithin x.2 (ns - x.1)

/-- DETAIL of a graph: nodes run, the first that was not OK, elements dropped (R358). -/
def graphDetail (g : GraphRun) : Nat := put g.node 63 48 + put (min g.firstBad 0xFFFF) 47 32 + satTo 32 g.dropped

/-- The command of slot k stops, with its beats to the stop. DETAIL is zero where it ends with ABANDONED (R547), and a
graph's otherwise tells what had run (R358). -/
def stopSlot (s : State) (k status : Nat) : State :=
  let w := stopBeats s k
  let t := slotOf w.2 k
  let isGraph := match t.cmd with | some c => opcodeOf c.bits == 0x21 | none => false
  complete w.2 k (doneOp status (if isGraph && status != stAbandoned then graphDetail t.graph else 0) w.1)

/-- The command that holds partition n, and a run that is paused, stop and write nothing further. `hit` gives the
status of the command in a slot, `run` that of a run in it. -/
def stopPart (s : State) (n : Nat) (hit run : Nat → Nat) : State :=
  let s1 := match (anlOf s n).run with | some r => dropRun s n (run r.slot) | none => s
  let s2 := match (partOf s1 n).holder with | some k => stopSlot s1 k (hit k) | none => s1
  let s3 := dropDecode s2 n
  let a := anlOf s3 n
  setPart (setAnl s3 n { a with loading := none }) n { partOf s3 n with holder := none, armed := false, op := none }

/-! ### Partition reset (R546, R547) -/

/-- What the partition's annealer keeps across a reset: FAIL_INDEX, LAST_END and RUNS (R235, R305). -/
def anlAfterReset (a : AnlSt) : AnlSt := { anl0 with failIndex := a.failIndex, lastEnd := a.lastEnd, runs := a.runs }

/-- The cores' own state: sync objects and contexts, bank registers, long registers, expander clients. -/
def resetCores (s : State) (cores : List Nat) : State :=
  let s1 := cores.foldl (fun s c => setBank (syncResetCore s c) c bank0) s
  let s2 := (cores.flatMap coreClients).foldl resetClient (clearLongs s1 cores)
  resetInsts s2 (isCoreInst cores)

/-- Steps 3 and 4 of R547, once the partition's work has stopped. -/
def clearPart (s : State) (n : Nat) : State :=
  let s1 := resetCores s (partCores s n)
  let s2 := partSessionsLost s1 n
  let s3 := resetInsts s2 (isPartInst n)
  let s4 := setVec (setAnl s3 n (anlAfterReset (anlOf s3 n))) n vec0
  endHalt (setPart s4 n { part0 with launching := (partOf s4 n).launching }) n

/-- A partition reset: commands end with ABANDONED, a run with PARTIAL. -/
def resetPart (s : State) (n : Nat) : State := clearPart (stopPart s n (fun _ => stAbandoned) (fun _ => stPartial)) n

/-- A partition reset after the watchdog of slot k expired: its command ends with TIMEOUT (R362). -/
def resetHung (s : State) (n k : Nat) : State :=
  clearPart (stopPart s n (fun j => if j = k then stTimeout else stAbandoned) (fun j => if j = k then stTimeout else stPartial)) n

/-! ### Core reset (R548) -/

/-- A core reset is performed as a partition reset while the partition has work, a run or a hot session. -/
def promotes (s : State) (n : Nat) : Bool :=
  (partOf s n).holder.isSome || slotWaits s n || (anlOf s n).run.isSome || sessionsBusy s n

def resetCoreNow (s : State) (c : Nat) : State :=
  match partOfCore s c with
  | none => resetCores s [c]
  | some n =>
    if promotes s n then
      let s1 := { s with power := { s.power with promoted := satTo 8 (s.power.promoted + 1) } }
      resetPart s1 n
    else
      let s1 := unloadProblem (resetCores s [c]) n
      let p := partOf s1 n
      setPart s1 n { p with arr := { p.arr with weightsValid := false } }

/-! ### Requests (R549) -/

def runReset (s : State) (r : ResetReq) : State :=
  match r with
  | .part n => resetPart s n
  | .core c => resetCoreNow s c

/-- An image load, an image commit or a core retirement runs that covers partition n. -/
def structural (s : State) (n : Nat) : Bool :=
  (match s.image.loading with | some l => l.mask.toNat.testBit n | none => false) ||
  (match s.image.committing with | some c => c.mask.toNat.testBit n | none => false) || quiesces s n

def reqPart (s : State) (r : ResetReq) : Option Nat :=
  match r with
  | .part n => some n
  | .core c => partOfCore s c

def reqWaits (s : State) (r : ResetReq) : Bool :=
  match reqPart s r with
  | some n => structural s n
  | none => false

/-- A request runs at once, or waits for the structural command that covers its partition. -/
def askReset (s : State) (r : ResetReq) : State :=
  if reqWaits s r then
    if s.power.waiting.contains r then s else { s with power := { s.power with waiting := s.power.waiting ++ [r] } }
  else runReset s r

/-- The requests that nothing holds any more run. -/
def runWaiting (s : State) : State :=
  let due := s.power.waiting.filter (fun r => !reqWaits s r)
  let s1 := { s with power := { s.power with waiting := s.power.waiting.filter (fun r => reqWaits s r) } }
  due.foldl runReset s1

/-- A request that names no declared partition, or no logical core, is ignored and counted (R553). -/
def badReset (s : State) : State := countErr s errConfig catProtocol

/-- PWR_RESET.PARTITION_RESET; a request while BUSY is ignored (R549). -/
def doPartitionReset (n : Nat) (s : State) : State :=
  if !s.power.waiting.isEmpty then s
  else if (partImg s n).isSome then askReset s (.part n) else badReset s

/-- PWR_RESET.CORE_RESET. -/
def doCoreReset (c : Nat) (s : State) : State :=
  if !s.power.waiting.isEmpty then s
  else if c < logicalCores s then askReset s (.core c) else badReset s

end Sys2Proof.Machine
end

