-- ==== Sys2Proof/Machine/ParamRead.lean ====
section
/-!
DEFINITION. Sys2Proof/Machine/ParamRead.lean: what ends every command's step, and how a command reads its parameter block
(R347, R430, R452, R464, R482, R487, R527): from local memory at once, or through a host window by a request whose bytes
arrive later; the command's row is then given again.
-/
namespace Sys2Proof.Machine

/-- What ends every command's step: resets that nothing holds any more, step boundaries, messages, rings and queues. -/
def settleStep (s : State) : State := settle (applyDue (runWaiting s))

/-- What a command finds of its block. -/
inductive Block where
  | wait (s : State)
  | poison (s : State)
  | bytes (bs : List Byte) (s : State)
  deriving DecidableEq, Repr

/-- The block's bytes are there: poison is consumed (R464). -/
def blockOf (s : State) (bs : List PByte) : Block :=
  if anyPoison bs then .poison (noteConsumed s 1) else .bytes (dataOf bs) s

def keepParam (s : State) (k : Nat) (bs : List PByte) : State :=
  setSlot s k { slotOf s k with param := some bs, paramDue := false }

/-- A replay supplies the bytes that a command of partition n reads through a host window at a (R489). -/
def replayRead (s : State) (a : Nat) : Option (List Byte × State) :=
  let r := replayOf s
  match r.hostReads.find? (fun x => x.1 == a) with
  | none => none
  | some x => some (x.2, setReplay s { r with hostReads := r.hostReads.erase x })

/-- The block of n bytes at a is read once for the command of slot k. -/
def blockRead (s : State) (k a n : Nat) : Block :=
  match (slotOf s k).param with
  | some bs => blockOf s bs
  | none =>
    match region s.fuse.grade a with
    | .hostWin w off =>
      if replays s (slotPart s k) then
        match replayRead s a with
        | some (bs, s1) => blockOf (keepParam s1 k (clean bs)) (clean bs)
        | none => .wait s
      else if (slotOf s k).paramDue then .wait s
      else
        let r := winRead s w off n (.param k)
        if r.1 then .wait (setSlot r.2 k { slotOf r.2 k with paramDue := true })
        else .poison (noteConsumed r.2 1)
    | _ =>
      let r := localRead s ownDma a n
      blockOf (keepParam r.state k r.bytes) r.bytes

/-- HOST_READ entries of bytes that a command of partition n read from a (R488). -/
def recordHostRead : Nat → State → Nat → Nat → List Byte → State
  | 0, s, _, _, _ => s
  | fuel + 1, s, n, a, bs =>
    if bs.isEmpty then s
    else
      let s1 := recordEntry s 8 n 0 (leBytes 8 a ++ bs.take 1024)
      recordHostRead fuel s1 n (a + 1024) (bs.drop 1024)

/-- Bytes lo .. hi of a block. -/
def blkFld (bs : List Byte) (lo hi : Nat) : Nat := ofLe ((bs.drop lo).take (hi + 1 - lo))

/-- Bytes lo .. hi of a block are zero. -/
def blkZero (bs : List Byte) (lo hi : Nat) : Bool := ((bs.drop lo).take (hi + 1 - lo)).all (· == 0#8)

/-- The command of slot k runs with opcode op and this ACTION. -/
def actionCmd (s : State) (k op action : Nat) : Option Fetched :=
  match runningCmd s k op with
  | some c => if cmdFld c.bits 16 16 = action then some c else none
  | none => none

/-- Every partition of a mask stands between operations. -/
def maskIdle (s : State) (m : Nat) : Bool := (bitList 64 m).all (fun n => (partOf s n).holder.isNone || (partOf s n).armed)

/-- Every partition of a mask is declared. -/
def maskDeclared (s : State) (m : Nat) : Bool := (bitList 64 m).all (fun n => (partImg s n).isSome)

/-- A command ends with one status and DETAIL zero. -/
def endCmd (s : State) (k status : Nat) : State := completeAs s k status 0

end Sys2Proof.Machine
end

