-- ==== Sys2Proof/Machine/BankRows.lean ====
section
/-!
DEFINITION. Sys2Proof/Machine/BankRows.lean: banks: the hand-over of R371 and what it holds meanwhile (R372), the
background test (R377, R378, R382) and BANK_STATUS (R381).
-/
namespace Sys2Proof.Machine

/-! ### Hand-over (R371, R372) -/

/-- The owner of bank b is at rest: an annealer while no run is RUNNING, so also while one is armed. A DMA engine and a remote master are between two of their transactions at every
command of the model. -/
def ownerRests (s : State) (c b : Nat) : Bool :=
  match partOfCore s c with
  | none => true
  | some n =>
    match bankOwner s c b with
    | 0 => !(match (partOf s n).op with | some o => o.kind == .array || o.kind == .drain | none => false)
    | 1 => !(match (partOf s n).op with | some o => o.kind == .vector | none => false)
    | 2 => !(match (anlOf s n).run with | some r => r.state == 1 | none => false)
    | _ => true

/-- A pending commit of core c's owners applies once every affected bank's owner is at rest; BANK_TEST's MODE has its own
boundary (R378). Packets from peers that the hold delayed take effect now (R372). -/
def doBankHandover (c : Nat) (s : State) : State :=
  if logicalCores s ≤ c ∨ (instOf s (.bank c)).commitPending = false ∨ holdsSnap s (.bank c) = true then s
  else if (heldBanks s c).all (ownerRests s c) then
    match regDesc s (bankReg c) with
    | some d => releaseAll (commitEnds (snapBoundary s (bankReg c) d) (.bank c))
    | none => s
  else s

/-! ### BANK_STATUS (R381) -/

def bankStatus (s : State) (c : Nat) : Nat :=
  let b := bankOf s c
  put b.refused 63 48 + put b.dmaWaitMax 47 32 + put b.testFails 31 24 + put b.failBanks.toNat 23 20
    + (heldBanks s c).foldl (fun t i => t + 2 ^ (16 + i)) 0

/-- A read of BANK_STATUS returns it and clears DMA_WAIT_MAX. -/
def doBankStatusRead (c : Nat) (s : State) : State :=
  if logicalCores s ≤ c then s
  else
    emit (setBank s c { bankOf s c with dmaWaitMax := 0 }) (.readData (clean (leBytes 8 (bankStatus s c))))

/-! ### The background test (R377, R378, R382) -/

def bankTestReg (c : Nat) : Nat := 0x600020 + 0x40 * c
def bankTestOn (s : State) (c : Nat) : Bool := regActive s (bankTestReg c) 1 % 4 == 1

/-- The complete passes of the bank that is furthest behind. -/
def passesOf (b : BankSt) : Nat := b.wraps.foldl min (nth 0 b.wraps 0)

/-- The bank that is furthest behind: fewest wraps, then lowest region, then lowest letter. -/
def slowestBank (b : BankSt) : Nat := (leastBy (fun i => nth 0 b.wraps i * 4096 + nth 0 b.region i) [0, 1, 2, 3]).getD 0

def bankTest (s : State) (c : Nat) : Nat :=
  let b := bankOf s c
  let i := slowestBank b
  let w := match regDesc s (bankTestReg c) with | some d => cellRead d (cellOf s (bankTestReg c) d) false | none => 0
  put b.passes 63 32 + put (nth 0 b.region i) 23 12 + put i 11 10 + w

/-- The region tested: its bank moves on, and wraps after region 4,095. -/
def nextRegion (b : BankSt) (i : Nat) : BankSt :=
  let r := nth 0 b.region i
  let b1 := if r = 4095 then { b with region := setNth 0 b.region i, wraps := setNth (nth 0 b.wraps i + 1) b.wraps i }
            else { b with region := setNth (r + 1) b.region i }
  { b1 with passes := satTo 32 (passesOf b1) }

/-- The region that bank b of core c tests now: it is read with correction at the save, and its check bits are fresh
after the restore; a word saved with poison is restored with poison (R377, R378). -/
def scrubRegion (s : State) (c b : Nat) : State :=
  let a := scratchAddr c (b * 2 ^ 20 + nth 0 (bankOf s c).region b * 256)
  (s.integ.ecc.filter (fun ce => meets a 256 ce.1)).foldl (fun s ce => narrowCw s ce.1 ce.2) s

/-- Bank `bank` of core c ends the test of its region: the contents are as before, with the accesses that fell in it
(R378); a failed check is counted. A change of MODE takes effect now (R382). -/
def doBankTestRegion (c bank : Nat) (fails : Bool) (s : State) : State :=
  if logicalCores s ≤ c ∨ 4 ≤ bank ∨ bankTestOn s c = false then s
  else
    let s0 := scrubRegion s c bank
    let b1 := nextRegion (bankOf s0 c) bank
    let s1 :=
      if fails then
        countErr (setBank s0 c { b1 with testFails := satTo 8 (b1.testFails + 1), failBanks := b1.failBanks ||| BitVec.ofNat 4 (2 ^ bank) })
          (errCore c) catHard
      else setBank s0 c b1
    match regDesc s1 (bankTestReg c) with
    | some d => liveBoundary s1 (bankTestReg c) d
    | none => s1

end Sys2Proof.Machine
end

