-- ==== Sys2Proof/Machine/ReplayRows.lean ====
section
/-!
DEFINITION. Sys2Proof/Machine/ReplayRows.lean: record and replay (R487 to R490): the REPLAY actions, and the application
of log entries to the partitions of a replay.
-/
namespace Sys2Proof.Machine

/-! ### The actions (R487) -/

/-- A range lies in the HBM of software. -/
def inHbm (s : State) (a n : Nat) : Bool :=
  rangeAllowed s .localOnly a n && isHbm s a && isHbm s (a + n - 1)

/-- The ranges of a RECORD's block: START, BYTES pairs, zero for none. -/
def replayRanges (b : List Byte) : List (Nat × Nat) :=
  ((List.range 3).map (fun i => (blkFld b (16 + 16 * i) (23 + 16 * i), blkFld b (24 + 16 * i) (31 + 16 * i)))).filter
    (fun r => r != (0, 0))

def recordBad (s : State) (b : List Byte) : Bool :=
  let m := blkFld b 0 7
  m == 0 || !maskDeclared s m || (replayRanges b).any (fun r => !inHbm s r.1 r.2) || (replayOf s).state != 0

/-- The log is emptied, START is written for each partition, and recording begins. -/
def startRecord (s : State) (b : List Byte) : State :=
  let r := replayOf s
  let m := blkFld b 0 7
  let s1 := setReplay s { r with state := 1, overflow := false, seq := 0#32, mask := BitVec.ofNat 64 m,
                                 kinds := BitVec.ofNat 64 (blkFld b 8 15), ranges := replayRanges b, log := [], bad := [],
                                 beats := [], cursors := [], fetches := [], admits := [], entropy := [], hostReads := [] }
  (bitList 64 m).foldl (fun s n =>
    logAdd s 1 n 0 (match partImg s n with | some p => leBytes 16 p.buildId.toNat | none => [])) s1

/-- A REPLAY action other than STOP reads its block; `run` acts on it. -/
def replayAction (action k : Nat) (run : State → List Byte → State) (s : State) : State :=
  match actionCmd s k 0x74 action with
  | none => s
  | some c =>
    match blockRead s k (cmdFld c.bits 24 31) 64 with
    | .wait s1 => s1
    | .poison s1 => endCmd s1 k stPoison
    | .bytes b s1 => run s1 b

/-- RECORD in slot k waits for its partitions, then starts and completes. -/
def doRecord (k : Nat) (s : State) : State :=
  replayAction 1 k (fun s b =>
    if recordBad s b then endCmd s k stFormat
    else if maskIdle s (blkFld b 0 7) then endCmd (startRecord s b) k stOk
    else s) s

/-- STOP: END is written, and recording or replay stops. A recording that overflowed, or an entry that was poisoned,
makes it PARTIAL (R487, R507). -/
def doReplayStop (k : Nat) (s : State) : State :=
  match actionCmd s k 0x74 2 with
  | none => s
  | some _ =>
    let s1 := if (replayOf s).state = 1 then logAdd s 9 0 0 [] else s
    let r := replayOf s1
    let st := if r.overflow || r.partly then stPartial else stOk
    endCmd (setReplay s1 { r with state := 0, mask := 0#64, overflow := false, partly := false, fetches := [], admits := [],
                                  entropy := [], hostReads := [] }) k st

/-- Byte i of the log, with its poison; a byte past what the log holds is not stated (log entry 4). -/
def logByte (s : State) (i : Nat) : PByte :=
  let r := replayOf s
  if i < r.log.length then (nth 0#8 r.log i, r.bad.contains i) else (BitVec.ofNat 8 (Config.freeValue (s.fresh + i)), false)

def playBad (s : State) (b : List Byte) : Bool :=
  let m := blkFld b 0 7
  m == 0 || !maskDeclared s m || (replayOf s).state != 0

/-- PLAY in slot k waits for its partitions, then starts and completes. -/
def doPlay (k : Nat) (s : State) : State :=
  replayAction 5 k (fun s b =>
    if playBad s b then endCmd s k stFormat
    else if maskIdle s (blkFld b 0 7) then
      let r := replayOf s
      endCmd (setReplay s { r with state := 2, mask := BitVec.ofNat 64 (blkFld b 0 7), beats := [], cursors := [],
                                   fetches := [], admits := [], entropy := [], hostReads := [] }) k stOk
    else s) s

/-! ### Entries (R488, R489) -/

structure LogEntry where
  typ : Nat
  source : Nat
  beat : Nat
  payload : List Byte
  start : Nat
  next : Nat
  deriving DecidableEq, Repr

/-- The next entry of partition n at or after position at; `fuel` bounds the entries passed over. -/
def entryFrom : Nat → List Byte → Nat → Nat → Option LogEntry
  | 0, _, _, _ => none
  | fuel + 1, log, n, at_ =>
    let h := (log.drop at_).take 32
    if h.length < 32 then none
    else
      let len := blkFld h 2 3
      let next := at_ + 32 + (len + 31) / 32 * 32
      if blkFld h 0 0 = 0 then none
      else if blkFld h 1 1 = n then
        some { typ := blkFld h 0 0, source := blkFld h 4 7, beat := blkFld h 8 13, payload := (log.drop (at_ + 32)).take len,
               start := at_, next := next }
      else entryFrom fuel log n next

def nextEntry (s : State) (n : Nat) : Option LogEntry :=
  let r := replayOf s
  entryFrom (r.log.length / 32 + 1) r.log n (mget 0 r.cursors n)

/-- Partition n returns to live inputs; with the last one the replay is over. -/
def leavesReplay (s : State) (n : Nat) : State :=
  let r := replayOf s
  let m := r.mask &&& ~~~(BitVec.ofNat 64 (2 ^ n))
  setReplay s { r with mask := m, state := if m = 0#64 then 0 else r.state }

/-- The payload as 64-byte flits. -/
def flitsOf (bs : List Byte) : List (BitVec 512) :=
  (List.range (bs.length / 64)).map (fun i => BitVec.ofNat 512 (ofLe ((bs.drop (64 * i)).take 64)))

/-- A recorded sync signal, or an announce to a sync object, is delivered (R489). -/
def syncEntry (s : State) (e : LogEntry) : State :=
  match flitsOf e.payload with
  | [] => s
  | f :: _ =>
    if flitByte f 0 0 = 0x10 then signalLands s (flitByte f 2 2) (flitByte f 4 7) (flitByte f 8 15)
    else announceWrite s (flitByte f 2 2) (flitByte f 8 13) (BitVec.ofNat 64 (flitByte f 24 31)) (flitByte f 20 23)

/-- One entry takes effect. -/
def applyLogEntry (s : State) (n : Nat) (e : LogEntry) : State :=
  let r := replayOf s
  match e.typ with
  | 2 =>
    let q := e.source
    markReady (setQueue s q { queueOf s q with writeIndex := BitVec.ofNat 32 (blkFld e.payload 0 3), pending := true }) q
  | 3 => setReplay s { r with fetches := mins r.fetches e.source (mget [] r.fetches e.source ++ [e.payload]) }
  | 4 => setReplay s { r with admits := mins r.admits n (mget [] r.admits n ++ [blkFld e.payload 2 3]) }
  | 5 => match packetHead (flitsOf e.payload) with | some p => landWrite s p.1 | none => s
  | 6 => syncEntry s e
  | 7 => setReplay s { r with entropy := mins r.entropy e.source (mget [] r.entropy e.source ++ [e.payload]) }
  | 8 => setReplay s { r with hostReads := r.hostReads ++ [(blkFld e.payload 0 7, e.payload.drop 8)] }
  | _ => s

/-- The next entry of partition n is due and is applied in log order; a poisoned entry, or none left, returns the
partition to live inputs (R489, R507). -/
def doReplayEntryApply (n : Nat) (s : State) : State :=
  if !replays s n then s
  else
    match nextEntry s n with
    | none => leavesReplay s n
    | some e =>
      let r := replayOf s
      if r.bad.any (fun i => e.start ≤ i && i < e.next) then leavesReplay (setReplay s { r with partly := true }) n
      else if mget 0 r.beats n < e.beat then s
      else applyLogEntry (setReplay s { r with cursors := mput 0 r.cursors n e.next }) n e

end Sys2Proof.Machine
end

