-- ==== Sys2Proof/Machine/CopyRows.lean ====
section
/-!
DEFINITION. Sys2Proof/Machine/CopyRows.lean: the copy engines: COPY, FILL and SCRUB (R347, R469, R470), EXPORT and IMPORT
of the replay log (R487), chunk by chunk of 64 KiB (R362, R366).
-/
namespace Sys2Proof.Machine

def chunkSize : Nat := 65536

def copyOf (s : State) (k : Nat) : CopyRun := (slotOf s k).copy
def setCopy (s : State) (k : Nat) (c : CopyRun) : State := setSlot s k { slotOf s k with copy := c }

/-- The bytes of the chunk that comes next. -/
def chunkLen (c : CopyRun) : Nat := min chunkSize (c.total - c.done)

def markPartial (s : State) (k : Nat) (b : Bool) : State := if b then flagSlot s k stPartial else s

/-! ### Reading beyond the module (R417, R517) -/

/-- Bytes of a COPY arrive, or are copied: they go to the destination with their poison (R463, R464). -/
def copyLands (s : State) (k off : Nat) (bs : List PByte) : State :=
  let c := copyOf s k
  let w := devWrite s (some k) .data (c.dst + off) bs
  let s1 := markPartial w.2 k w.1
  match region s.fuse.grade (c.dst + off) with
  | .peer _ _ | .mcast _ _ => s1
  | _ => noteMoved s1 (poisonUnits bs)

/-- Reads of up to `most` bytes that none crosses a multiple of `most`; `fuel` bounds them. -/
def readPieces : Nat → Nat → Nat → Nat → List (Nat × Nat)
  | 0, _, _, _ => []
  | fuel + 1, most, a, n =>
    if n = 0 then []
    else
      let k := min n (most - a % most)
      (a, k) :: readPieces fuel most (a + k) (n - k)

/-- One read of a COPY through a host window: a request, bytes of a replay, or poison where the window does not carry
it (R489, R530). -/
def issueWindow (s : State) (k w base : Nat) (p : Nat × Nat) : State :=
  let c := copyOf s k
  let r := winRead s w (p.1 - base) p.2 (.copy k (p.1 - c.src))
  if r.1 then r.2 else copyLands r.2 k (p.1 - c.src) (List.replicate p.2 (0#8, true))

def issuePeer (s : State) (k m base : Nat) (p : Nat × Nat) : State :=
  peerRead s m (p.1 - base) p.2 (.copy k (p.1 - (copyOf s k).src))

/-- A replay holds the bytes of every piece. -/
def replayHas (s : State) (ps : List (Nat × Nat)) : Bool :=
  ps.all (fun p => (replayOf s).hostReads.any (fun x => x.1 == p.1))

def replayLands (s : State) (k : Nat) (p : Nat × Nat) : State :=
  match replayRead s p.1 with
  | none => s
  | some (bs, s1) => copyLands s1 k (p.1 - (copyOf s1 k).src) (clean bs)

/-- The reads of the next chunk go out when its source lies beyond the module. -/
def issueChunk (s : State) (k : Nat) : State :=
  let c := copyOf s k
  let a := c.src + c.done
  let n := chunkLen c
  if c.done < c.issued ∨ n = 0 then s
  else
    match region s.fuse.grade a with
    | .hostWin w off =>
      if replays s (slotPart s k) then
        let ps := readPieces 100 1024 a n
        if replayHas s ps then
          let s1 := ps.foldl (fun s p => replayLands s k p) s
          setCopy s1 k { copyOf s1 k with issued := c.done + n }
        else s
      else
        let s1 := (readPieces 100 4096 a n).foldl (fun s p => issueWindow s k w (a - off) p) s
        setCopy s1 k { copyOf s1 k with issued := c.done + n }
    | .peer m off =>
      let s1 := (readPieces 100 1024 a n).foldl (fun s p => issuePeer s k m (a - off) p) s
      setCopy s1 k { copyOf s1 k with issued := c.done + n }
    | _ => s

/-- The source of the chunk lies beyond the module. -/
def farSource (s : State) (a : Nat) : Bool :=
  match region s.fuse.grade a with
  | .hostWin _ _ | .peer _ _ => true
  | _ => false

def readsOf (s : State) (k : Nat) : Bool :=
  s.host.reads.any (fun r => match r.why with | .copy j _ => j == k | _ => false)

/-- Packets of slot k that wait for a route or for their pair, and its multicast transfers (R423, R426, R427). -/
def packetsOf (s : State) (k : Nat) : Bool :=
  s.net.held.any (fun h => h.pkt.slot == some k) || s.net.tx.any (fun t => t.2.waiting.any (fun p => p.slot == some k)) ||
    s.net.mcast.any (fun t => t.slot == some k)

/-! ### Starting (R347, R469) -/

/-- COPY in slot k begins. -/
def doCopy (k : Nat) (s : State) : State :=
  match runningCmd s k 4 with
  | none => s
  | some c =>
    if (copyOf s k).total ≠ 0 then s
    else
      let x := c.bits
      issueChunk (setCopy s k { copy0 with src := cmdFld x 24 31, dst := cmdFld x 32 39, total := cmdFld x 40 47 }) k

/-- FILL in slot k begins. -/
def doFill (k : Nat) (s : State) : State :=
  match runningCmd s k 5 with
  | none => s
  | some c =>
    if (copyOf s k).total ≠ 0 then s
    else
      let x := c.bits
      setCopy s k { copy0 with dst := cmdFld x 24 31, total := cmdFld x 32 39, pattern := BitVec.ofNat 64 (cmdFld x 40 47) }

/-- The range of a SCRUB lies in HBM, in stacked SRAM or in one scratchpad (R469). -/
def scrubRange (s : State) (a n : Nat) : Bool :=
  n % 64 == 0 && n != 0 && rangeAllowed s .scrub a n &&
  (match region s.fuse.grade a, region s.fuse.grade (a + n - 1) with
   | .hbm, .hbm => true
   | .sram _ _, .sram _ _ => true
   | .scratch c _, .scratch d _ => c == d
   | _, _ => false)

/-- SCRUB in slot k begins. -/
def doScrub (k : Nat) (s : State) : State :=
  match runningCmd s k 6 with
  | none => s
  | some c =>
    if (copyOf s k).total ≠ 0 then s
    else
      let x := c.bits
      if scrubRange s (cmdFld x 24 31) (cmdFld x 32 39) then
        setCopy s k { copy0 with src := cmdFld x 24 31, dst := cmdFld x 40 47, total := cmdFld x 32 39 }
      else endCmd s k stFormat

/-- EXPORT begins: DEST and BYTES lie in HBM (R487). -/
def doExport (k : Nat) (s : State) : State :=
  replayAction 3 k (fun s b =>
    let n := blkFld b 8 15
    if (copyOf s k).total ≠ 0 then s
    else if n = 0 then endCmd s k stOk
    else if logSize < n ∨ inHbm s (blkFld b 0 7) n = false then endCmd s k stFormat
    else setCopy s k { copy0 with dst := blkFld b 0 7, total := n }) s

/-- IMPORT begins: the log is emptied, and fills from SRC. -/
def doImport (k : Nat) (s : State) : State :=
  replayAction 4 k (fun s b =>
    let n := blkFld b 8 15
    if (copyOf s k).total ≠ 0 then s
    else if logSize < n ∨ (n ≠ 0 ∧ inHbm s (blkFld b 0 7) n = false) then endCmd s k stFormat
    else
      let s1 := setReplay s { replayOf s with log := [], bad := [] }
      if n = 0 then endCmd s1 k stOk else setCopy s1 k { copy0 with src := blkFld b 0 7, total := n }) s

/-! ### Chunks -/

/-- One piece of a local COPY source: refused bytes are neither read nor written (R367). -/
def copyPiece (k : Nat) (s : State) (p : Nat × Nat) : State :=
  match refusedAt s ownDma false p.1 with
  | some w => flagSlot (countRefused s w) k stPartial
  | none =>
    let s1 := touch s (plainAddr s p.1) p.2
    copyLands s1 k (p.1 - (copyOf s1 k).src) (peekRange s1 ownDma p.1 p.2)

def copyChunk (s : State) (k : Nat) : State :=
  let c := copyOf s k
  if farSource s (c.src + c.done) then s
  else (pieces s (c.src + c.done) (chunkLen c)).foldl (copyPiece k) s

/-- Byte a of the range takes byte a mod 8 of PATTERN. -/
def fillChunk (s : State) (k : Nat) : State :=
  let c := copyOf s k
  let bs := (List.range (chunkLen c)).map (fun i => BitVec.ofNat 8 (c.pattern.toNat / 2 ^ (8 * ((c.done + i) % 8))))
  let w := devWrite s (some k) .data (c.dst + c.done) (clean bs)
  markPartial w.2 k w.1

/-- Rows repaired so far, over all dies and stacks. -/
def repairTotal (s : State) : Nat :=
  (List.range 16).foldl (fun t d => t + (dieRepairOf s d).sramRepaired + (dieRepairOf s d).bankRepaired + (stackOf s d).softPpr) 0

/-- One faulty codeword of a SCRUB: what it found goes to the summary. -/
def scrubCw (k : Nat) (s : State) (ce : Nat × EccCell) : State :=
  let c := copyOf s k
  let r0 := repairTotal s
  let s1 := touchCw s ce.1 ce.2
  let c1 := { c with repaired := c.repaired + (repairTotal s1 - r0) }
  match cwDecode ce.1 { ce.2 with report := if ce.2.report = 1 then 0 else ce.2.report } with
  | .clean => setCopy s1 k c1
  | .corrected _ => setCopy s1 k { c1 with corrected := c1.corrected + 1 }
  | .poison => setCopy s1 k { c1 with oldPoison := c1.oldPoison + 1 }
  | .uncorrectable => setCopy s1 k { c1 with newPoison := c1.newPoison + 1, firstUe := c1.firstUe.orElse (fun _ => some ce.1) }

/-- A piece of a SCRUB: refused where the bank refuses the DMA engine, whatever a fence says (R469). -/
def scrubPiece (k : Nat) (s : State) (p : Nat × Nat) : State :=
  match refusedAt s ownDma false p.1 with
  | some (.bank b) =>
    let s1 := flagSlot (countRefused s (.bank b)) k stPartial
    setCopy s1 k { copyOf s1 k with refused := (copyOf s1 k).refused + p.2 / 64 }
  | _ => (s.integ.ecc.filter (fun ce => meets p.1 p.2 ce.1)).foldl (scrubCw k) s

def scrubChunk (s : State) (k : Nat) : State :=
  let c := copyOf s k
  (pieces s (c.src + c.done) (chunkLen c)).foldl (scrubPiece k) s

def exportChunk (s : State) (k : Nat) : State :=
  let c := copyOf s k
  let n := chunkLen c
  let bs := (List.range n).map (fun i => logByte s (c.done + i))
  let w := localWrite { s with fresh := s.fresh + c.done + n } ownDma (c.dst + c.done) bs
  noteMoved (markPartial w.2 k w.1) (poisonUnits bs)

def importChunk (s : State) (k : Nat) : State :=
  let c := copyOf s k
  let x := localRead s ownDma (c.src + c.done) (chunkLen c)
  let r := replayOf x.state
  let bad := (List.range x.bytes.length).filter (fun i => (nth (0#8, false) x.bytes i).2)
  noteMoved (setReplay x.state { r with log := r.log ++ dataOf x.bytes, bad := r.bad ++ bad.map (· + r.log.length) })
    (poisonUnits x.bytes)

/-- The summary record of a SCRUB (R470). -/
def scrubSummary (s : State) (c : CopyRun) : List Byte :=
  leBytes 8 c.total ++ leBytes 8 c.corrected ++ leBytes 8 c.newPoison ++ leBytes 8 c.oldPoison ++ leBytes 8 c.repaired
    ++ leBytes 8 (c.firstUe.getD (2 ^ 64 - 1)) ++ leBytes 8 s.time.count.toNat ++ leBytes 4 s.time.boots.toNat
    ++ leBytes 4 c.refused

/-- The whole range is done: SCRUB writes its summary, and the command completes. -/
def copyEnds (s : State) (k op : Nat) : State :=
  if packetsOf s k then s
  else if op = 6 then
    let w := devWrite s (some k) .data (copyOf s k).dst (clean (scrubSummary s (copyOf s k)))
    endCmd (markPartial w.2 k w.1) k stOk
  else endCmd s k stOk

/-- Addresses of the chunk that a DMA engine touches. -/
def chunkHeld (s : State) (c : CopyRun) : Bool :=
  (c.src != 0 && dmaHeld s (c.src + c.done) (chunkLen c)) || (c.dst != 0 && dmaHeld s (c.dst + c.done) (chunkLen c))

/-- What a chunk does, by the command in the slot. -/
def runChunk (s : State) (k op action : Nat) : State :=
  match op with
  | 4 => copyChunk s k
  | 5 => fillChunk s k
  | 6 => scrubChunk s k
  | _ => if action = 3 then exportChunk s k else importChunk s k

/-- The copy engine of slot k finishes a chunk: progress (R362), the next chunk's reads, or the command's end. -/
def chunkDone (s : State) (k op action : Nat) : State :=
  let c := copyOf s k
  let s1 := runChunk s k op action
  let s2 := noteProgress (setCopy s1 k { copyOf s1 k with done := c.done + chunkLen c }) k
  if (copyOf s2 k).done = c.total then copyEnds s2 k op
  else if op = 4 then issueChunk s2 k else s2

/-- A copy engine reaches the end of a chunk, with upsets that struck the memory meanwhile and the shared waits of its
accesses. A row whose reads are outstanding, or whose bank is held (R372), is given again. -/
def doCopyEngineDone (k : Nat) (us : List Upset) (waits : List (Nat × Nat)) (s : State) : State :=
  match (slotOf s k).cmd with
  | none => s
  | some c =>
    let op := opcodeOf c.bits
    let r := copyOf s k
    if (slotOf s k).state ≠ 5 ∨ r.total = 0 ∨ (op ≠ 4 ∧ op ≠ 5 ∧ op ≠ 6 ∧ op ≠ 0x74) then s
    else
      let s0 := noteDmaWaits (upsets s us) waits
      if r.done = r.total then copyEnds s0 k op
      else if op = 4 ∧ farSource s0 (r.src + r.done) = true ∧ r.issued ≤ r.done then issueChunk s0 k
      else if readsOf s0 k ∨ chunkHeld s0 r = true then s0
      else chunkDone s0 k op (cmdFld c.bits 16 16)

end Sys2Proof.Machine
end

