-- ==== Sys2Proof/Machine/MarchRows.lean ====
section
/-!
DEFINITION. Sys2Proof/Machine/MarchRows.lean: March mode (R482 to R486): arming against a peer, window records and their
comparison, the halt on a mismatch, LOST, and the orderly end.
-/
namespace Sys2Proof.Machine

def setMarchPart (s : State) (n : Nat) (p : MarchPart) : State :=
  let m := marchOf s
  setMarch s { m with parts := mins m.parts n p }

/-- DISARMs whose partitions have all left March complete. -/
def endDisarms (s : State) : State :=
  let m := marchOf s
  let isDone := fun (w : MarchWait) => w.disarm && (bitList 64 w.mask.toNat).all (fun n => (mfind m.parts n).isNone)
  let s1 := setMarch s { m with waits := m.waits.filter (fun w => !isDone w) }
  (m.waits.filter isDone).foldl (fun s w => endCmd s w.slot stOk) s1

/-- March ends for partition n; with the last one the state is off, unless a mismatch or a loss stays on show. -/
def marchEnds (s : State) (n : Nat) : State :=
  let m := marchOf s
  let ps := mdel m.parts n
  endDisarms (setMarch s { m with parts := ps, state := if ps = [] ∧ m.state = 1 then 0 else m.state })

/-! ### Arming (R482) -/

/-- Some expander client of partition n draws from entropy: of its cores, or of a session bound to it. -/
def drawsEntropy (s : State) (n : Nat) : Bool :=
  ((partCores s n).flatMap coreClients).any (fun i => !isSeeded s i) ||
    s.ses.table.any (fun kx => kx.2.part == n && kx.2.state != 0 && !kx.2.seeded)

def armBad (s : State) (b : List Byte) : Bool :=
  let m := blkFld b 8 15
  blkFld b 0 0 == moduleId s || !blkZero b 1 7 || !blkZero b 24 63 || m == 0 || !maskDeclared s m ||
    (bitList 64 m).any (drawsEntropy s)

/-- What a module sends to its peer: each partition's build id and core count. -/
def armParts (s : State) (m : Nat) : List (Nat × BitVec 128 × Nat) :=
  (bitList 64 m).filterMap (fun n => (partImg s n).map (fun p => (n, p.buildId, (partCores s n).length)))

def armWait (s : State) (k : Nat) : Option MarchWait := (marchOf s).waits.find? (fun w => w.slot == k && !w.disarm)

def dropWait (s : State) (k : Nat) : State :=
  let m := marchOf s
  setMarch s { m with waits := m.waits.filter (fun w => w.slot != k) }

/-- ARM sends its values once every partition of the mask stands between operations. -/
def sendArm (s : State) (k : Nat) (b : List Byte) : State :=
  let m := blkFld b 8 15
  let w : MarchWait := { slot := k, disarm := false, mask := BitVec.ofNat 64 m, sent := true }
  let s1 := setMarch s { marchOf s with waits := (marchOf s).waits ++ [w] }
  emit s1 (.marchArm (blkFld b 0 0) (BitVec.ofNat 64 (blkFld b 16 23)) (BitVec.ofNat 64 m) (armParts s m))

/-- MARCH ARM in slot k. -/
def doArm (k : Nat) (s : State) : State :=
  match actionCmd s k 0x73 1 with
  | none => s
  | some c =>
    if (armWait s k).isSome then s
    else
      match blockRead s k (cmdFld c.bits 24 31) 64 with
      | .wait s1 => s1
      | .poison s1 => endCmd s1 k stPoison
      | .bytes b s1 =>
        if armBad s1 b then endCmd s1 k stFormat
        else if (upRoute s1 (blkFld b 0 0)).isEmpty then endCmd s1 k stLinkDown
        else if maskIdle s1 (blkFld b 8 15) then sendArm s1 k b
        else s1

/-- The block that the ARM of slot k read. -/
def armBlock (s : State) (k : Nat) : List Byte := dataOf ((slotOf s k).param.getD [])

def marchPart0 : MarchPart where
  window := 0
  sigs := []
  own := []
  peer := []
  final := none
  disarm := false

/-- The peer's values arrive: equal ones arm both modules. -/
def doMarchArmExchange (k : Nat) (key mask : BitVec 64) (parts : List (Nat × BitVec 128 × Nat)) (s : State) : State :=
  match armWait s k with
  | none => s
  | some w =>
    let b := armBlock s k
    let s1 := dropWait s k
    if key.toNat = blkFld b 16 23 ∧ mask = w.mask ∧ parts = armParts s w.mask.toNat then
      let m := marchOf s1
      let ps := (bitList 64 w.mask.toNat).foldl (fun ps n => mins ps n marchPart0) m.parts
      endCmd (setMarch s1 { m with parts := ps, state := 1, peerModule := blkFld b 0 0, key := key }) k stOk
    else endCmd s1 k stFormat

/-- The peer has not armed within 100 ms. -/
def doArmTimeout (k : Nat) (s : State) : State :=
  match armWait s k with
  | none => s
  | some _ => endCmd (dropWait s k) k stTimeout

/-- MARCH DISARM in slot k: the next window record of each partition is final. -/
def doDisarm (k : Nat) (s : State) : State :=
  match actionCmd s k 0x73 2 with
  | none => s
  | some c =>
    if (marchOf s).waits.any (fun w => w.slot == k) then s
    else
      match blockRead s k (cmdFld c.bits 24 31) 64 with
      | .wait s1 => s1
      | .poison s1 => endCmd s1 k stPoison
      | .bytes b s1 =>
        let m := marchOf s1
        let mask := blkFld b 8 15
        let ps := m.parts.map (fun np => if mask.testBit np.1 then (np.1, { np.2 with disarm := true }) else np)
        let w : MarchWait := { slot := k, disarm := true, mask := BitVec.ofNat 64 mask, sent := true }
        endDisarms (setMarch s1 { m with parts := ps, waits := m.waits ++ [w] })

/-! ### Comparison (R484, R485) -/

/-- The lowest window of which both records are there. -/
def nextCompare (p : MarchPart) : Option (Nat × List (BitVec 64) × List (BitVec 64)) :=
  match leastBy Prod.fst (p.own.filter (fun o => p.peer.any (fun q => q.1 == o.1))) with
  | none => none
  | some o =>
    match p.peer.find? (fun q => q.1 == o.1) with
    | none => none
    | some q => some (o.1, o.2, q.2)

/-- A record spread over the flat indexes, as DBG_MARCH_LOCAL_i and DBG_MARCH_PEER_i show it. -/
def spread (s : State) (cores : List Nat) (sigs : List (BitVec 64)) : List (BitVec 64) :=
  (List.range (logicalCores s)).map (fun c => ((cores.zip sigs).find? (fun x => x.1 == c)).elim 0#64 Prod.snd)

/-- The operation in flight ends with LOCKSTEP_MISMATCH; a run that is paused, or a command that is only armed, stays. -/
def stopMarch (s : State) (n : Nat) : State :=
  match (partOf s n).holder with
  | none => s
  | some k => if (slotOf s k).state = 5 then stopPart s n (fun _ => stLockstep) (fun _ => stLockstep) else s

/-- DETAIL of the March messages (R504). -/
def marchDetail (n k : Nat) : Nat := n % 64 * 2 ^ 26 + k % 2 ^ 26

/-- The records of window k differ: the partition halts, with what it found on show. -/
def mismatch (s : State) (n k : Nat) (own peer : List (BitVec 64)) : State :=
  let cores := partCores s n
  let bad := ((cores.zip (own.zip peer)).filter (fun x => x.2.1 != x.2.2)).map Prod.fst
  let s1 := stopMarch s n
  let m := marchOf s1
  let s2 := setMarch s1
    { m with state := 2, window := k, firstCore := bad.headD 0, cores := bad.length, part := n,
             localSigs := spread s cores own, peerSigs := spread s cores peer }
  let s3 := sendErrMsg (countErr s2 errLockstep catUncorrectable) 0x04 errLockstep catUncorrectable (marchDetail n k)
  marchEnds (haltPart s3 n 2) n

/-- Every window of partition n with both records is compared; `fuel` bounds them. Where the records of window k differ, the
partition goes on to window k + 3 and halts there (R485). -/
def compareUpTo : Nat → State → Nat → State
  | 0, s, _ => s
  | fuel + 1, s, n =>
    match mfind (marchOf s).parts n with
    | none => s
    | some p =>
      match nextCompare p with
      | none => s
      | some (k, own, peer) =>
        if own ≠ peer then (if k + 3 ≤ p.window then mismatch s n k own peer else s)
        else if p.final = some k then marchEnds s n
        else
          compareUpTo fuel (setMarchPart s n { p with own := p.own.filter (fun o => o.1 != k),
                                                      peer := p.peer.filter (fun o => o.1 != k) }) n

def compareAll (s : State) (n : Nat) : State :=
  match mfind (marchOf s).parts n with
  | none => s
  | some p => compareUpTo (p.own.length + 1) s n

/-- A window record goes to the peer as WRITE packets (R484); its address is free, and the event names its parts. -/
def sendRecord (s : State) (n : Nat) (p : MarchPart) (sigs : List (BitVec 64)) : State :=
  let m := (marchOf s).peerModule
  let bytes := clean (sigs.flatMap (fun w => leBytes 8 w.toNat))
  emit (sendWrite s 1 m (1024 * Config.recordBlock n p.window) 0 bytes none) (.marchRecord m n p.window sigs p.disarm)

/-- A window closes: its record goes to the peer and is compared. A partition does not begin window k + 3 before window k
has been compared, so window k + 3 cannot close either. -/
def doMarchWindowEnd (n : Nat) (s : State) : State :=
  match mfind (marchOf s).parts n with
  | none => s
  | some p =>
    if p.own.any (fun o => o.1 + 3 ≤ p.window) then s
    else
      let sigs := (partCores s n).map (fun c => BitVec.ofNat 64 (mget 0 p.sigs c))
      let s1 := setMarchPart s n { p with window := p.window + 1, sigs := [], own := p.own ++ [(p.window, sigs)],
                                          final := if p.disarm ∧ p.final.isNone then some p.window else p.final }
      compareAll (sendRecord s1 n p sigs) n

/-- The peer's record of a window arrives; `final` is its mark of R486. -/
def doMarchRecordReceive (n window : Nat) (sigs : List (BitVec 64)) (final : Bool) (s : State) : State :=
  match mfind (marchOf s).parts n with
  | none => s
  | some p =>
    if p.peer.any (fun o => o.1 == window) then s
    else
      compareAll (setMarchPart s n { p with peer := p.peer ++ [(window, sigs)],
                                            final := if final then some window else p.final }) n

/-- March is lost for partition n at its lowest window that has not been compared (R484). -/
def marchLost (s : State) (n : Nat) : State :=
  match mfind (marchOf s).parts n with
  | none => s
  | some p =>
    let k := ((leastBy Prod.fst p.own).map Prod.fst).getD p.window
    let m := marchOf s
    let s1 := setMarch s { m with state := 3 }
    let s2 := sendErrMsg (countErr s1 errLockstep catProtocol) 0x03 errLockstep catProtocol (marchDetail n k)
    marchEnds s2 n

/-- The peer's record has not come within 10 ms of the hold's start: the hold stands at window k + 3. -/
def doMarchRecordTimeout (n : Nat) (s : State) : State :=
  match mfind (marchOf s).parts n with
  | none => s
  | some p => if p.own.any (fun o => o.1 + 3 ≤ p.window) then marchLost s n else s

end Sys2Proof.Machine
end

