-- ==== Sys2Proof/Machine/DebugRows.lean ====
section
/-!
DEFINITION. Sys2Proof/Machine/DebugRows.lean: the peek port (R491), the end of halts and single steps (R493), and the
performance counters' FREEZE and CLEAR (R494, R495).
-/
namespace Sys2Proof.Machine

/-! ### The peek port (R491) -/

/-- A write of DBG_PEEK_ADDR starts a read, unless one is under way. -/
def doPeek (addr : BitVec 64) (s : State) : State :=
  if s.dbg.peekBusy then s
  else
    let v := addr &&& BitVec.ofNat 64 (mask 63 60 + mask 47 0)
    let s1 := setActive s 0xD00008 v.toNat
    { s1 with dbg := { s1.dbg with peekBusy := true, peekPoison := false, peekFault := false, peekAddr := v } }

/-- What a peek returns: FAULT, POISON, and eight words. -/
def peekEnds (s : State) (fault poison : Bool) (ws : List (BitVec 64)) : State :=
  { s with dbg := { s.dbg with peekBusy := false, peekFault := fault, peekPoison := poison, peekData := ws } }

def noWords : List (BitVec 64) := List.replicate 8 0#64

def wordsOf8 (bs : List Byte) : List (BitVec 64) := (List.range 8).map (fun i => BitVec.ofNat 64 (blkFld bs (8 * i) (8 * i + 7)))

/-- A device address that a peek reads: memory, an alias of it, a sync window, or the event area. -/
def peekable (s : State) (a : Nat) : Bool :=
  a % 64 == 0 && (match region s.fuse.grade a with | .events => true | _ => isLocal s.fuse.grade a)

def peekMemory (s : State) (a : Nat) : State :=
  match region s.fuse.grade a with
  | .events => peekEnds s false false ((List.range 8).map (fun i => eventOf s ((a - eventBase) / 8 + i)))
  | .syncWin _ _ => peekEnds s false false (wordsOf8 ((List.range 64).map (fun i => Config.syncRead (a + i))))
  | _ =>
    let r := readMem s (plainAddr s a) 64
    peekEnds r.2 false (anyPoison r.1) (wordsOf8 (dataOf r.1))

/-- Core c's long registers stand at its die's bottom edge as its partition has it (R17, R18), where the die's sums land (R125,
R126). -/
def isEdgeCore (s : State) (c : Nat) : Bool :=
  match partOfCore s c with
  | none => true
  | some n =>
    match partImg s n with
    | none => true
    | some p => if p.shape.dieRect then coreRow s.fuse.grade c == 7 else coreRow s.fuse.grade c == p.shape.hiRow

/-- Words 0 to 2 hold the value, word 3 the guard bits and RANGE (R148, R149). -/
def longWords (r : LongReg) : List (BitVec 64) :=
  let v := wrapTo 200 r.value
  [BitVec.ofNat 64 v, BitVec.ofNat 64 (v / 2 ^ 64), BitVec.ofNat 64 (v / 2 ^ 128),
   BitVec.ofNat 64 (v / 2 ^ 192 + (if r.range then 256 else 0)), 0#64, 0#64, 0#64, 0#64]

/-- What the long registers above the bottom edges hold (R19, R134, R547; log entry 32): zero after a reset, and after an operation
a free value. -/
def passedWords (s : State) (c j : Nat) : List (BitVec 64) :=
  match partOfCore s c with
  | none => longWords long0
  | some n =>
    let a := (partOf s n).arr
    match a.passed with
    | none => longWords long0
    | some f =>
      if a.cleared.contains c then longWords long0
      else
        let v := Config.passedLong f (longKey c j)
        [BitVec.ofNat 64 v, BitVec.ofNat 64 (v / 2 ^ 64), BitVec.ofNat 64 (v / 2 ^ 128), BitVec.ofNat 64 (v / 2 ^ 192 % 512), 0#64, 0#64, 0#64, 0#64]

def peekLong (s : State) (c j : Nat) : State :=
  peekEnds s false false (if isEdgeCore s c then longWords (mget long0 s.longs (longKey c j)) else passedWords s c j)

/-- The read of the peek takes place and ends it. -/
def doPeekDone (s : State) : State :=
  if !s.dbg.peekBusy then s
  else
    let v := s.dbg.peekAddr.toNat
    let a := fld v 47 0
    match fld v 63 60 with
    | 0 => if peekable s a then peekMemory s a else peekEnds s true false noWords
    | 1 =>
      let c := fld a 26 16
      let j := fld a 5 0
      if c < logicalCores s then peekLong s c j else peekEnds s true false noWords
    | 2 =>
      let d := fld a 35 32
      let j := fld a 9 0
      if j < 64 * cpr s then peekLong s (flatIndex s.fuse.grade d 7 (j / 64)) (j % 64) else peekEnds s true false noWords
    | _ => peekEnds s true false noWords

/-! ### Halts (R485, R493) -/

/-- RESUME ends the halt; after a halt by March it first resets the partition. -/
def doResume (n : Nat) (s : State) : State :=
  match haltCause s n with
  | 0 => s
  | 2 => endHalt (resetPart s n) n
  | _ => endHalt s n

/-- STEP ends the halt and arms a breakpoint after one drained operation. -/
def doStep (n : Nat) (s : State) : State :=
  let s1 := doResume n s
  let s2 := setActive s1 (breakReg n) (put 1 63 63 + put 3 59 56 + 1)
  { s2 with dbg := { s2.dbg with drained := mput 0 s2.dbg.drained n 0 } }

/-! ### Performance counters (R494, R495) -/

def doFreeze (freeze : Bool) (s : State) : State := setActive s 0xD00000 (boolBit freeze)

def doClear (s : State) : State := { s with dbg := { s.dbg with perf := [] } }

end Sys2Proof.Machine
end

