-- ==== Sys2Proof/Machine/Status.lean ====
section
/-!
DEFINITION. Sys2Proof/Machine/Status.lean: the status registers of the blocks (R105, R146, R187, R213, R234, R235, R272 to
R274, R305, R306, R332, R340, R344), and what a fault capture holds of them (R363).
-/
namespace Sys2Proof.Machine

/-! ### Partition status -/

def opKind (s : State) (n : Nat) : Option OpKind := (partOf s n).op.map OpRun.kind

/-- ARR_STATUS (R146). -/
def arrStatus (s : State) (n : Nat) : Nat :=
  let a := (partOf s n).arr
  let leaves := match (partOf s n).op with | some r => r.kind == .leaving && r.tree | none => false
  let running := opKind s n == some .array || opKind s n == some .drain || leaves
  put a.dropped 63 48 + put a.poisoned 47 32 + put a.preloadRounded 31 16 + put (boolBit a.weightsValid) 2 2
    + put (boolBit a.isOpen) 1 1 + boolBit running

/-- QNT_STATUS (R187). -/
def qntStatus (s : State) (n : Nat) : Nat :=
  let q := (partOf s n).qnt
  put q.skewed 63 48 + put q.outOfWindow 47 32 + put q.firstToken 31 8 + put q.firstGroup 7 1 + boolBit q.seen

/-- VEC_STATUS (R213). -/
def vecStatus (s : State) (n : Nat) : Nat :=
  let v := vecOf s n
  put v.poisonLanes 63 48 + put v.cvtRange 47 32 + put v.nanQuant 31 16 + put v.suppressed 15 4
    + put (boolBit v.entropyWait) 1 1 + boolBit (opKind s n == some .vector)

/-- ANL_PROB_STATUS (R234). -/
def anlProbStatus (s : State) (n : Nat) : Nat :=
  let a := anlOf s n
  let st := if a.loading.isSome then 1 else if a.prob.isSome then 2 else 0
  let p := match a.prob with
    | some p => put (boolBit (!p.dense)) 61 61 + put (boolBit p.qubo) 60 60 + put (boolBit p.int4) 59 59
    | none => 0
  put st 63 62 + p + put a.lastCheck 55 48 + put a.fenceRefused 47 32 + put a.loads 31 16 + put a.fails 15 0

/-- ANL_TEMP (R272). -/
def anlTemp (s : State) (n : Nat) : Nat :=
  let a := anlOf s n
  put a.phase 63 62 + put a.colourPhase 61 57 + put a.temp 31 0

/-- ANL_MOVE_STATUS (R273). -/
def anlMoveStatus (s : State) (n : Nat) : Nat :=
  let a := anlOf s n
  let frost := match a.run with | some r => r.frost | none => false
  put a.curveRejected 63 48 + put a.lastCurveFail 39 32 + put (boolBit a.colourIgnored) 3 3 + put (boolBit frost) 2 2
    + put a.policy 1 0

def hasSteer (r : AnlRun) (p : Steer → Bool) : Bool := r.steer.any p

/-- ANL_RUN_STATUS (R305). -/
def anlRunStatus (s : State) (n : Nat) : Nat :=
  let a := anlOf s n
  let run := match a.run with
    | none => 0
    | some r =>
      put r.state 63 62 + put (boolBit r.split.isSome) 61 61
        + put (boolBit (hasSteer r (fun x => match x with | .pause _ => true | _ => false))) 60 60
        + put (boolBit (hasSteer r (fun x => match x with | .resume _ => true | _ => false))) 59 59
        + put (boolBit (r.frostNext || hasSteer r (fun x => match x with | .frost _ => true | _ => false))) 58 58
  run + put (boolBit a.clipped) 57 57 + put a.lastEnd 55 48 + put a.traceLost 47 32 + put a.runs 31 0

/-- SES_STATUS (R332). -/
def sesStatus (s : State) (n : Nat) : Nat :=
  let x := sesPartOf s n
  put x.stale 63 48 + put x.moves 47 32 + put x.lost 31 16 + put (hotIn s n) 5 0

/-- SES_MODULE (R332). -/
def sesModule (s : State) : Nat :=
  put (4096 - (s.ses.table.filter (fun e => e.2.state != 0)).length) 44 32 + put (hotCount s) 5 0

/-! ### Configuration status (R105) -/

/-- LIVE_PENDING: the annealer reads a new curve record at its next boundary (R264). -/
def instLivePending (s : State) (i : Inst) : Bool :=
  (instCells s i).any (fun t => livePending t.2.1 t.2.2) ||
  (match i with | .anl n => (match (anlOf s n).run with | some r => r.newCurve | none => false) | _ => false)

def cfgStatus (s : State) (i : Inst) : Nat :=
  let x := instOf s i
  put x.frozenWrites 63 48 + put x.lastOffset 46 24 + put x.lastStatus 23 16 + put (boolBit x.seen) 8 8
    + put (boolBit (instBusy s i)) 3 3 + put (boolBit (instLivePending s i)) 2 2
    + (if hasStaged i then put (boolBit x.commitPending) 1 1
        + boolBit ((instCells s i).any (fun t => shadowDirty t.2.1 t.2.2)) else 0)

/-! ### Front-end status -/

/-- FE_QUEUE_STATUS.STATE (R340). -/
def queueState (s : State) (q : Nat) : Nat :=
  let x := queueOf s q
  if queuePart s q = 0xFF then 6
  else if isStopped s q && x.slot.isNone then 5
  else if (mfind s.fe.waits q).isSome then (if x.slot.isSome then 3 else 4)
  else if x.slot.isSome then 2
  else if hasCommands x || x.woken then 1
  else 0

def queueStatus (s : State) (q : Nat) : Nat :=
  let x := queueOf s q
  put x.readIndex.toNat 63 32 + put (x.slot.getD 0xFF) 31 24 + put x.overruns 23 16 + put x.dropped 15 8
    + put (boolBit x.pending) 3 3 + put (queueState s q) 2 0

/-- FE_SLOT_STATUS.STATE (R344): a slot that holds a queue and no command is fetching while the queue has commands. -/
def slotState (s : State) (k : Nat) : Nat :=
  let t := slotOf s k
  match t.cmd, t.queue with
  | none, some q => if t.state = 7 then 7 else if hasCommands (queueOf s q) then 1 else 0
  | _, _ => t.state

def slotStatus (s : State) (k : Nat) : Nat :=
  let t := slotOf s k
  let op := match t.cmd with | some c => opcodeOf c.bits | none => 0
  put (t.queue.getD 0) 47 39 + put (boolBit t.queue.isSome) 38 38 + put op 31 24 + put (slotState s k) 23 16 + put t.hangs 15 0

/-! ### Fault captures (R363) -/

/-- The state of context i of core c: waiting on sync or on entropy, runnable where a release, a refusal or an abandonment let it
go on; else `free` says whether firmware runs it, which no rule computes (log entry 4). -/
def ctxState (s : State) (c i free : Nat) : Nat :=
  if (ctxOf s (4 * c + i)).wait.isSome then 2
  else if s.ent.draws.contains (5 * c + i) then 3
  else if ctxRunnable (ctxOf s (4 * c + i)) then 1
  else free

/-- Core i's word. Whether a DMA or remote-master transaction is under way, no rule computes (log entry 4). -/
def coreWord (s : State) (n c : Nat) : BitVec 64 × State :=
  let r := takeFree s 6
  let waits := (List.range 4).filter (fun i => (ctxOf s (4 * c + i)).wait.isSome)
  let ctx := (List.range 4).foldl (fun t i => t + ctxState s c i (fld r.1 i i) * 4 ^ i) 0
  let kind := opKind s n
  let anneals := match (anlOf s n).run with | some x => x.state == 1 | none => false
  (BitVec.ofNat 64 (put ctx 63 56 + put (boolBit (kind == some .array)) 55 55 + put (boolBit (kind == some .vector)) 54 54
    + put (boolBit anneals) 53 53 + put (fld r.1 4 4) 52 52 + put (fld r.1 5 5) 51 51 + put (boolBit (!waits.isEmpty)) 50 50
    + put (partOf s n).lastDesc 47 0), r.2)

def coreWords (s : State) (n : Nat) : List (BitVec 64) × State :=
  (partCores s n).foldl (fun (x : List (BitVec 64) × State) c =>
    let r := coreWord x.2 n c
    (x.1 ++ [r.1], r.2)) ([], s)

/-- BLOCKS: the partition's status registers, zero where none is declared, then the slot's. -/
def captureBlocks (s : State) (n k : Nat) : List (BitVec 64) :=
  let part := if (partImg s n).isSome then
      [arrStatus s n, qntStatus s n, vecStatus s n, anlRunStatus s n, anlMoveStatus s n, sesStatus s n, cfgStatus s (.arr n)]
    else List.replicate 7 0
  (part ++ [slotStatus s k]).map (BitVec.ofNat 64)

/-- The fault capture of the command in slot k. -/
def capture (s : State) (k status reason : Nat) : State :=
  let n := slotPart s k
  let bs := captureBlocks s n k
  let ws := coreWords s n
  addCapture ws.2 k status reason bs ws.1

/-- Byte words of a capture as BAR0 shows it. -/
def captureWord (x : Capture) (j : Nat) : Nat :=
  if j < 8 then fld x.bits.toNat (64 * j + 63) (64 * j)
  else
    match j with
    | 8 => x.ringAddr
    | 9 => put x.queue 15 0 + put x.slot 23 16 + put x.status 31 24 + put x.reason 39 32 + put x.part 47 40 + put x.seq.toNat 63 48
    | 10 => x.count.toNat
    | 11 => put x.boots.toNat 31 0 + put x.words.length 63 32
    | _ =>
      if j < 20 then (nth 0#64 x.blocks (j - 12)).toNat
      else if 64 ≤ j then (nth 0#64 x.words (j - 64)).toNat
      else 0

end Sys2Proof.Machine
end

