-- ==== Sys2Proof/Machine/RegRead.lean ====
section
/-!
DEFINITION. Sys2Proof/Machine/RegRead.lean: what a read of a BAR0 register returns (R519 to R521, R544), block by block.
-/
namespace Sys2Proof.Machine

/-! ### Device registers (R3, R24 to R28, R48 to R58, R499, R502, R512, R513) -/

def gradeCode (g : Grade) : Nat := match g with | .af => 1 | .as => 2

def devIdent (s : State) : Nat :=
  put 0x6416 63 48 + put (gradeCode s.fuse.grade) 47 40 + put s.fuse.stepping.toNat 39 32 + put (cpr s) 31 24
    + put 0x10 23 16 + put (logicalCores s) 15 0

def unitMap (s : State) : Nat := put (entCount s) 39 34 + put s.fuse.dispGood.toNat 33 32 + s.fuse.entGood.toNat

/-- The physical columns of a row that are good and not retired (R20). -/
def goodColumns (r : RowMap) : List Nat :=
  (List.range 12).filter (fun k => r.fail0 != some k && r.fail1 != some k && !r.retired.contains k)

/-- The physical columns that carry logical cores: the first of the good ones (R20). -/
def usedColumns (g : Grade) (r : RowMap) : List Nat := (goodColumns r).take (cprOf g)

def rowMapWord (s : State) (n : Nat) : Nat :=
  let r := rowMapOf s n
  put (r.fail0.getD 0xF) 31 28 + put (r.fail1.getD 0xF) 27 24 + put (r.retired.headD 0xF) 23 20 + put (cpr s) 19 16
    + (usedColumns s.fuse.grade r).foldl (fun t k => t + 2 ^ k) 0

def solsticeAlign (s : State) : Nat :=
  let t := s.time
  put t.leader 57 52 + put (min 15 t.hops) 51 48 + put t.steps 47 32 + put t.offset.toNat 31 8 + put t.align 2 0

/-- PORT_LAT of a core (R27). -/
def portLat (g : Grade) (c p : Nat) : Nat :=
  let r := coreRow g c
  let dr := coreDie g c / 4
  let dc := coreDie g c % 4
  if p < 4 then 12 + 2 * r + 24 * dr + 18 * ((dc : Int) - (p : Int)).natAbs
  else 12 + 2 * (7 - r) + 24 * (3 - dr) + 18 * ((dc : Int) - ((p - 4 : Nat) : Int)).natAbs

def nearestPort (g : Grade) (c : Nat) : Nat := (leastBy (portLat g c) (List.range 8)).getD 0

/-- Byte i of a core's topology entry (R28). -/
def topologyByte (g : Grade) (c i : Nat) : Nat :=
  if i < 16 then portLat g c (i / 2) + 6
  else if i < 24 then portLat g c (i - 16)
  else if i < 40 then dieLat g c (i - 24)
  else
    match i with
    | 40 => c % 256
    | 41 => c / 256
    | 42 => coreDie g c
    | 43 => coreRow g c
    | 44 => coreCol g c
    | 45 => nearestPort g c
    | _ => 0

def topologyWord (s : State) (off : Nat) : Nat :=
  let c := (off - 0x100000) / 64
  if c < logicalCores s then
    (List.range 8).foldl (fun t i => t + topologyByte s.fuse.grade c (off % 64 + i) * 256 ^ i) 0
  else 0

def errWord (c : ErrCtr) : Nat := put c.corrected 63 48 + put c.uncorrectable 47 32 + put c.protocol 31 16 + put c.hard 15 0

def msgStatus (s : State) : Nat := put s.msg.tail.toNat 63 32 + put s.msg.lost 31 16 + put s.msg.queue.length 6 0

def recovery (s : State) : Nat :=
  put s.err.retirements 63 48 + put s.err.noSpare 47 32 + put s.err.takeovers 31 16 + put s.err.feRepairs 15 0

def devRead (s : State) (off : Nat) : Nat :=
  match off with
  | 0x0000 => devIdent s
  | 0x0010 => unitMap s
  | 0x0100 => s.time.count.toNat
  | 0x0108 => put (boolBit s.time.exhausted) 32 32 + s.time.boots.toNat
  | 0x0118 => s.time.snapVal.toNat
  | 0x0120 => s.time.snapTag.toNat
  | 0x0128 => solsticeAlign s
  | 0x0130 => s.time.stepSize.toNat
  | 0x0140 => put s.time.disagree 31 16
  | 0x0148 => s.time.capture.toNat
  | 0x4208 => s.msg.head.toNat
  | 0x4218 => msgStatus s
  | 0x4220 => satTo 64 (s.err.outageNs / logicalCores s)
  | 0x4228 => recovery s
  | _ =>
    if 0x1000 ≤ off ∧ off < 0x1400 then rowMapWord s ((off - 0x1000) / 8)
    else if 0x4100 ≤ off ∧ off < 0x4180 then errWord (errCtrOf s (errDie ((off - 0x4100) / 8)))
    else if 0x4180 ≤ off ∧ off < 0x41B0 then errWord (errCtrOf s (errUnit ((off - 0x4180) / 8)))
    else 0

/-! ### Power and rate (R38, R39, R551 to R554) -/

def dieRateWord (s : State) (d : Nat) : Nat :=
  let x := dieRateOf s d
  put x.events 63 48 + put x.measured 47 32 + put x.trim 23 16 + put (boolBit x.floor) 2 2 + put (boolBit x.ceiling) 1 1
    + boolBit x.locked

def rateStatus (s : State) : Nat :=
  (List.range 16).foldl (fun t d => t + (if (dieRateOf s d).ceiling then 2 ^ (16 + d) else 0)) 0
    + put (boolBit s.rate.relocking) 2 2 + put s.rate.rate 1 0

def powerState (s : State) : Nat :=
  let p := s.power
  put p.wakes 63 48 + put p.lastReset 47 44 + put p.lastOff 43 40 + put p.bootStep 11 8 + put (boolBit p.romCopy) 3 3
    + put p.state 2 0

def powerReset (s : State) : Nat := put (boolBit (!s.power.waiting.isEmpty)) 63 63 + put s.power.promoted 55 48

def pwrRead (s : State) (off : Nat) : Nat :=
  match off with
  | 0x2000 => rateStatus s
  | 0x2200 => powerState s
  | 0x2210 => powerReset s
  | 0x2218 => s.power.bootTime.toNat
  | _ => if 0x2100 ≤ off ∧ off < 0x2180 then dieRateWord s ((off - 0x2100) / 8) else 0

/-! ### Image (R97, R98) -/

def imageState (s : State) : Nat :=
  if s.image.loading.isSome then 2 else if s.image.committing.isSome then 3 else if s.image.force.isSome then 1 else 0

def imageStatus (s : State) : Nat :=
  let i := s.image
  put i.lastStatus 63 56 + put i.lastStage 55 52 + put i.lastSection 47 36 + put (imageState s) 35 34
    + put (boolBit (i.pending.any (·.whole))) 33 33 + put i.fails 31 16 + put i.commits 15 0

def imagePending (s : State) : Nat := (s.image.pending.foldl (fun (t : BitVec 64) x => t ||| x.tag) 0#64).toNat

def imageSecurity (s : State) : Nat :=
  put s.fuse.minSvn 15 8 + (List.range 4).foldl (fun t k =>
    t + put (boolBit (keySlotOf s k).programmed) (4 + k) (4 + k) + put (boolBit (keySlotOf s k).revoked) k k) 0

/-- Word j of a 16-byte or 48-byte string whose byte 0 lies lowest. -/
def idWord (v : BitVec 128) (j : Nat) : Nat := fld v.toNat (64 * j + 63) (64 * j)
def hashWord (v : BitVec 384) (j : Nat) : Nat := ofLe (((beBytes 48 v.toNat).drop (8 * j)).take 8)

def partBuild (s : State) (n : Nat) : BitVec 128 := match partImg s n with | some p => p.buildId | none => 0#128

def imgRead (s : State) (off : Nat) : Nat :=
  match off with
  | 0x3000 => imageStatus s
  | 0x3008 => imagePending s
  | 0x3010 => imageSecurity s
  | 0x3018 => s.image.pending.foldl (fun t x => t + x.bytes) 0
  | 0x3020 => idWord (match s.image.force with | some f => f.buildId | none => 0#128) 0
  | 0x3028 => idWord (match s.image.force with | some f => f.buildId | none => 0#128) 1
  | _ =>
    if 0x3200 ≤ off ∧ off < 0x3600 then idWord (partBuild s ((off - 0x3200) / 16)) (off % 16 / 8)
    else if 0x3600 ≤ off ∧ off < 0x3700 ∧ off % 64 < 48 then hashWord (keySlotOf s ((off - 0x3600) / 64)).hash (off % 64 / 8)
    else 0

/-! ### Partitions (R146, R187, R213, R234, R235, R271 to R274, R305 to R308, R332) -/

/-- A 64-bit register word of an integer. -/
def intWord (z : Int) : Nat := wrapTo 64 z

def anlRead64 (s : State) (n off : Nat) : Nat :=
  let a := anlOf s n
  let p := a.prob
  match off with
  | 0x00 => anlProbStatus s n
  | 0x08 => match p with | some p => put p.n 56 32 + put p.nc 16 0 | none => 0
  | 0x10 => match p with | some p => intWord p.e0 | none => 0
  | 0x18 => match p with | some p => intWord p.offset | none => 0
  | 0x20 => match p with | some p => intWord p.bound | none => 0
  | 0x28 => fld a.failIndex 63 0
  | 0x38 => anlTemp s n
  | 0x40 => anlMoveStatus s n
  | 0x48 => fld a.residence 63 0
  | 0x50 => put (satTo 21 a.withdrawn) 63 43 + put (satTo 21 a.stale) 42 22 + satTo 22 a.nulls
  | 0x58 => anlRunStatus s n
  | 0x60 => put a.steps 47 0
  | 0x68 => intWord a.energy
  | 0x70 => intWord a.best
  | 0x78 => put a.lastWait 63 58 + put a.syncPoints 47 0
  | _ => 0

/-- Registers of a block with one instance per partition; those of numbers beyond 63 do not exist. -/
def partRead (s : State) (off : Nat) : Nat :=
  let n := off % 0x10000 / 0x100
  let r := off % 0x100
  if 64 ≤ n then 0
  else
    match off / 0x10000 with
    | 0x40 => if r = 8 then arrStatus s n else 0
    | 0x41 => if r = 8 then qntStatus s n else 0
    | 0x42 => if r = 0 then vecStatus s n else 0
    | 0x43 => anlRead64 s n r
    | _ => if r = 8 then sesStatus s n else 0

def sesRead (s : State) (off : Nat) : Nat := (sessRead s ((off - 0x440000) / 64) (off % 64 / 8)).toNat

/-! ### Front end (R338 to R344, R352, R359, R363, R364) -/

def captureRead (s : State) (off : Nat) : Nat :=
  let k := (off - 0x5A0000) / 0x4000
  match mfind s.fe.captures k with
  | some x => captureWord x (off % 0x4000 / 8)
  | none => 0

def feRead (s : State) (off : Nat) : Nat :=
  if off < 0x508000 then
    let q := (off - 0x500000) / 0x40
    match off % 0x40 with
    | 0x20 => queueStatus s q
    | 0x28 => (queueOf s q).writeIndex.toNat
    | _ => 0
  else if off < 0x509000 then
    let c := (off - 0x508000) / 0x40
    match off % 0x40 with
    | 0x08 => (cqOf s c).head.toNat
    | 0x18 => put (cqOf s c).tail.toNat 63 32 + put (cqOf s c).fullHolds 31 16
    | _ => 0
  else if off < 0x509800 then
    let k := (off - 0x509000) / 0x40
    match off % 0x40 with
    | 0 => slotStatus s k
    | 8 => (slotOf s k).progress.toNat
    | _ => 0
  else if off = 0x50A000 then
    put s.fe.deadlocks 63 48 + put s.fe.abandoned 47 32 + put s.fe.rejected 31 16 + put s.fe.dispatcher 3 0
  else if off = 0x50A008 then
    put s.fe.captureCount 63 32 + put s.fe.lastQueue 31 23 + put s.fe.lastSeq 22 7 + put s.fe.captureNext 3 0
  else if off = 0x50A010 then eventBase
  else if 0x510000 ≤ off ∧ off < 0x590000 then (eventOf s ((off - 0x510000) / 8)).toNat
  else if 0x5A0000 ≤ off ∧ off < 0x5E0000 then captureRead s off
  else 0

/-! ### Cores: banks, sync objects, errors (R381, R382, R401 to R406, R499) -/

def bankRead (s : State) (off : Nat) : Nat :=
  let c := (off - 0x600000) / 0x40
  if logicalCores s ≤ c then 0
  else
    match off % 0x40 with
    | 0x18 => bankStatus s c
    | 0x20 => bankTest s c - bankTest s c % 4
    | _ => 0

def barState (b : BarSt) : Nat :=
  put b.round 63 48 + put b.arrived 44 32 + put (boolBit b.sense) 16 16 + put b.overs 15 8

def syncStatusWord (x : SyncStatus) : Nat :=
  put x.overs 63 48 + put x.drifts 47 36 + put x.abandoned 35 24 + put x.faults 23 12 + put x.refused 11 0

def syncRead (s : State) (off : Nat) : Nat :=
  let c := (off - 0x700000) / 0x800
  let r := off % 0x800
  if logicalCores s ≤ c then 0
  else if r < 0x200 then (if r % 16 = 8 then barState (barOf s c (r / 16)) else 0)
  else if r < 0x400 then
    let t := ctrOf s c ((r - 0x200) / 16)
    if r % 16 = 8 then put t.produced.toNat 63 32 + t.consumed.toNat else 0
  else
    match r with
    | 0x500 => syncStatusWord (syncStatusOf s c)
    | 0x518 => (syncStatusOf s c).lastDrift.toNat
    | _ => 0

def coreRead (s : State) (off : Nat) : Nat :=
  let c := (off - 0xE00000) / 0x40
  if c < logicalCores s ∧ off % 0x40 = 0 then errWord (errCtrOf s (errCore c)) else 0

/-! ### Links (R431 to R434) -/

def linkStatus (s : State) (l : Nat) : Nat :=
  let x := linkOf s l
  put x.peerModule 58 52 + put x.peerLink 51 47 + put x.laneMask 39 32 + put (popUpTo 8 x.laneMask) 31 28
    + put (boolBit (linkTopo s l).tree) 3 3 + put x.state 2 0

def lnkRead (s : State) (off : Nat) : Nat :=
  let r := off - 0xA00000
  if r < 0x2000 then
    let x := linkOf s (r / 0x100)
    match r % 0x100 with
    | 0x00 => linkStatus s (r / 0x100)
    | 0x10 => put x.crcFails 63 48 + put x.replays 47 32 + put x.fecUnc 31 16 + put x.retrains 15 8 + put x.degrades 7 0
    | 0x18 => x.fec.toNat
    | 0x20 => put x.delay 31 0
    | 0x28 => x.stallNs.toNat
    | 0x30 => put x.formatDrops 63 32 + put x.routeDrops 31 0
    | _ => 0
  else if r = 0x4000 then (upLinks s).foldl (fun t l => t + 2 ^ l) 0
  else if r = 0x4008 then s.net.routeLost.toNat
  else if 0x5000 ≤ r ∧ r < 0x5400 ∧ r % 16 = 8 then
    let g := mcastCtrOf s ((r - 0x5000) / 16)
    put g.transfers 63 32 + put g.retried 31 16 + put g.refused 15 0
  else 0

/-! ### Entropy, memory (R453, R455, R474, R475, R477, R478) -/

/-- ENT_SRC of logical source n. -/
def sourceWord (s : State) (n : Nat) : Nat :=
  match (sourcesIn s)[n]? with
  | none => 0
  | some p => put (roleOf s p) 63 62 + put (sourceOf s p).trim 55 48 + put (sourceOf s p).blocks 47 0

def entRead (s : State) (off : Nat) : Nat :=
  let e := s.ent
  match off with
  | 0xB00000 =>
    put (boolBit e.thaw) 63 63 + put (activeSources s).length 51 48 + put (poolBits s) 44 32 + put e.switches 31 16
      + put e.noEntropyEnds 15 0
  | 0xB00010 => put e.rctFails 63 48 + put e.aptFails 47 32 + put e.startupFails 31 16 + put e.biasFails 15 0
  | _ => if 0xB00100 ≤ off ∧ off < 0xB00200 then sourceWord s ((off - 0xB00100) / 8) else 0

/-- Free spare rows over the 128 arrays of a die's stacked SRAM (R466; no spare assigned at manufacture, log entry 2). -/
def sramSparesFree (s : State) (d : Nat) : Nat :=
  2048 - (s.integ.sramSparesUsed.filter (fun ku => ku.1 / 128 == d)).foldl (fun t ku => t + ku.2) 0

def stackWord (s : State) (k : Nat) : Nat :=
  let c := stackOf s k
  put c.corrected 63 48 + put c.softPpr 47 32 + put (mget 0 s.integ.pprLogged k) 31 24 + put c.exhausted 23 16
    + put c.uncorrectable 15 0

def repairWord (s : State) (d : Nat) : Nat :=
  let c := dieRepairOf s d
  put (sramSparesFree s d) 63 48 + put c.sramRepaired 47 32 + put c.bankRepaired 31 16 + put c.exhausted 15 8
    + put c.checkerFails 7 0

def memRead (s : State) (off : Nat) : Nat :=
  let g := s.integ
  match off with
  | 0xC00000 => put g.uncorrectable 63 48 + put g.hbmCorrected 47 32 + put g.sramCorrected 31 16 + put g.scratchCorrected 15 0
  | 0xC00008 => put g.consumed 63 32 + put g.moved 31 0
  | 0xC00300 => put g.hotChannel 63 55 + put g.maxRatio 47 32 + put g.imbalance 31 16
  | _ =>
    if 0xC00100 ≤ off ∧ off < 0xC00180 then stackWord s ((off - 0xC00100) / 8)
    else if 0xC00200 ≤ off ∧ off < 0xC00280 then repairWord s ((off - 0xC00200) / 8)
    else 0

/-! ### Debug and host (R494, R495, R534, R536) -/

def dbgRead (s : State) (off : Nat) : Nat :=
  let m := marchOf s
  let r := replayOf s
  match off with
  | 0xD00010 => put (boolBit s.dbg.peekFault) 2 2 + put (boolBit s.dbg.peekPoison) 1 1 + boolBit s.dbg.peekBusy
  | 0xD00100 => put m.peerModule 63 56 + put m.state 55 52 + put m.window 51 16 + put m.firstCore 10 0
  | 0xD00108 => put m.cores 31 16 + put m.part 5 0
  | 0xD00200 => put r.state 63 62 + put (boolBit r.overflow) 61 61 + put r.ignored 60 32 + put r.seq.toNat 31 0
  | _ =>
    if 0xD00040 ≤ off ∧ off < 0xD00080 then (nth 0#64 s.dbg.peekData ((off - 0xD00040) / 8)).toNat
    else if 0xD00800 ≤ off ∧ off < 0xD00C00 ∧ off % 16 = 8 then haltCause s ((off - 0xD00800) / 16)
    else if 0xD04000 ≤ off ∧ off < 0xD08000 then (nth 0#64 m.localSigs ((off - 0xD04000) / 8)).toNat
    else if 0xD08000 ≤ off ∧ off < 0xD0C000 then (nth 0#64 m.peerSigs ((off - 0xD08000) / 8)).toNat
    else if 0xD01000 ≤ off ∧ off < 0xD01400 then (mget 0#48 s.dbg.perf off).toNat
    else if 0xD10000 ≤ off ∧ off < 0xD10000 + 0x40 * logicalCores s then (mget 0#48 s.dbg.perf off).toNat
    else 0

def portStatus (x : PortSt) : Nat :=
  put x.speed 63 60 + put x.width 59 54 + put (boolBit x.flit) 53 53 + put (boolBit x.up) 52 52 + put x.holes 47 32
    + put x.cplErrors 31 16 + put x.urSent 15 0

def hstRead (s : State) (off : Nat) : Nat :=
  match off with
  | 0xF00010 => portStatus (portOf s 0)
  | 0xF00018 => portStatus (portOf s 1)
  | _ =>
    if 0xF01000 ≤ off ∧ off < 0xF03000 ∧ off % 16 = 8 then put (mget 0 s.host.winFaults ((off - 0xF01000) / 16)) 31 0
    else 0

/-! ### The whole of BAR0 -/

/-- The read-only fields of the register at off. -/
def fixedPart (s : State) (off : Nat) : Nat :=
  match statusInst s.fuse.grade off with
  | some i => cfgStatus s i
  | none =>
    if off < 0x2000 then devRead s off
    else if off < 0x3000 then pwrRead s off
    else if off < 0x4000 then imgRead s off
    else if off < 0x5000 then devRead s off
    else if 0x100000 ≤ off ∧ off < 0x116000 then topologyWord s off
    else if 0x400000 ≤ off ∧ off < 0x440000 then partRead s off
    else if 0x440000 ≤ off ∧ off < 0x480000 then sesRead s off
    else if off = 0x488000 then sesModule s
    else if 0x480000 ≤ off ∧ off < 0x484000 then partRead s off
    else if 0x500000 ≤ off ∧ off < 0x5E0000 then feRead s off
    else if 0x600000 ≤ off ∧ off < 0x700000 then bankRead s off
    else if 0x700000 ≤ off ∧ off < 0xA00000 then syncRead s off
    else if 0xA00000 ≤ off ∧ off < 0xB00000 then lnkRead s off
    else if 0xB00000 ≤ off ∧ off < 0xC00000 then entRead s off
    else if 0xC00000 ≤ off ∧ off < 0xD00000 then memRead s off
    else if 0xD00000 ≤ off ∧ off < 0xE00000 then dbgRead s off
    else if 0xE00000 ≤ off ∧ off < 0xF00000 then coreRead s off
    else if 0xF00000 ≤ off ∧ off < 0xF03000 then hstRead s off
    else 0

/-- The writable fields of the register at off. -/
def cellPart (s : State) (off : Nat) (shadowView : Bool) : Nat :=
  match regDesc s off with
  | some d => cellRead d (cellOf s off d) shadowView
  | none => 0

/-- The shadow view lies 0x0200_0000 above (R102). -/
def shadowBase : Nat := 0x2000000

def regValue (s : State) (off : Nat) : Nat :=
  if off < shadowBase then fixedPart s off + cellPart s off false
  else fixedPart s (off - shadowBase) + cellPart s (off - shadowBase) true

/-- Work runs that may have an access of core c's banks in progress: an operation, a load or a run of its partition, or a copy
engine. -/
def bankWork (s : State) (c : Nat) : Bool :=
  s.fe.slots.any (fun ks => ks.2.state == 5) ||
  (match partOfCore s c with
   | some n => (partOf s n).op.isSome || (anlOf s n).loading.isSome || (match (anlOf s n).run with | some r => r.state == 1 | none => false)
   | none => false)

/-- A BAR0 read of off, with what some reads do (R308, R381). Whether firmware runs a context, and whether an access of work in
flight is in progress at a bank, no rule computes (log entry 4). -/
def regRead (s : State) (off : Nat) : Nat × State :=
  let v := regValue s off
  if 0x440000 ≤ off ∧ off < 0x480000 ∧ off % 64 = 0 then
    let k := (off - 0x440000) / 64
    ((nth 0#64 (sessWords s k) 0).toNat, { s with ses := { s.ses with latch := some (k, sessWords s k) } })
  else if 0x600000 ≤ off ∧ off < 0x600000 + 0x40 * logicalCores s ∧ off % 0x40 = 0x18 then
    let c := (off - 0x600000) / 0x40
    (v, setBank s c { bankOf s c with dmaWaitMax := 0 })
  else
    match statusInst s.fuse.grade off with
    | some (.core c) => if coreRunnable s c then (v, s) else let r := takeFree s 1; (v + 8 * r.1, r.2)
    | some (.bank c) => if bankWork s c then let r := takeFree s 1; (v + 8 * r.1, r.2) else (v, s)
    | _ => (v, s)

/-- BAR0 answers a read or a write of off in this power state (R537, R544). -/
def barOpen (s : State) (off : Nat) : Bool :=
  let pwr := 0x2000 ≤ off && off < 0x3000
  match s.power.state with
  | 2 => true
  | 1 => off == 0 || off == 0x100 || off == 0x108 || pwr
  | 3 => off == 0 || pwr
  | _ => false

/-- An 8-byte read of BAR0 (R519). -/
def barRead (s : State) (off : Nat) : Nat × State := if barOpen s off && off % 8 == 0 then regRead s off else (0, s)

end Sys2Proof.Machine
end

