-- ==== Sys2Proof/Machine/FetchCheck.lean ====
section
/-!
DEFINITION. Sys2Proof/Machine/FetchCheck.lean: the checks that the front end makes on a command as it takes it from its
slot's head (R345 to R350).
-/
namespace Sys2Proof.Machine

/-! ### Opcodes (R346) -/

def knownOpcodes : List Nat :=
  [1, 2, 3, 4, 5, 6, 0x20, 0x21, 0x22, 0x40, 0x41, 0x42, 0x43, 0x44, 0x45, 0x60, 0x61, 0x62, 0x63, 0x64,
   0x70, 0x71, 0x72, 0x73, 0x74, 0x75, 0x76, 0x77]

def kernelOnly (op : Nat) : Bool := [0x60, 0x61, 0x70, 0x71, 0x72, 0x73, 0x74, 0x75, 0x76, 0x77].contains op
def needsPartition (op : Nat) : Bool :=
  [0x20, 0x21, 0x22, 0x40, 0x41, 0x42, 0x43, 0x44, 0x45, 0x62, 0x63, 0x64].contains op
def takesTimed (op : Nat) : Bool := [0x20, 0x21, 0x41].contains op

/-- Opcodes that queue 0 accepts before any image (R96). -/
def bootOpcode (op : Nat) : Bool := [1, 2, 3, 0x70, 0x71, 0x76].contains op

/-- Commands that hold their partition while they run (R343). -/
def holdsPartition (op : Nat) : Bool := [0x20, 0x21, 0x22, 0x40, 0x41, 0x64].contains op

/-- The launch commands, whose form follows the partition's size (R350). -/
def isLaunch (op : Nat) : Bool := [0x20, 0x21, 0x22].contains op

/-- The queue's partition is declared, with more than 88 cores: launches take the constant form. -/
def largePart (s : State) (q : Nat) : Bool := 88 < (partCores s (queuePart s q)).length

/-! ### Check 5: reserved fields (R345, R347) -/

/-- The bits of bytes lo .. hi of a command. -/
def bytesMask (lo hi : Nat) : Nat := mask (8 * hi + 7) (8 * lo)

/-- The bits that each command's body defines. -/
def bodyMask (op : Nat) : Nat :=
  match op with
  | 0x02 => bytesMask 16 18 + mask 152 152 + bytesMask 20 21 + bytesMask 24 31
  | 0x03 => bytesMask 16 17 + bytesMask 20 31
  | 0x04 | 0x05 | 0x06 => bytesMask 24 47
  | 0x20 | 0x22 | 0x40 | 0x41 => bytesMask 24 31
  | 0x21 => bytesMask 24 35 + bytesMask 40 47
  | 0x45 => bytesMask 16 16 + bytesMask 24 31
  | 0x60 => bytesMask 16 17 + mask 145 144 + bytesMask 19 19 + bytesMask 24 63
  | 0x61 | 0x62 | 0x63 => bytesMask 16 17
  | 0x64 => bytesMask 16 17 + bytesMask 24 47
  | 0x70 => bytesMask 24 39
  | 0x71 => bytesMask 24 31
  | 0x72 => bytesMask 16 16 + bytesMask 20 31
  | 0x73 | 0x74 | 0x75 => bytesMask 16 16 + bytesMask 24 31
  | 0x76 => bytesMask 16 18 + bytesMask 20 31
  | 0x77 => bytesMask 16 16 + mask 137 136 + bytesMask 18 18 + bytesMask 20 21 + bytesMask 24 31
  | _ => 0

def bodyClean (c : CmdWord) : Bool :=
  c &&& BitVec.ofNat 512 (bytesMask 16 63) &&& ~~~(BitVec.ofNat 512 (bodyMask (opcodeOf c))) == 0#512

/-- Header and body fields are as R345 to R347 allow them. -/
def fieldsOk (c : Fetched) : Bool :=
  let b := c.bits
  let op := opcodeOf b
  cmdFld b 2 7 == 0 && fld (flagsOf b) 7 3 == 0 && (isTimed b || startCount b == 0#64) && (!isTimed b || takesTimed op) &&
  bodyClean b && (!hasSignal b || c.sigAddr != 0) && !(op == 0x02 && 2 < cmdFld b 18 18) &&
  !(op == 0x77 && 1 < cmdFld b 16 16)

/-! ### Checks 7 and 8: addresses (R347, R526, R527) -/

/-- An address that a command reads: its value, the bytes of the range it names, its alignment, whether it may be zero,
and the ranges that it may name. -/
structure AddrField where
  addr : Nat
  bytes : Nat
  align : Nat
  zeroOk : Bool
  ranges : Ranges
  deriving DecidableEq, Repr

def field (a n align : Nat) (r : Ranges) : AddrField :=
  { addr := a, bytes := n, align := align, zeroOk := false, ranges := r }

/-- A parameter block or another field that host windows may hold. -/
def paramField (c : CmdWord) (reads : Bool) (align : Nat) : List AddrField :=
  if reads then [field (cmdFld c 24 31) 1 align .rings] else []

/-- The address fields that a command reads with its ACTION, KIND, SOURCE and flags (R347). -/
def addrFields (c : CmdWord) (large : Bool) : List AddrField :=
  let at24 := cmdFld c 24 31
  let at32 := cmdFld c 32 39
  let at40 := cmdFld c 40 47
  let act := cmdFld c 16 16
  match opcodeOf c with
  | 0x04 => [field at24 at40 1 .copy, field at32 at40 1 .copyDst]
  | 0x05 => [field at24 at32 1 .copyDst]
  | 0x06 => [field at24 at32 64 .scrub, field at40 1 64 .rings]
  | 0x20 | 0x22 => if large then [] else [field at24 1 64 .localOnly]
  | 0x21 => field at24 1 64 .localOnly :: (if large then [] else [field at40 1 64 .localOnly])
  | 0x40 | 0x41 => [field at24 1 64 .localOnly]
  | 0x45 => if act ≤ 2 then [field at24 1 64 .store] else []
  | 0x60 => [field at24 1 64 .localOnly] ++ (if bitOf (cmdFld c 18 18) 1 then [{ field at40 1 32 .localOnly with zeroOk := true }] else [])
  | 0x64 => [field at24 1 64 .localOnly, field at32 1 64 .localOnly, field at40 1 64 .store]
  | 0x70 => [field at24 at32 64 .rings]
  | 0x72 => paramField c (act == 4 || act == 5) 64
  | 0x73 => paramField c (act == 1 || act == 2) 64
  | 0x74 => paramField c (act == 1 || act == 3 || act == 4 || act == 5) 64
  | 0x75 => paramField c (1 ≤ act && act ≤ 3) 64
  | 0x76 => paramField c (act == 1) 16
  | 0x77 => if act = 0 then [{ field at24 1 64 .localOnly with zeroOk := true }] else []
  | _ => []

/-- The address names a core beyond LOGICAL_CORES. -/
def beyondAt (s : State) (a : Nat) : Bool := match region s.fuse.grade a with | .coreBeyond => true | _ => false

def coreSpace (s : State) (a : Nat) : Bool :=
  match region s.fuse.grade a with
  | .scratch _ _ | .bitSet _ _ | .bitClear _ _ | .syncWin _ _ => true
  | _ => false

/-- An address field names a core beyond LOGICAL_CORES: its start, its end, or the cores between. -/
def fieldBeyond (s : State) (f : AddrField) : Bool :=
  f.addr % f.align == 0 && f.bytes != 0 && f.addr + f.bytes ≤ 2 ^ 48 &&
  (beyondAt s f.addr || beyondAt s (f.addr + f.bytes - 1) ||
   (coreSpace s f.addr && coreSpace s (f.addr + f.bytes - 1) && !sameRow s.fuse.grade f.addr (f.addr + f.bytes - 1)))

/-- An address field that check 7 finds good. -/
def fieldGood (s : State) (f : AddrField) : Bool :=
  if f.addr = 0 then f.zeroOk
  else if fieldBeyond s f then true
  else
    f.addr % f.align == 0 &&
    (match f.ranges with
     | .scrub => if f.bytes % 64 = 0 then scrubRange s f.addr f.bytes else rangeAllowed s .scrub f.addr f.bytes
     | r => rangeAllowed s r f.addr f.bytes)

/-- A command's addresses lie in a window whose fields failed their check (R109). -/
def badWindowOf (s : State) (fs : List AddrField) : Option Nat :=
  s.host.winBad.find? (fun k => fs.any (fun f =>
    match region s.fuse.grade f.addr with
    | .hostWin w _ => w == k
    | _ => false))

/-- A core that a command names as a number. -/
def coreBeyond (s : State) (c : CmdWord) : Bool :=
  opcodeOf c == 0x77 && cmdFld c 16 16 == 1 && logicalCores s ≤ cmdFld c 20 21

/-! ### Check 9: foreign cores -/

/-- Cores whose part of a space (its base, with 4 MiB a core) a range touches. -/
def touchedCores (s : State) (base a n : Nat) : List Nat :=
  let lo := max a base
  let hi := min (a + n) (base + logicalCores s * 0x400000)
  if lo < hi then rangeFrom ((lo - base) / 0x400000) ((hi - 1 - base) / 0x400000) else []

/-- A user queue's COPY, FILL or SCRUB touches the scratchpad or an alias of a core outside its partition. -/
def isForeign (s : State) (q : Nat) (c : CmdWord) : Bool :=
  let op := opcodeOf c
  let rs := match op with
    | 0x04 => [(cmdFld c 24 31, cmdFld c 40 47), (cmdFld c 32 39, cmdFld c 40 47)]
    | 0x05 | 0x06 => [(cmdFld c 24 31, cmdFld c 32 39)]
    | _ => []
  let mine := partCores s (queuePart s q)
  rs.any (fun r => [0x011000000000, 0x014000000000, 0x016000000000].any (fun b =>
    (touchedCores s b r.1 r.2).any (fun k => !mine.contains k)))

/-! ### The checks in order (R349) -/

/-- The launch form matches the partition's size (R350). -/
def formOk (s : State) (q : Nat) (c : CmdWord) : Bool :=
  let op := opcodeOf c
  if isLaunch op then (cmdFld c (if op = 0x21 then 40 else 24) (if op = 0x21 then 47 else 31) == 0) == largePart s q else true

/-- The status and reason of the first check that command c of queue q fails. -/
def fetchCheck (s : State) (q : Nat) (c : Fetched) : Option (Nat × Nat) :=
  let b := c.bits
  let op := opcodeOf b
  let fs := addrFields b (largePart s q)
  if !knownOpcodes.contains op then some (stFormat, 0x01)
  else if kernelOnly op && !(queuePol s q).kernel then some (stPrivilege, 0x03)
  else if s.image.force.isNone && !bootOpcode op then some (stFormat, 0x08)
  else if needsPartition op && (partImg s (queuePart s q)).isNone then some (stFormat, 0x04)
  else if !fieldsOk c then some (stFormat, 0x02)
  else if !formOk s q b then some (stFormat, 0x06)
  else if (badWindowOf s fs).isSome || !fs.all (fieldGood s) then some (stFormat, 0x09)
  else if fs.any (fieldBeyond s) || coreBeyond s b then some (stFormat, 0x05)
  else if !(queuePol s q).kernel && isForeign s q b then some (stPrivilege, 0x0A)
  else none

end Sys2Proof.Machine
end

