-- ==== Sys2Proof/Machine/FrontRows.lean ====
section
/-!
DEFINITION. Sys2Proof/Machine/FrontRows.lean: doorbells and fetches (R334 to R336, R350, R506, R507), mapping of queues to
slots and eviction (R341, R342), the head of a slot (R349), stops and resets of queues (R339), and rings (R359, R360).
-/
namespace Sys2Proof.Machine

/-! ### Doorbells (R334, R544) -/

def countOverrun (s : State) (q : Nat) : State :=
  setQueue s q { queueOf s q with overruns := satTo 8 ((queueOf s q).overruns + 1) }

def queueRing (s : State) (q : Nat) : Nat := regActive s (queueReg q 0) 0

/-- A read of the page returns zero. -/
def doorbellRead (size : Nat) (s : State) : State := emit s (.readData (clean (List.replicate size 0#8)))

/-- A write of `size` bytes at offset off of BAR2 page q. Before READY it is lost without a count. -/
def doorbellWrite (q off size : Nat) (value : BitVec 32) (s : State) : State :=
  if s.power.state ≠ 2 ∨ 512 ≤ q ∨ off ≠ 0 ∨ size ≠ 4 then s
  else if queuePart s q = 0xFF then countOverrun s q
  else if replays s (queuePart s q) then ignoreEvent s
  else
    let x := queueOf s q
    if (value - x.readIndex).toNat ≤ ringEntries (queueRing s q) then
      let s1 := setQueue s q { x with writeIndex := value, pending := true, busy := x.busy || value != x.readIndex }
      markReady (recordEntry s1 2 (queuePart s q) q (leBytes 4 value.toNat)) q
    else countOverrun s q

/-- An access of `size` bytes at offset off of BAR2 page q: a write of a value, or a read. -/
def doDoorbell (q off size : Nat) (value : Option (BitVec 32)) (s : State) : State :=
  match value with
  | some v => doorbellWrite q off size v s
  | none => doorbellRead size s

/-! ### Fetching (R335, R336, R350) -/

def unfetched (x : QueueSt) : Nat := (x.writeIndex - x.readIndex).toNat

/-- Device address of the entry that queue q fetches i entries from now. -/
def entryAddr (s : State) (q i : Nat) : Nat :=
  let v := queueRing s q
  ringBase v + ((queueOf s q).readIndex.toNat + i) % ringEntries v * 64

/-- FETCH entries of a recording (R488). -/
def recordFetches (s : State) (q : Nat) (es : List (List PByte)) : State :=
  let base := (queueOf s q).fetchIndex.toNat
  (es.zip (List.range es.length)).foldl (fun s x =>
    recordEntry s 3 (queuePart s q) q (leBytes 8 (base + x.2) ++ dataOf x.1)) s

/-- One command is fetched, with the four entries of its constant buffer or none. -/
def fetchOne (s : State) (q : Nat) (e : List PByte) (bufs : List (List PByte)) : State :=
  let s0 := recordFetches s q (e :: bufs)
  let x := queueOf s0 q
  let cq := fld (regActive s0 (queueReg q 8) 0) 5 0
  let buf := bufs.flatten
  let c : Fetched :=
    { bits := BitVec.ofNat 512 (ofLe (dataOf e)), poison := anyPoison e, ringBad := x.ringBad || (cqOf s0 cq).ringBad,
      index := x.fetchIndex, addr := entryAddr s0 q 0,
      buf := if buf.isEmpty then none else some (BitVec.ofNat 2048 (ofLe (dataOf buf))), bufPoison := anyPoison buf,
      cq := cq, sigAddr := put (fld (regActive s0 (queueReg q 0x10) 0) 47 3) 47 3, stamp := s0.fe.stamp,
      cancelled := false }
  let n := 1 + bufs.length
  let s1 := setCq s0 cq { cqOf s0 cq with ringBad := false }
  let s2 := { s1 with fe := { s1.fe with stamp := s1.fe.stamp + 1 } }
  setQueue s2 q { x with readIndex := x.readIndex + BitVec.ofNat 32 n, fetchIndex := x.fetchIndex + BitVec.ofNat 64 n,
                         fetched := x.fetched ++ [c], ringBad := false }

/-- The entries of a batch are taken in order. A launch of the constant form waits until WRITE_INDEX covers its five
entries; `fuel` bounds the commands. -/
def fetchEntries : Nat → State → Nat → List (List PByte) → State
  | 0, s, _, _ => s
  | fuel + 1, s, q, es =>
    match es with
    | [] => s
    | e :: rest =>
      if isLaunch ((e.map Prod.fst).headD 0#8).toNat && largePart s q then
        if rest.length < 4 ∨ unfetched (queueOf s q) < 5 then s
        else fetchEntries fuel (fetchOne s q e (rest.take 4)) q (rest.drop 4)
      else fetchEntries fuel (fetchOne s q e []) q rest

/-- READ_INDEX goes to RDPTR_ADDR, if that is not zero. -/
def writeReadIndex (s : State) (q : Nat) : State :=
  let a := put (fld (regActive s (queueReg q 8) 0) 47 6) 47 6
  if a = 0 then s else (devWrite s none .record a (clean (leBytes 4 (queueOf s q).readIndex.toNat))).2

/-- After a batch the dispatcher clears PENDING, and keeps the queue busy while the indices differ (R336). -/
def batchEnds (s : State) (q : Nat) (before : BitVec 32) : State :=
  let s1 := if (queueOf s q).readIndex = before then s else writeReadIndex s q
  let x := queueOf s1 q
  setQueue s1 q { x with pending := false, busy := x.writeIndex != x.readIndex, reading := none }

/-- A batch's bytes are there. -/
def batchLands (s : State) (q : Nat) (bs : List PByte) : State :=
  let before := (queueOf s q).readIndex
  batchEnds (fetchEntries 8 s q (chunks 64 (bs.length / 64) bs)) q before

/-- The entries of a batch that come before the ring's wrap. -/
def beforeWrap (s : State) (q n : Nat) : Nat :=
  let e := ringEntries (queueRing s q)
  min n (e - (queueOf s q).readIndex.toNat % e)

/-- The bytes of n entries of a ring in device memory. -/
def ringBytes (s : State) (q n : Nat) : List PByte × State :=
  let k := beforeWrap s q n
  let a := localRead s ownDma (entryAddr s q 0) (64 * k)
  if k = n then (a.bytes, a.state)
  else
    let b := localRead a.state ownDma (ringBase (queueRing s q)) (64 * (n - k))
    (a.bytes ++ b.bytes, b.state)

def poisonBytes (n : Nat) : List PByte := List.replicate n (0#8, true)

/-- A ring in a host window is read by requests, one up to the wrap and one from there. -/
def ringRequest (s : State) (q n w off : Nat) : State :=
  let k := beforeWrap s q n
  let start := off + (queueOf s q).readIndex.toNat % ringEntries (queueRing s q) * 64
  let r := winRead s w start (64 * k) (.ring q n)
  if r.1 then setQueue r.2 q { queueOf r.2 q with reading := some n } else batchLands r.2 q (poisonBytes (64 * n))

/-- Bytes of a ring read through a host window arrive: a batch that wraps goes on with its second request. -/
def ringLands (s : State) (q n : Nat) (bs : List PByte) : State :=
  if (queueOf s q).reading ≠ some n then s
  else if bs.length < 64 * n then
    match region s.fuse.grade (ringBase (queueRing s q)) with
    | .hostWin w off =>
      let r := winRead s w off (64 * n - bs.length) (.ring q n)
      if r.1 then
        let t := s.host.nextTag
        { r.2 with host := { r.2.host with
            reads := r.2.host.reads.map (fun x => if x.tag = t then { x with bytes := 64 * n, got := bs } else x) } }
      else batchLands r.2 q (bs ++ poisonBytes (64 * n - bs.length))
    | _ => s
  else batchLands s q bs

/-- A replay supplies the entries that its log holds for the queue (R489). -/
def replayFetch (s : State) (q n : Nat) : State :=
  let r := replayOf s
  let es := (mget [] r.fetches q).take n
  let before := (queueOf s q).readIndex
  let s1 := fetchEntries 8 s q (es.map (fun e => clean (e.drop 8)))
  let used := ((queueOf s1 q).readIndex - before).toNat
  let r1 := replayOf s1
  batchEnds (setReplay s1 { r1 with fetches := mput [] r1.fetches q ((mget [] r1.fetches q).drop used) }) q before

/-! ### Front-end copies (R506, R507) -/

/-- A command whose slot state is lost ends with POISON_CONSUMED; a partition command's partition resets. -/
def loseSlot (s : State) (k : Nat) : State :=
  match (slotOf s k).cmd, (slotOf s k).queue with
  | some c, some q =>
    if (slotOf s k).state = 6 then endWait s q stPoison (eventOf s (cmdFld c.bits 16 17))
    else if holdsPartition (opcodeOf c.bits) ∧ ((partOf s (slotPart s k)).holder = some k ∨
        (match (anlOf s (slotPart s k)).run with | some r => r.slot == k | none => false) = true) then
      let n := slotPart s k
      clearPart (stopPart s n (fun j => if j = k then stPoison else stAbandoned)
        (fun j => if j = k then stPoison else stPartial)) n
    else complete s k (doneWith stPoison 0)
  | _, _ => s

/-- The four events of a codeword are lost: they are zero, and their waits end with POISON_CONSUMED. -/
def loseEvents (s : State) (e : Nat) : State :=
  [0, 1, 2, 3].foldl (fun s i =>
    let x := e / 4 * 4 + i
    let s1 := setEvent s x 0#64
    (s1.fe.waits.filter (fun qw => qw.2.event == x)).foldl (fun s qw => endWait s qw.1 stPoison 0#64) s1) s

def dropQueue (s : State) (q : Nat) : State :=
  let x := queueOf s q
  let n := unfetched x + x.fetched.length
  setQueue s q { x with dropped := satTo 8 (x.dropped + n), fetched := [], writeIndex := x.readIndex, resetDue := true }

/-- RESET of queue q (R339): its commands are dropped, its wait is abandoned, and what it owned; its indices clear at
its command boundary. -/
def resetQueue (s : State) (q : Nat) : State :=
  let es := soleEvents s q
  let s1 := abandonWait (dropQueue s q) q
  abandonOwned (es.foldl abandonEvent s1) 0 q

/-- A read of front-end state finds poison: the other copy mends it, or the object is lost. -/
def applyLoss (s : State) (x : FeLoss) : State :=
  if !x.both then
    countErr { s with err := { s.err with feRepairs := satTo 16 (s.err.feRepairs + 1) } } errFe catCorrected
  else
    let s1 := countErr s errFe catUncorrectable
    let s2 := sendErrMsg s1 0x06 errFe catUncorrectable (put x.code 31 28 + put x.id 19 0)
    match x.code with
    | 1 => resetQueue s2 x.id
    | 2 => loseSlot s2 x.id
    | 3 => loseEvents s2 x.id
    | 4 => setSess s2 x.id sess0
    | _ => s2

/-- The dispatcher fetches a batch for queue q, which holds a slot; `losses` are the front-end copies that its reads
find poisoned. -/
def doQueueFetch (q : Nat) (losses : List FeLoss) (s : State) : State :=
  let s1 := if noDispatcher s then s else losses.foldl applyLoss s
  let x := queueOf s1 q
  if x.slot.isNone ∨ isStopped s1 q = true ∨ x.resetDue = true ∨ x.reading.isSome ∨ noDispatcher s = true then s1
  else
    let n := min 8 (unfetched x)
    if n = 0 then batchEnds s1 q x.readIndex
    else if replays s1 (queuePart s1 q) then replayFetch s1 q n
    else
      match region s1.fuse.grade (ringBase (queueRing s1 q)) with
      | .hostWin w off => ringRequest s1 q n w off
      | _ =>
        let r := ringBytes s1 q n
        batchLands r.2 q r.1

/-! ### Mapping (R341, R342) -/

def priorityOf (s : State) (q : Nat) : Nat := (queuePol s q).priority

def assign (s : State) (q k : Nat) : State :=
  let t := slotOf s k
  setSlot (setQueue s q { queueOf s q with slot := some k, readySince := none, woken := false }) k
    { slot0 with queue := some q, hangs := t.hangs, progress := t.progress }

def readyQueues (s : State) : List Nat := (s.fe.queues.map Prod.fst).filter (isReady s)

/-- Pinned queues that are ready take their slots. -/
def mapPinned (s : State) : State :=
  (readyQueues s).foldl (fun s q =>
    match (queuePol s q).residency with
    | some k => if (slotOf s k).queue.isNone then assign s q k else s
    | none => s) s

/-- The slot's queue is at its command boundary, or waits for an event. -/
def mayEvict (s : State) (k : Nat) : Bool :=
  let t := slotOf s k
  (t.cmd.isNone && t.state != 7) || t.state == 6

/-- The resident floating queue that ready queue q evicts: of lower priority, the lowest first, then the highest
number (log entry 33). -/
def victim (s : State) (q : Nat) : Option (Nat × Nat) :=
  let cands := (List.range 32).filterMap (fun k =>
    match (slotOf s k).queue with
    | some p => if (queuePol s p).residency.isNone ∧ priorityOf s p < priorityOf s q ∧ mayHold s q k = true ∧ mayEvict s k = true
        then some (p, k) else none
    | none => none)
  leastBy (fun x => priorityOf s x.1 * 1024 + (1023 - x.1)) cands

/-- The queue of slot k parks its wait, if it has one, and leaves the slot. -/
def parkWait (s : State) (p : Nat) : State :=
  match mfind s.fe.waits p with
  | some w => { s with fe := { s.fe with waits := mins s.fe.waits p { w with slot := none } } }
  | none => s

/-- Queue p leaves slot k to another queue. -/
def evict (s : State) (p k : Nat) : State :=
  let s1 := parkWait s p
  let t := slotOf s1 k
  markReady (setQueue (setSlot s1 k { slot0 with hangs := t.hangs, progress := t.progress }) p { queueOf s1 p with slot := none }) p

/-- The ready floating queue that the mapping serves next. -/
def nextReady (s : State) (done : List Nat) : Option Nat :=
  leastBy (fun q => (7 - priorityOf s q) * 2 ^ 80 + ((queueOf s q).readySince.getD 0#64).toNat * 2 ^ 10 + q)
    ((readyQueues s).filter (fun q => (queuePol s q).residency.isNone && !done.contains q))

def mapOne (s : State) (q : Nat) : State :=
  match (List.range 32).find? (fun k => (slotOf s k).queue.isNone && mayHold s q k) with
  | some k => assign s q k
  | none =>
    match victim s q with
    | some (p, k) => assign (evict s p k) q k
    | none => s

def mapFloating : Nat → State → List Nat → State
  | 0, s, _ => s
  | fuel + 1, s, done =>
    match nextReady s done with
    | none => s
    | some q => mapFloating fuel (mapOne s q) (q :: done)

def doSlotMap (s : State) : State :=
  let s1 := (s.fe.queues.map Prod.fst).foldl markReady s
  if noDispatcher s then s else mapFloating (s1.fe.queues.length + 1) (mapPinned s1) []

/-! ### The head of a slot (R349, R363) -/

/-- A command that ends before it runs, with a fault capture. -/
def endCaptured (s : State) (k status reason : Nat) : State :=
  complete (capture s k status reason) k { doneWith status reason with captured := true }

def rejectCmd (s : State) (k status reason : Nat) : State :=
  let s1 := countErr { s with fe := { s.fe with rejected := satTo 16 (s.fe.rejected + 1) } } errFe catProtocol
  endCaptured s1 k status reason

/-- The ACTION of a command is reserved: it completes with FORMAT when it runs (R347). -/
def reservedAction (c : CmdWord) : Bool :=
  let act := cmdFld c 16 16
  match opcodeOf c with
  | 0x72 | 0x74 => act = 0 || 5 < act
  | 0x73 => act = 0 || 2 < act
  | 0x75 | 0x76 => act = 0 || 3 < act
  | _ => false

/-- The command has passed its checks: one that holds its partition waits for it, and the others run. -/
def headRuns (s : State) (k : Nat) (c : Fetched) : State :=
  let op := opcodeOf c.bits
  let st := if op = 0x20 then 2 else if holdsPartition op then 3 else 5
  let s1 := setSlot s k { slotOf s k with state := st, since := s.time.count, started := s.time.count, progress := s.time.count }
  if reservedAction c.bits then completeAs s1 k stFormat 0 else s1

/-- A window that failed its check is used up by the command that names it. -/
def dropBadWindow (s : State) (q : Nat) (c : CmdWord) : State :=
  match badWindowOf s (addrFields c (largePart s q)) with
  | some k => { s with host := { s.host with winBad := s.host.winBad.filter (· != k) } }
  | none => s

/-- Slot k takes its queue's next command, and checks it. -/
def doSlotHead (k : Nat) (s : State) : State :=
  match (slotOf s k).queue, (slotOf s k).cmd with
  | some q, none =>
    let x := queueOf s q
    if (slotOf s k).state = 7 ∨ isStopped s q = true ∨ x.resetDue = true ∨ noDispatcher s = true then s
    else
      match x.fetched with
      | [] => s
      | c :: rest =>
        let s1 := setQueue { s with fe := { s.fe with stamp := s.fe.stamp + 1 } } q { x with fetched := rest }
        let t := slotOf s1 k
        let s2 := setSlot s1 k { slot0 with queue := some q, reached := s.fe.stamp, cmd := some c, state := 2, hangs := t.hangs, progress := t.progress }
        if c.poison then endCaptured (noteConsumed s2 1) k stPoison 0x0C
        else if c.ringBad then complete s2 k (doneWith stFormat 0x0B)
        else
          match fetchCheck s2 q c with
          | some (st, reason) => rejectCmd (if reason = 0x09 then dropBadWindow s2 q c.bits else s2) k st reason
          | none => headRuns s2 k c
  | _, _ => s

/-! ### Stops and resets (R339, R355) -/

/-- A write of STOP. A wait in the slot is parked; what the queue alone would have recorded is abandoned at its command
boundary. -/
def doQueueStop (q : Nat) (stop : Bool) (s : State) : State :=
  if 512 ≤ q then s
  else if stop = isStopped s q then s
  else
    let s1 := setActive s (queueReg q 0x18) (boolBit stop)
    if !stop then markReady s1 q
    else
      match (queueOf s1 q).slot with
      | none => stopAt (setQueue s1 q { queueOf s1 q with readySince := none }) q
      | some k => if (slotOf s1 k).state = 6 then stopAt (parkWait s1 q) q else s1

/-- A write of RESET. -/
def doQueueReset (q : Nat) (s : State) : State := if 512 ≤ q then s else resetQueue (setQueue s q (queueOf s q)) q

/-! ### Simple commands -/

def doNop (k : Nat) (s : State) : State :=
  match runningCmd s k 1 with
  | some _ => completeAs s k stOk 0
  | none => s

/-- EVENT_RECORD (R352, R355). -/
def doEventRecord (k : Nat) (s : State) : State :=
  match runningCmd s k 2 with
  | none => s
  | some c =>
    let e := cmdFld c.bits 16 17
    let v := eventOf s e
    if c.cancelled then completeAs s k stAbandoned v.toNat
    else
      let w := BitVec.ofNat 64 (cmdFld c.bits 24 31)
      let new := match cmdFld c.bits 18 18 with
        | 0 => if v.toNat < w.toNat then w else v
        | 1 => w
        | _ => v + w
      evalWaiters (completeAs (setEvent s e new) k stOk new.toNat) e

/-- An outstanding wait of queue q meets a STOP or a RESET of its queue that came before its first check: a reset abandons
it, and a stop parks it (R339; log entry 33). -/
def meetStop (s : State) (q : Nat) : State :=
  if (queueOf s q).resetDue then abandonWait s q
  else if isStopped s q then stopAt (parkWait s q) q
  else s

/-- EVENT_WAIT: its first check (R353). -/
def doEventWait (k : Nat) (s : State) : State :=
  match runningCmd s k 3, (slotOf s k).queue with
  | some c, some q =>
    let e := cmdFld c.bits 16 17
    let v := eventOf s e
    let target := BitVec.ofNat 64 (cmdFld c.bits 24 31)
    if target.toNat ≤ v.toNat then completeAs s k stOk v.toNat
    else
      let us := cmdFld c.bits 20 23
      let w : Wait :=
        { event := e, target := target, seen := v, slot := some k, cmd := c,
          deadline := if us = 0 then none else some (s.time.count + BitVec.ofNat 64 (1000 * us)) }
      let s1 := setSlot s k { slotOf s k with state := 6 }
      meetStop { s1 with fe := { s1.fe with waits := mins s1.fe.waits q w } } q
  | _, _ => s

/-- The count has reached a time not more than 2^63 ns past. -/
def countReached (s : State) (t : BitVec 64) : Bool := sinceCount s t < 2 ^ 63

/-- TIMEOUT_US of queue q's wait has passed. -/
def doEventWaitTimeout (q : Nat) (s : State) : State :=
  match mfind s.fe.waits q with
  | some w =>
    match w.deadline with
    | some t => if countReached s t then endWait s q stTimeout (eventOf s w.event) else s
    | none => s
  | none => s

/-! ### The wait graph (R356) -/

/-- The queue whose record queue q waits for. -/
def waitEdge (s : State) (q : Nat) : Option Nat :=
  match mfind s.fe.waits q with
  | none => none
  | some w => if isStopped s q then none else pendingOwner s w.event

/-- The queues from q along the edges, until one comes back to q: the cycle that holds q, if there is one. -/
def cycleFrom : Nat → State → Nat → Nat → List Nat → Option (List Nat)
  | 0, _, _, _, _ => none
  | fuel + 1, s, start, q, path =>
    match waitEdge s q with
    | none => none
    | some p => if p = start then some (path ++ [q]) else cycleFrom fuel s start p (path ++ [q])

/-- The cycles, each from its highest-numbered queue in edge order. -/
def waitCycles (s : State) : List (List Nat) :=
  (s.fe.waits.map Prod.fst).filterMap (fun q =>
    match cycleFrom (s.fe.waits.length + 1) s q q [] with
    | some c => if c.all (· ≤ q) then some c else none
    | none => none)

def queueList (qs : List Nat) : Nat :=
  ((qs.take 8).zip (List.range 8)).foldl (fun t x => t + put x.1 8 0 * 2 ^ (9 * x.2)) 0

def breakCycle (s : State) (c : List Nat) : State :=
  let q := c.headD 0
  let seen := match mfind s.fe.waits q with | some w => eventOf s w.event | none => 0#64
  let s1 := { s with fe := { s.fe with deadlocks := satTo 16 (s.fe.deadlocks + 1) } }
  endWait (sendMsg s1 0x05 0 (min 255 c.length) (msgAt 20 9 (queueList c))) q stDeadlock seen

/-- At a multiple of 1,000,000 ns the cycles are broken. -/
def doWaitGraph (s : State) : State :=
  if s.time.count.toNat % 1000000 = 0 then (waitCycles s).foldl breakCycle s else s

/-! ### The watchdog (R362) -/

/-- Nothing has happened for n ns that would restart the watchdog of slot k: no progress, and no takeover (R362, R508). -/
def quietFor (s : State) (k n : Nat) : Bool :=
  n ≤ sinceCount s (slotOf s k).progress && (match s.fe.watchFrom with | some t => decide (n ≤ sinceCount s t) | none => true)

/-- The watchdog of slot k runs over its command, which has made no progress for WATCHDOG_US. -/
def isWatched (s : State) (k : Nat) : Bool :=
  let t := slotOf s k
  let n := slotPart s k
  (slotPol s k).watchdogUs != 0 && quietFor s k (1000 * (slotPol s k).watchdogUs) && haltCause s n == 0 &&
  (match t.cmd with
   | none => false
   | some c =>
     match opcodeOf c.bits with
     | 0x04 | 0x05 | 0x06 => t.state == 5
     | 0x20 | 0x21 | 0x22 | 0x40 | 0x64 => t.state == 5 && (partOf s n).holder == some k
     | 0x41 => t.state == 5 && (match (anlOf s n).run with | some r => r.slot == k && r.state != 2 | none => false)
     | _ => false)

/-- A hang counts as outage until the end of its reset, which takes at most 50 µs (R512, R545); how long no rule
computes (log entry 4). -/
def hangOutage (s : State) (n : Nat) : State :=
  let r := takeFree s 32
  addOutage r.2 (partCores r.2 n).length (r.1 % 50001)

/-- The watchdog of slot k expires. -/
def doWatchdogHang (k : Nat) (s : State) : State :=
  if !isWatched s k then s
  else
    match (slotOf s k).cmd with
    | none => s
    | some c =>
      let s1 := countErr (setSlot s k { slotOf s k with hangs := satTo 16 ((slotOf s k).hangs + 1) }) errFe catProtocol
      let s2 := flagSlot (capture s1 k stTimeout 0) k capturedMark
      if holdsPartition (opcodeOf c.bits) then hangOutage (resetHung s2 (slotPart s k) k) (slotPart s k) else complete s2 k (doneWith stTimeout 0)

/-! ### Completion rings (R359, R360, R531, R532) -/

/-- A write of FE_CQ_HEAD_c. -/
def doCqHeadWrite (c : Nat) (value : BitVec 32) (s : State) : State :=
  if 64 ≤ c then s
  else
    let x := cqOf s c
    if (x.tail - value).toNat ≤ ringEntries (cqRing s c) then setCq s c { x with head := value }
    else countErr s errConfig catProtocol

def msixPort (s : State) : Nat := fld (regActive s 0xF00000 0) 0 0

/-- The number of the message ring among the rings that send MSI-X messages. -/
def msgRingNo : Nat := 64

def msixVector (s : State) (r : Nat) : Nat := fld (if r = msgRingNo then msgCtrl s else regActive s (cqReg r 0x10) 0) 26 16
def msixIsDue (s : State) (r : Nat) : Bool := if r = msgRingNo then s.msg.msixDue else (cqOf s r).msixDue
def ringAddrOf (s : State) (r : Nat) : Nat := ringBase (if r = msgRingNo then msgRing s else cqRing s r)

def msixOf (s : State) (port v : Nat) : MsixEntry := mget msixEntry0 s.host.msix (2048 * port + v)
def setMsix (s : State) (port v : Nat) (x : MsixEntry) : State :=
  { s with host := { s.host with msix := mput msixEntry0 s.host.msix (2048 * port + v) x } }

/-- A vector's message: sent, or pending while the function or the vector is masked or MSI-X is disabled (R531). -/
def sendVector (s : State) (port v : Nat) : State :=
  let x := msixOf s port v
  if s.host.msixEnable.toNat.testBit port && !s.host.msixMask.toNat.testBit port && !x.masked then
    emit (setMsix s port v { x with pending := false }) (.msix port x.addr x.data)
  else setMsix s port v { x with pending := true }

/-- Ring r's message goes out. -/
def sendMsix (s : State) (r : Nat) : State :=
  let s1 :=
    if r = msgRingNo then { s with msg := { s.msg with msixDue := false, msixAt := some s.time.count } }
    else setCq s r { cqOf s r with msixDue := false, msixAt := some s.time.count }
  sendVector s1 (msixPort s) (msixVector s r)

/-- Ring r has sent no message in the last 1 µs (R360, R502). -/
def msixFree (s : State) (r : Nat) : Bool :=
  match (if r = msgRingNo then s.msg.msixAt else (cqOf s r).msixAt) with
  | none => true
  | some t => 1000 ≤ sinceCount s t

/-- MSIX_SEND of ring r: through the other port a zero-length read comes first (R532). -/
def doMsixSend (r : Nat) (s : State) : State :=
  if msgRingNo < r ∨ msixIsDue s r = false ∨ msixFree s r = false then s
  else
    match region s.fuse.grade (ringAddrOf s r) with
    | .hostWin w off =>
      if (window s w).port = msixPort s then sendMsix s r
      else if s.host.reads.any (fun x => x.why == .msix r) then s
      else
        let x := winRead s w off 0 (.msix r)
        if x.1 then x.2 else sendMsix x.2 r
    | _ => sendMsix s r

/-! ### Fuses (R348) -/

def fuseConfirmed (c : CmdWord) : Bool := cmdFld c 20 23 == 0x45535546

def setKeySlot (s : State) (i : Nat) (x : KeySlot) : State :=
  { s with fuse := { s.fuse with slots := mput keySlot0 s.fuse.slots i x } }

def doProgramSlot (k : Nat) (s : State) : State :=
  match actionCmd s k 0x76 1 with
  | none => s
  | some c =>
    let i := cmdFld c.bits 17 17
    let x := keySlotOf s i
    if fuseConfirmed c.bits = false ∨ i = 0 ∨ 3 < i ∨ x.programmed = true ∨ x.revoked = true then endCmd s k stFormat
    else
      match blockRead s k (cmdFld c.bits 24 31) 48 with
      | .wait s1 => s1
      | .poison s1 => endCmd s1 k stPoison
      | .bytes b s1 => endCmd (setKeySlot s1 i { programmed := true, revoked := false, hash := BitVec.ofNat 384 (ofBe b) }) k stOk

def liveSlots (s : State) : List Nat := (List.range 4).filter (fun i => (keySlotOf s i).programmed && !(keySlotOf s i).revoked)

def doRevokeSlot (k : Nat) (s : State) : State :=
  match actionCmd s k 0x76 2 with
  | none => s
  | some c =>
    let i := cmdFld c.bits 17 17
    if fuseConfirmed c.bits = true ∧ (liveSlots s).contains i = true ∧ 1 < (liveSlots s).length then
      endCmd (setKeySlot s i { keySlotOf s i with revoked := true }) k stOk
    else endCmd s k stFormat

def doRaiseMinSvn (k : Nat) (s : State) : State :=
  match actionCmd s k 0x76 3 with
  | none => s
  | some c =>
    let v := cmdFld c.bits 18 18
    if fuseConfirmed c.bits = true ∧ v ≤ 63 ∧ s.fuse.minSvn < v then
      endCmd { s with fuse := { s.fuse with minSvn := v } } k stOk
    else endCmd s k stFormat

end Sys2Proof.Machine
end

