-- ==== Sys2Proof/Machine/Launch.lean ====
section
/-!
DEFINITION. Sys2Proof/Machine/Launch.lean: the operations of LAUNCH_OP, DRAIN and LAUNCH_GRAPH: their first beat with its
checks (R143, R144, R198, R201, R350), the end of an array operation (R132 to R141, R151 to R161, R169 to R172), the end
of a vector operation (R209 to R213), graphs (R351), and timed starts (R56, R57, R493).
-/
namespace Sys2Proof.Machine

/-! ### Descriptors (R350, R351) -/

/-- What the first beat finds where a descriptor should be. -/
inductive Desc where
  | format
  | poison
  | words (d : BitVec 2048)
  deriving DecidableEq, Repr

def descOf (bs : List PByte) : Desc := if anyPoison bs then .poison else .words (BitVec.ofNat 2048 (ofLe (dataOf bs)))

/-- The descriptor at a: 128 bytes, or 256 for a vector descriptor, as the partition's remote master reads it. A range
that local memory does not hold whole names no descriptor. Whether a piece was refused comes with it. -/
def readDesc (s : State) (a : Nat) : Desc × Bool × State :=
  if a % 64 ≠ 0 ∨ rangeAllowed s .localOnly a 128 = false then (.format, false, s)
  else
    let x := localRead s ownRemote a 128
    if (nth (0#8, false) x.bytes 0).1 = 0x03#8 then
      if rangeAllowed s .localOnly a 256 then
        let y := localRead x.state ownRemote (a + 128) 128
        (descOf (x.bytes ++ y.bytes), x.refused || y.refused, y.state)
      else (.format, x.refused, x.state)
    else (descOf x.bytes, x.refused, x.state)

/-- The descriptor of the command in slot k, in the form that its partition's size asks for. -/
def cmdDesc (s : State) (c : Fetched) : Desc × Bool × State :=
  match c.buf with
  | some b => (if c.bufPoison then .poison else .words b, false, s)
  | none => readDesc s (cmdFld c.bits 24 31)

/-- The OP_TYPE that the command's descriptor shows. -/
def cmdDescType (s : State) (c : Fetched) : Nat :=
  match c.buf with
  | some b => fld b.toNat 7 0
  | none => (peekAs s ownRemote (cmdFld c.bits 24 31)).1.toNat

/-! ### The first beat -/

/-- Who accesses an operand in a space: the array feeder in a scratchpad, else the remote master (R366). -/
def feedOwner (space : Nat) : Nat := if space = 1 then ownFeeder else ownRemote

/-- How an operation's first beat leaves it: over at once with a status, or running. -/
structure Begun where
  status : Option Nat
  s : State
  deriving DecidableEq, Repr

def poisoned (s : State) : Begun := { status := some stPoison, s := noteConsumed s 1 }
def badFormat (s : State) : Begun := { status := some stFormat, s := s }

/-- The weight load (R121 to R123). -/
def loadWeights (s : State) (n k : Nat) (o : Geo) (d : ArrDesc) : State :=
  if d.keep then s
  else
    let t1 := touchAll s (feedOwner (d.space 0)) (tileRanges s o (d.space 0) d.wAddr 4096)
    let t2 := touchAll t1.2 (feedOwner (d.space 1)) (tileRanges s o (d.space 1) d.wsAddr 256)
    let s1 := if t1.1 || t2.1 then flagSlot t2.2 k stPartial else t2.2
    let p := partOf s1 n
    setPart s1 n { p with
      arr := { p.arr with
        tiles := loadTiles s1 o (d.space 0) d.wAddr 4096
        scaleTiles := loadTiles s1 o (d.space 1) d.wsAddr 256
        sumFormat := d.format
        weightsValid := true } }

/-- An array operation of partition n in slot k at its first beat; `drain` for DRAIN (R144). An image table is the one
in force now (R92, R183). -/
def beginArray (s : State) (n k : Nat) (img : PartImage) (w : BitVec 2048) (addr : Nat) (drain : Bool) : Begun :=
  let d0 := arrDesc w.toNat
  let d := if drain then drainDesc d0 else d0
  let f := if d.rescale && d.rescaleTable == 0xFFFE then takePairFail s (.qnt n) else (false, s)
  let ctrl := regActive s (0x400000 + 0x100 * n) 0
  if (d.opType == if drain then 2 else 1) && arrChecks f.2 n img (partOf s n).arr f.1 ctrl d then
    let o := geoOf s.fuse.grade img.shape
    let s1 := if drain then f.2 else loadWeights f.2 n k o d
    let table := if d.rescale && d.rescaleTable ≤ 0x3F then clean (imageTableBytes img.rescale d.rescaleTable d.n) else []
    let run : OpRun :=
      { slot := k, kind := if drain then .drain else .array, desc := w, tree := descTree ctrl d, band64 := descBand64 ctrl d,
        table := table, status := 0, started := s.time.count }
    { status := none, s := noteProgress (setPart s1 n { partOf s1 n with op := some run, lastDesc := addr }) k }
  else badFormat f.2

/-- A vector operation of partition n in slot k at its first beat (R201). The program is the one in force, or in memory,
now (R92). -/
def beginVector (s : State) (n k : Nat) (img : PartImage) (w : BitVec 2048) (addr : Nat) : Begun :=
  let d := vDesc w.toNat
  match vecProgram s img d with
  | none => badFormat s
  | some prog =>
    let t := if d.progSrc = 0 then (false, s) else localTouch s ownRemote d.progAddr (8 * d.progLen)
    let s1 := if t.1 then flagSlot t.2 k stPartial else t.2
    if anyPoison prog then poisoned s1
    else if vecChecks s1 img d (wordsOfProgram (dataOf prog)) then
      let run : OpRun :=
        { slot := k, kind := .vector, desc := w, tree := false, band64 := false, table := prog, status := 0,
          started := s.time.count }
      { status := none, s := noteProgress (setPart s1 n { partOf s1 n with op := some run, lastDesc := addr }) k }
    else badFormat s1

/-- An operation starts from what its descriptor's place holds. A graph's node may be a drain (R351). -/
def beginFrom (n k : Nat) (img : PartImage) (addr : Nat) (drains launches : Bool) (x : Desc × Bool × State) : Begun :=
  let s := if x.2.1 then flagSlot x.2.2 k stPartial else x.2.2
  match x.1 with
  | .format => badFormat s
  | .poison => poisoned s
  | .words w =>
    match fld w.toNat 7 0 with
    | 1 => if launches then beginArray s n k img w addr false else badFormat s
    | 2 => if drains then beginArray s n k img w addr true else badFormat s
    | 3 => if launches then beginVector s n k img w addr else badFormat s
    | _ => badFormat s

/-- The order of R139 behind the checks, with OVERARRIVAL directly after POISON_CONSUMED (R390). -/
def arrayOrder : List Nat := [stFormat, stPoison, stOverArrival, stSkew, stAbandoned, stPartial]

/-- An operation that ended at its first beat completes. -/
def endBegun (k : Nat) (b : Begun) : State :=
  match b.status with
  | none => b.s
  | some st => completeOp b.s k arrayOrder st 0 0

/-- The command of slot k has its partition: its operation starts. -/
def startLaunch (s : State) (k : Nat) (c : Fetched) (drain : Bool) : State :=
  let n := slotPart s k
  match partImg s n with
  | none => s
  | some img => endBegun k (beginFrom n k img (if c.buf.isSome then c.addr else cmdFld c.bits 24 31) drain (!drain) (cmdDesc s c))

/-! ### What an array operation reads -/

/-- The codes, records and preload elements that the operation reads, by space (R124, R130, R167, R170). -/
def operandRanges (s : State) (o : Geo) (d : ArrDesc) : List (Nat × List (Nat × Nat)) :=
  let span := 64 * pairP d.format
  let rows := (List.range o.rows).filter (fun q => decide (q * span < d.k))
  let toks := List.range d.m
  let inRow := fun (q : Nat) => min span (d.k - q * span)
  let a := match d.space 2 with
    | 0 => toks.map (fun m => (d.aAddr + m * d.aStride, (d.k * codeBits d.format + 7) / 8))
    | sp => rows.flatMap (fun q => toks.map (fun m =>
        (spaceAddr s sp (o.core q 0) (blockAddr o sp d.aAddr (codeBlock d.format) d.m q m), (inRow q * codeBits d.format + 7) / 8)))
  let r := match d.space 3 with
    | 0 => toks.map (fun m => (d.asAddr + m * d.recBytes, 4 * d.groups))
    | sp => rows.flatMap (fun q => toks.map (fun m =>
        (spaceAddr s sp (o.core q 0) (blockAddr o sp d.asAddr 8 d.m q m), 4 * ((inRow q + d.groupSize - 1) / d.groupSize))))
  let eb := preBytes d.preFmt
  let pm := if d.preSource = 2 then d.m else 1
  let p := if d.preSource = 0 then [] else
    match d.space 4 with
    | 0 => (List.range pm).map (fun m => (d.pAddr + m * d.pStride, d.n * eb))
    | sp => (List.range ((d.n + 63) / 64)).flatMap (fun j => (List.range pm).map (fun m =>
        (spaceAddr s sp (o.core o.rootRow j) (blockAddr o sp d.pAddr (64 * eb) pm o.rootRow m), min 64 (d.n - 64 * j) * eb)))
  [(feedOwner (d.space 2), a), (feedOwner (d.space 3), r), (feedOwner (d.space 4), p)]

/-- The ranges of a rescale table that lies in memory (R180). -/
def tableRanges (s : State) (n : Nat) (o : Geo) (d : ArrDesc) : Nat × List (Nat × Nat) :=
  let segs := (List.range ((d.n + 63) / 64)).map (fun j => (o.core o.rootRow j, 512 * j, 8 * min 64 (d.n - 64 * j)))
  if !d.rescale || d.rescaleTable ≤ 0x3F then (ownRemote, [])
  else if d.rescaleTable = 0xFFFE then
    (ownFeeder, segs.map (fun x => (scratchAddr x.1 ((regTable s n).2 + x.2.1), x.2.2)))
  else (feedOwner (d.space 7), segs.map (fun x => (spaceAddr s (d.space 7) x.1 (d.rtAddr + x.2.1), x.2.2)))

/-- Every operand is read: whether a remote-master access was refused (R367), and the state. -/
def readOperands (s : State) (n : Nat) (o : Geo) (d : ArrDesc) : Bool × State :=
  let x := if d.drains then (false, s) else
    (operandRanges s o d).foldl (fun (x : Bool × State) r => let y := touchAll x.2 r.1 r.2; (x.1 || y.1, y.2)) (false, s)
  let t := tableRanges s n o d
  let y := touchAll x.2 t.1 t.2
  (x.1 || (y.1 && d.rescaleTable == 0xFFFF), y.2)

/-! ### The sums (R132 to R134, R153) -/

def longOf (s : State) (key : Nat) : LongReg := mget long0 s.longs key

/-- The key of the root long register of column n. -/
def rootKey (o : Geo) (n : Nat) : Nat := longKey (o.core o.rootRow (n / 64)) (n % 64)

/-- What the root holds for element (m, n) when its sum is complete. -/
def rootSum (s : State) (st : ArrSt) (img : PartImage) (o : Geo) (d : ArrDesc) (b64 : Bool) (sums : List RemoteSum) (m n : Nat) :
    LongReg :=
  if d.drains then longOf s (rootKey o n)
  else
    let own := elementSum s st o d (bandRows b64) long0 m n
    if !holdsRoot img (moduleId s) then own
    else
      let v := crossSum img (moduleId s) sums own m n
      if d.add then joinLong (longOf s (rootKey o n)) v else addPreload s o d v m n

/-- The root long registers after the operation (R134). -/
def keepSums (s : State) (o : Geo) (d : ArrDesc) (last : List LongReg) : State :=
  if d.drains then s
  else
    (List.range (64 * o.cols)).foldl (fun s n =>
      if n < d.n then { s with longs := mput long0 s.longs (rootKey o n) (nth long0 last n) }
      else if d.add then s
      else { s with longs := mput long0 s.longs (rootKey o n) long0 }) s

/-- The bottom-edge long registers of the die-rows above the root's hold their own die's sum of the last token (R125, R126), and
the registers of the cores above the bottom edges hold what passed through them (log entry 32). -/
def keepDieSums (s : State) (n : Nat) (o : Geo) (d : ArrDesc) (b64 : Bool) : State :=
  if d.drains then s
  else
    let st := (partOf s n).arr
    let sums := (List.range (o.dieRows - 1)).flatMap (fun r => (List.range d.n).map (fun j =>
      (longKey (o.core (o.dieRowCores * r + o.dieRowCores - 1) (j / 64)) (j % 64), dieSum s st o d (bandRows b64) (d.m - 1) j r)))
    let s1 := sums.foldl (fun s x => { s with longs := mput long0 s.longs x.1 x.2 }) s
    let p := partOf s1 n
    setPart { s1 with fresh := s1.fresh + 1 } n { p with arr := { p.arr with passed := some s1.fresh, cleared := [] } }

/-- The groups of token m in whose records the modules below this one found a mismatch (R172). -/
def remoteGroups (sums : List RemoteSum) (m : Nat) : List Nat :=
  match sums.find? (fun r => r.token == m && !r.groups.isEmpty) with
  | none => []
  | some r => (sums.filter (fun x => x.token == m && x.col == r.col)).flatMap RemoteSum.groups

/-- The mismatched (token, group) pairs that this module knows of: its own, and in a cross-module reduction the others'. -/
def allPairs (own : List (Nat × Nat)) (sums : List RemoteSum) (tokens : Nat) : List (Nat × Nat) :=
  (List.range tokens).flatMap (fun m =>
    (sortBy id ((own.filter (fun x => x.1 == m)).map Prod.snd ++ remoteGroups sums m)).map (fun g => (m, g)))

/-- What this module sends on for element (m, n) (R159, R160). -/
def sentSum (img : PartImage) (s : State) (sums : List RemoteSum) (pairs : List (Nat × Nat)) (m n : Nat) (own : LongReg) : RemoteSum :=
  let v := sentValue img (moduleId s) sums own m n
  { pos := treePos img (moduleId s), token := m, col := n, value := v.value,
    range := v.range || v.invalid, poison := v.poison, skew := v.skew
    groups := if n = 0 then (pairs.filter (fun x => x.1 == m)).map Prod.snd else [] }

/-! ### The drain (R137, R138, R141) -/

/-- One segment's elements of a token, at the address where the root core of column segment j writes them. -/
def outAddr (s : State) (o : Geo) (d : ArrDesc) (m j : Nat) : Nat :=
  let ob := outBytes d.outFmt
  let core := o.core o.rootRow j
  match d.space 5 with
  | 0 => d.outAddr + m * d.outStride + 64 * j * ob
  | sp => spaceAddr s sp core (blockAddr o sp d.outAddr (64 * ob) d.m o.rootRow m)

/-- The elements of token m are written, segment by segment: whether a piece was refused, and the state. -/
def writeRow (s : State) (n k : Nat) (o : Geo) (d : ArrDesc) (m : Nat) (row : List OutElem) : Bool × State :=
  (List.range ((d.n + 63) / 64)).foldl (fun (x : Bool × State) j =>
    let bs := clean (((row.drop (64 * j)).take 64).flatMap (fun e => leBytes (outBytes d.outFmt) e.code))
    let a := outAddr x.2 o d m j
    let w := opWrite (marchFold x.2 n (o.core o.rootRow j) a bs) (some k) (feedOwner (d.space 5)) a bs
    (x.1 || w.1, w.2)) (false, s)

/-- The statistics record of token m is written. -/
def writeStats (s : State) (n k : Nat) (o : Geo) (d : ArrDesc) (m : Nat) (row : List OutElem) : Bool × State :=
  if !d.stats then (false, s)
  else
    let bs := statBytes (rowStats o d row)
    let a := d.statsAddr + 16 * m
    opWrite (marchPut s n a bs) (some k) ownRemote a bs

/-! ### The end of an array operation (R135, R136, R139, R146, R187) -/

/-- How an operation of a partition ended. -/
structure OpEnd where
  status : Nat
  dropped : Nat
  skew : Nat
  detail : Nat
  work : Nat
  s : State
  deriving DecidableEq, Repr

/-- DETAIL of a SCALE_SKEW (R358). -/
def skewDetail (pairs : List (Nat × Nat)) : Nat :=
  match pairs with
  | [] => 0
  | p :: _ => put p.1 63 40 + put p.2 39 34 + satTo 32 pairs.length

/-- A skew DETAIL joined with a later one: the first mismatch stays, the pairs add. -/
def joinSkew (a b : Nat) : Nat := if a = 0 then b else a / 2 ^ 32 * 2 ^ 32 + satTo 32 (a % 2 ^ 32 + b % 2 ^ 32)

/-- The counts of R146 and R187, from what this module's own stages found. -/
def noteArray (s : State) (n : Nat) (d : ArrDesc) (dropped poisoned rounded outOfWindow : Nat) (pairs : List (Nat × Nat)) (skew inFlight : Nat) :
    State :=
  let p := partOf s n
  let q := p.qnt
  let first := pairs.headD (0, 0)
  let q1 := { q with skewed := satTo 16 (q.skewed + pairs.length), outOfWindow := satTo 16 (q.outOfWindow + outOfWindow) }
  let q2 := if pairs.isEmpty || q.seen then q1 else { q1 with firstToken := first.1, firstGroup := first.2, seen := true }
  setPart s n { p with
    arr := { p.arr with
      dropped := satTo 16 (p.arr.dropped + dropped), poisoned := satTo 16 (p.arr.poisoned + poisoned),
      preloadRounded := satTo 16 (p.arr.preloadRounded + rounded), isOpen := d.opens, inFlight := inFlight, skewed := skew }
    qnt := q2
    op := none }

/-- The beats of the cross-module stage of an operation that ends in a drain (log entry 18). -/
def crossStage (s : State) (img : PartImage) (r : OpRun) (d : ArrDesc) : Nat :=
  if img.tree.modules.length ≤ 1 ∨ d.opens ∨ d.drains then 0
  else
    Config.crossBeats ([s.rate.rate, img.tree.transfer, img.tree.rootPos, img.tree.order, boolBit r.tree, boolBit r.band64, r.desc.toNat]
      ++ img.tree.modules)

/-- The array operation or drain of partition n completes. `sums` are what other modules sent, `extra` the beats that items in flight
held a DRAIN's tokens back. -/
def finishArray (s0 : State) (n k : Nat) (img : PartImage) (r : OpRun) (sums : List RemoteSum) (extra : Nat) : OpEnd :=
  let d0 := arrDesc r.desc.toNat
  let d := if r.kind = .drain then drainDesc d0 else d0
  let o := geoOf s0.fuse.grade img.shape
  let acc := readOperands s0 n o d
  let s := acc.2
  let st := (partOf s n).arr
  let rows := List.range d.m
  let cols := List.range d.n
  let sumsOf := fun (m : Nat) => cols.map (rootSum s st img o d r.band64 sums m)
  let root := holdsRoot img (moduleId s)
  let pairs := if d.drains then [] else skewPairs s st o d (bandRows r.band64)
  let known := if d.drains then [] else allPairs pairs sums d.m
  let before := if d.add || d.drains then st.skewed else 0
  let skew := joinSkew before (skewDetail known)
  let kept := joinSkew before (skewDetail (known.filter (fun x => x.1 + 1 == d.m)))
  let losses := if d.drains then 0 else
    rows.foldl (fun t m => cols.foldl (fun t c => t + windowLosses s st o d (bandRows r.band64) m c) t) 0
  let rounded := if d.drains || !root then 0 else preloadRounded s o d
  let work := workBeats s o img.tree.order d r.tree r.band64 + crossStage s img r d
    + (if d.drains then behindBeats st o img.tree.order extra else 0)
  let ahead := if d.opens then sumBeats s o img.tree.order d r.tree r.band64 + 1 - entryBeats s o d r.tree else 0
  let s1 := keepSums (keepDieSums s n o d r.band64) o d (sumsOf (d.m - 1))
  let s2 :=
    if d.drains || !sendsValue img (moduleId s) then s1
    else emit s1 (.arraySums n (rows.flatMap (fun m => cols.map (fun c =>
      sentSum img s sums known m c (elementSum s st o d (bandRows r.band64) long0 m c)))))
  if d.opens then
    { status := if acc.1 then stPartial else stOk, dropped := 0, skew := 0, detail := 0, work := work,
      s := noteArray s2 n d 0 0 rounded losses pairs kept ahead }
  else if !root then
    { status := if skew ≠ 0 then stSkew else if acc.1 then stPartial else stOk, dropped := 0, skew := skew, detail := 0, work := work,
      s := noteArray s2 n d 0 0 rounded losses pairs kept 0 }
  else
    let table := if d.rescaleTable ≤ 0x3F then r.table else tableEntries s n img o d
    let elems := fun (m : Nat) => (sumsOf m).mapIdx (fun (c : Nat) (v : LongReg) => outElem d (entryAt table c) v)
    let all := rows.map elems
    let w := (all.zip rows).foldl (fun (x : Bool × State) e => let y := writeRow x.2 n k o d e.2 e.1; (x.1 || y.1, y.2)) (false, s2)
    let t := (all.zip rows).foldl (fun (x : Bool × State) e => let y := writeStats x.2 n k o d e.2 e.1; (x.1 || y.1, y.2)) w
    let flat := all.flatten
    let dropped := (flat.filter OutElem.dropped).length
    let poison := (flat.filter OutElem.poison).length
    let skewed := flat.any OutElem.skew || skew != 0
    let s3 := noteArray (if poison = 0 then t.2 else noteConsumed t.2 1) n d dropped poison rounded losses pairs kept 0
    { status := if poison ≠ 0 then stPoison else if skewed then stSkew else if dropped ≠ 0 || acc.1 || t.1 then stPartial else stOk
      dropped := dropped, skew := skew, detail := satTo 32 dropped, work := work, s := s3 }

/-! ### Graphs (R351) -/

/-- The order of R351, with OVERARRIVAL directly after POISON_CONSUMED (R390). -/
def graphOrder : List Nat := [stFormat, stPoison, stOverArrival, stSkew, stNoEntropy, stAbandoned, stPartial]

/-- The statuses that apply to a node: its own, and those that its slot was marked with on the way. -/
def nodeMarks (s : State) (k status : Nat) : List Nat := status :: (slotOf s k).flags.filter (· != capturedMark)

/-- How a node of slot k's graph has completed. -/
def nodeStatus (s : State) (k status : Nat) : Nat := pickStatus graphOrder (nodeMarks s k status)

/-- What a node leaves behind. -/
def noteNode (s : State) (k status dropped skew beats : Nat) : State :=
  let t := slotOf s k
  let g := t.graph
  let st := nodeStatus s k status
  let g1 : GraphRun :=
    { g with
      node := g.node + 1, statuses := g.statuses ++ (nodeMarks s k status).filter (fun x => x != stOk && !g.statuses.contains x),
      beats := g.beats + beats + (if g.node = 0 then 0 else 24),
      firstBad := if st ≠ stOk ∧ g.firstBad = 0xFFFF then g.node else g.firstBad,
      dropped := g.dropped + dropped, skew := joinSkew g.skew skew }
  setSlot s k { t with graph := g1, flags := t.flags.filter (· == capturedMark) }

/-- An operation that has drained and whose packets have not all left waits with how it ended: the status, the two
DETAILs, the beats, and whether it is an array's (R423: a packet dropped for want of a route marks its command). -/
def leaving (s : State) (n k : Nat) (status skew detail work : Nat) (array : Bool) : State :=
  let d := BitVec.ofNat 2048 (put status 15 0 + put skew 127 64 + put detail 191 128 + put work 255 192)
  let r : OpRun := { slot := k, kind := .leaving, desc := d, tree := array, band64 := false, table := [], status := status, started := s.time.count }
  setPart s n { partOf s n with op := some r }

/-- The graph of slot k ends (R351, R358). -/
def closeGraph (s : State) (k : Nat) : State :=
  let g := (slotOf s k).graph
  let st := pickStatus graphOrder (g.statuses ++ (slotOf s k).flags)
  let detail := if st = stSkew then g.skew else graphDetail g
  addBeats (complete s k (doneOp st detail g.beats)) (slotPart s k) g.beats

/-- The graph ends once its packets have left. -/
def endGraph (s : State) (k : Nat) : State :=
  if packetsOf s k then leaving s (slotPart s k) k 0 0 0 0 false else closeGraph s k

/-- An address of a node's descriptor, with its parameter added where it is parameter-relative. -/
def paramAddr (params : List Byte) (v : Nat) : Nat :=
  if fld v 63 56 = 0xFE then (ofLe ((params.drop (8 * fld v 52 48)).take 8) + fld v 47 0) % 2 ^ 64 else v

/-- The first bytes of a descriptor's address fields. -/
def addrBytes (typ : Nat) : List Nat :=
  if typ = 3 then [16, 24, 32, 56, 80, 104, 128, 152] else [24, 32, 40, 48, 56, 64, 72, 80]

def withParams (params : List Byte) (w : BitVec 2048) : BitVec 2048 :=
  BitVec.ofNat 2048 ((addrBytes (fld w.toNat 7 0)).foldl (fun v i =>
    setFld v (8 * i + 63) (8 * i) (paramAddr params (fld v (8 * i + 63) (8 * i)))) w.toNat)

/-- The parameter words that the graph in slot k keeps. -/
def graphParams (s : State) (k : Nat) : List Byte := match (slotOf s k).param with | some bs => dataOf bs | none => []

def mapDesc (f : BitVec 2048 → BitVec 2048) (x : Desc) : Desc :=
  match x with
  | .words w => .words (f w)
  | .format => .format
  | .poison => .poison

/-- The next node of slot k's graph at its first beat, and its STOP_ON_ERROR. -/
def beginNode (s : State) (n k : Nat) (img : PartImage) (c : Fetched) : Begun × Bool :=
  let a := cmdFld c.bits 24 31 + 16 * (slotOf s k).graph.node
  if rangeAllowed s .localOnly a 16 = false then (badFormat s, true)
  else
    let e := localRead s ownRemote a 16
    let w := ofLe (dataOf e.bytes)
    let stop := byteFld w 8 8 == 1
    let s1 := if e.refused then flagSlot e.state k stPartial else e.state
    if anyPoison e.bytes then (poisoned s1, false)
    else if 2 ≤ byteFld w 8 8 ∨ byteFld w 9 15 ≠ 0 then (badFormat s1, true)
    else
      let desc := byteFld w 0 7
      let x := readDesc s1 desc
      (beginFrom n k img desc true true (mapDesc (withParams (graphParams s k)) x.1, x.2), stop)

/-- The graph of slot k keeps the STOP_ON_ERROR of the node that starts. -/
def noteStop (s : State) (k : Nat) (stop : Bool) : State :=
  let t := slotOf s k
  setSlot s k { t with graph := { t.graph with stop := stop } }

/-- Between two nodes the partition waits while a bank's hand-over or a halt holds it (R372, R493). -/
def nodeWaits (s : State) (n k : Nat) : State :=
  plainOp s n k .graph 0#2048

/-- The graph of slot k goes on from its next node; `fuel` bounds the nodes that end at their first beat. The boundary between
two operations lies before each node (R101). -/
def graphFrom : Nat → State → Nat → Nat → PartImage → Fetched → State
  | 0, s, _, k, _, _ => endGraph s k
  | fuel + 1, s0, n, k, img, c =>
    let s := applyDue s0
    if cmdFld c.bits 32 35 ≤ (slotOf s k).graph.node then endGraph s k
    else if haltCause s n ≠ 0 ∨ partHeld s n [0, 1] = true then nodeWaits s n k
    else
      let b := beginNode s n k img c
      match b.1.status with
      | none => noteStop b.1.s k b.2
      | some st0 =>
        let st := nodeStatus b.1.s k st0
        let s1 := noteNode b.1.s k st0 0 0 0
        if st = stFormat then endGraph s1 k
        else if b.2 && st != stOk then endGraph (opDrained s1 n) k
        else graphFrom fuel (opDrained s1 n) n k img c

/-- The graph of slot k starts: its parameter words, then its first node. A graph of no node or of more than 4,096 completes with
FORMAT at its first beat (R347; log entry 43). -/
def startGraph (s : State) (k : Nat) (c : Fetched) : State :=
  let n := slotPart s k
  match partImg s n with
  | none => s
  | some img =>
    let nodes := cmdFld c.bits 32 35
    let a := cmdFld c.bits 40 47
    let x : Desc × Bool × State :=
      match c.buf with
      | some b => (if c.bufPoison then .poison else .words b, false, s)
      | none =>
        if rangeAllowed s .localOnly a 256 then
          let y := localRead s ownRemote a 256
          (descOf y.bytes, y.refused, y.state)
        else (.format, false, s)
    let s1 := if x.2.1 then flagSlot x.2.2 k stPartial else x.2.2
    if nodes = 0 ∨ 4096 < nodes then completeOp s k graphOrder stFormat (put 0xFFFF 47 32) 0
    else
    match x.1 with
    | .format => completeOp s1 k graphOrder stFormat (put 0xFFFF 47 32) 0
    | .poison => completeOp (noteConsumed s1 1) k graphOrder stPoison (put 0xFFFF 47 32) 0
    | .words w =>
      let s2 := setSlot s1 k { slotOf s1 k with param := some (clean (leBytes 256 w.toNat)), graph := graph0 }
      graphFrom (cmdFld c.bits 32 35 + 1) s2 n k img c

/-- A node of slot k's graph has drained: the next node starts, or the graph ends. -/
def nodeDone (s : State) (n k : Nat) (img : PartImage) (c : Fetched) (e : OpEnd) : State :=
  let s1 := noteProgress (opDrained (noteNode s k e.status e.dropped e.skew e.work) n) k
  let st := nodeStatus s k e.status
  if st = stFormat ∨ ((slotOf s k).graph.stop = true ∧ st ≠ stOk) then endGraph s1 k else graphFrom (cmdFld c.bits 32 35 + 1) s1 n k img c

/-! ### The end of a vector operation (R209 to R211, R445) -/

/-- The vector operation of partition n has drawn what it needs, or is to end without it. -/
def finishVector (s : State) (n k : Nat) (img : PartImage) (r : OpRun) (starved : Bool) : OpEnd :=
  let d := vDesc r.desc.toNat
  let x := vecFinish s n k img d (wordsOfProgram (dataOf r.table)) starved
  let s1 := setPart x.2.2.2 n { partOf x.2.2.2 n with op := none }
  { status := x.1, dropped := 0, skew := 0, detail := satTo 32 x.2.2.1, work := x.2.1, s := s1 }

/-- The vector operation draws: the cores that wait, whether a draw was refused, and the state. -/
def drawVector (s : State) (n : Nat) (img : PartImage) (r : OpRun) : Drawn :=
  let d := vDesc r.desc.toNat
  let x := drawAll s n (shapeCores s.fuse.grade img.shape) d (wordsOfProgram (dataOf r.table))
  { x with s := setVec x.s n { vecOf x.s n with rand := x.rand, waiting := x.waiting, entropyWait := !x.waiting.isEmpty } }

/-- The waiting clients' draws leave the pool's line, and the end for want of entropy is counted (R445). -/
def starveVector (s : State) (n : Nat) (r : OpRun) : State :=
  let d := vDesc r.desc.toNat
  countNoEntropy ((vecOf s n).waiting.foldl (fun s c => dropDraw s (5 * c + d.client)) s)

/-- An operation that is no graph's node completes its command. -/
def closeOp (s : State) (k status skew detail work : Nat) (array : Bool) : State :=
  let order := if array then arrayOrder else defaultOrder
  completeOp s k order status (if pickStatus order (status :: (slotOf s k).flags) = stSkew then skew else detail) work

/-- The operation of partition n in slot k completes its command, or its node of a graph. -/
def endOp (n k : Nat) (img : PartImage) (c : Fetched) (array : Bool) (e : OpEnd) : State :=
  if opcodeOf c.bits = 0x21 then nodeDone e.s n k img c e
  else if packetsOf e.s k then leaving e.s n k e.status e.skew e.detail e.work array
  else closeOp e.s k e.status e.skew e.detail e.work array

/-- The operation of partition n that waits for its packets completes once they have left, and no context holds it (R394). -/
def leavingEnds (s : State) (n : Nat) (r : OpRun) : State :=
  let v := r.desc.toNat
  match (slotOf s r.slot).cmd with
  | none => s
  | some c =>
    if packetsOf s r.slot || contextWaits s n then s
    else
      let s1 := setPart s n { partOf s n with op := none }
      if opcodeOf c.bits = 0x21 then closeGraph s1 r.slot
      else closeOp s1 r.slot (fld v 15 0) (fld v 127 64) (fld v 191 128) (fld v 255 192) r.tree

/-- What runs on partition n: the operation, the command that holds the partition, and its image. -/
def running (s : State) (n : Nat) : Option (OpRun × Fetched × PartImage) :=
  match (partOf s n).op, partImg s n with
  | some r, some img =>
    match (slotOf s r.slot).cmd with
    | some c => some (r, c, img)
    | none => none
  | _, _ => none

/-- The vector operation of partition n ends, when no context holds it (R394) and its draws have been served or refused. -/
def vectorEnds (s : State) (n : Nat) (stalls : Stalls) : State :=
  match running s n with
  | none => s
  | some (r, c, img) =>
    let x := drawVector (addStalls s r.slot stalls) n img r
    if contextWaits s n then addStalls s r.slot stalls
    else if !x.waiting.isEmpty && !x.refused then x.s
    else
      let s1 := if x.refused then starveVector x.s n r else x.s
      endOp n r.slot img c false (finishVector s1 n r.slot img r x.refused)

/-- The hold of the vector operation of partition n reaches NO_ENTROPY_US; what else held it meanwhile is free (R45). -/
def vectorStarves (s : State) (n : Nat) : State :=
  match running s n with
  | none => s
  | some (r, c, img) =>
    if r.kind = .vector ∧ (vecOf s n).entropyWait = true then
      endOp n r.slot img c false (finishVector (starveVector (stopStalls s r.slot (sinceCount s r.started)).2 n r) n r.slot img r true)
    else s

/-- The array operation or drain of partition n ends, when no context holds it (R394). -/
def arrayEnds (s : State) (n : Nat) (stalls : Stalls) (sums : List RemoteSum) : State :=
  match running s n with
  | none => s
  | some (r, c, img) =>
    if contextWaits s n then addStalls s r.slot stalls
    else endOp n r.slot img c true (finishArray (addStalls s r.slot stalls) n r.slot img r sums stalls.extra)

/-! ### The rows -/

/-- LAUNCH_OP: its descriptor is in reach, and it waits for its partition (R343, R350). -/
def doLaunchOp (k : Nat) (s : State) : State :=
  match (slotOf s k).cmd with
  | none => s
  | some c =>
    if opcodeOf c.bits = 0x20 ∧ (slotOf s k).state = 2 then
      setSlot s k { slotOf s k with state := 3, since := s.time.count }
    else s

/-- An owner that a pending hand-over keeps at rest delays the operation's first beat (R372). -/
def launchHeld (s : State) (k : Nat) (c : Fetched) : Bool :=
  partHeld s (slotPart s k) (if cmdDescType s c = 3 then [1] else [0])

/-- The partition goes to slot k's LAUNCH_OP, which starts or arms; a graph that waited between nodes goes on. -/
def doOperationStart (k : Nat) (s : State) : State :=
  match (slotOf s k).cmd with
  | none => s
  | some c =>
    let n := slotPart s k
    if opcodeOf c.bits = 0x20 ∧ (slotOf s k).state = 3 then
      if isTimed c.bits then
        let t := tryTake s k
        if t.1 then armSlot t.2 k c else t.2
      else if launchHeld s k c then s
      else
        let t := tryTake s k
        if t.1 then startLaunch t.2 k c false else t.2
    else if opcodeOf c.bits = 0x21 ∧ (match (partOf s n).op with | some r => r.kind == .graph && r.slot == k | none => false) = true then
      match partImg s n with
      | some img => graphFrom (cmdFld c.bits 32 35 + 1) (setPart s n { partOf s n with op := none }) n k img c
      | none => s
    else s

/-- DRAIN takes its partition, and its tokens enter (R135, R136). -/
def doDrain (k : Nat) (s : State) : State :=
  match waitingCmd s k 0x22 with
  | none => s
  | some c =>
    if partHeld s (slotPart s k) [0] then s
    else
      let t := tryTake s k
      if t.1 then startLaunch t.2 k c true else t.2

/-- LAUNCH_GRAPH takes its partition, and starts or arms. -/
def doLaunchGraph (k : Nat) (s : State) : State :=
  match waitingCmd s k 0x21 with
  | none => s
  | some c =>
    if isTimed c.bits then
      let t := tryTake s k
      if t.1 then armSlot t.2 k c else t.2
    else
      let t := tryTake s k
      if t.1 then startGraph t.2 k c else t.2

/-- A node of slot k's graph has drained. -/
def doGraphNodeDone (k : Nat) (stalls : Stalls) (sums : List RemoteSum) (s : State) : State :=
  match (slotOf s k).cmd with
  | none => s
  | some c =>
    let n := slotPart s k
    match (partOf s n).op with
    | none => s
    | some r =>
      if opcodeOf c.bits = 0x21 ∧ r.slot = k then
        match r.kind with
        | .array | .drain => arrayEnds s n stalls sums
        | .vector => vectorEnds s n stalls
        | .leaving => leavingEnds s n r
        | _ => s
      else s

/-- The command that runs on partition n is no graph. -/
def plainCommand (s : State) (r : OpRun) : Bool := match (slotOf s r.slot).cmd with | some c => opcodeOf c.bits != 0x21 | none => false

/-- The array operation or DRAIN of partition n has drained (R136). -/
def doArrayOpDone (n : Nat) (stalls : Stalls) (sums : List RemoteSum) (s : State) : State :=
  match (partOf s n).op with
  | none => s
  | some r =>
    if plainCommand s r then
      match r.kind with
      | .array | .drain => arrayEnds s n stalls sums
      | .leaving => leavingEnds s n r
      | _ => s
    else s

/-- The vector operation of partition n has retired its last micro-op (R211). -/
def doVectorOpDone (n : Nat) (stalls : Stalls) (s : State) : State :=
  match (partOf s n).op with
  | none => s
  | some r =>
    if plainCommand s r then
      match r.kind with
      | .vector => vectorEnds s n stalls
      | .leaving => leavingEnds s n r
      | _ => s
    else s

/-- The count of an armed command has come, or it starts late as soon as it is armed (R56, R57). A halt holds it, and it then
starts late (R493). -/
def doTimedStart (k : Nat) (s : State) : State :=
  match (slotOf s k).cmd, (slotOf s k).queue with
  | some c, some q =>
    let n := slotPart s k
    if (slotOf s k).state ≠ 4 then s
    else if (slotOf s k).late = false ∧ s.time.count.toNat < (startCount c.bits).toNat then s
    else if haltCause s n ≠ 0 then setSlot s k { slotOf s k with late := true }
    else if breakBefore s n q c then haltPart (setSlot s k { slotOf s k with late := true }) n 1
    else
      match opcodeOf c.bits with
      | 0x20 => if launchHeld s k c then s else startLaunch (fireSlot s k) k c false
      | 0x21 => startGraph (fireSlot s k) k c
      | 0x41 => if partHeld s n [2] then s else beginRun (fireSlot s k) n
      | _ => s
  | _, _ => s

end Sys2Proof.Machine
end

