-- ==== Sys2Proof/Machine/ImageLoad.lean ====
section
/-!
DEFINITION. Sys2Proof/Machine/ImageLoad.lean: IMAGE_LOAD (R84 to R88, R94, R95): the copy into staging, the stages of
checks, and what a load that passes or fails leaves behind.
-/
namespace Sys2Proof.Machine

/-! ### STRUCTURE stage (R59 to R80, R86, R87, R178, R182, R212) -/

/-- RESCALE_TABLES (R182) with the entries of R178. -/
def rescaleOk (c : Section) : Bool :=
  let p := c.payload
  let n := rescaleTables p
  let d := fun (i : Nat) => 8 + 16 * i
  1 ≤ n && n ≤ 64 && zeroFrom p 2 7 && 8 + 16 * n ≤ c.plen &&
  (List.range n).all (fun i =>
    let entries := payFld p (d i + 4) (d i + 7)
    let first := payFld p (d i + 8) (d i + 15)
    payFld p (d i) (d i + 1) < 64 && zeroFrom p (d i + 2) (d i + 3) && 1 ≤ entries && entries ≤ 65536 &&
    first % 8 == 0 && 8 + 16 * n ≤ first && first + 8 * entries ≤ c.plen &&
    ((chunks 8 entries (p.drop first)).all (fun e => ofLe e / 2 ^ 47 == 0))) &&
  nodup ((List.range n).map (fun i => payFld p (d i) (d i + 1)))

/-- UPROG_LIB (R212): its micro-ops pass the program checks of R201. -/
def uprogOk (c : Section) : Bool :=
  let p := c.payload
  let n := uprogCount p
  let d := fun (i : Nat) => 8 + 8 * i
  1 ≤ n && n ≤ 256 && zeroFrom p 2 7 && 8 + 8 * n ≤ c.plen &&
  (List.range n).all (fun i =>
    let len := payByte p (d i + 2)
    let off := payFld p (d i + 4) (d i + 7)
    payFld p (d i) (d i + 1) < 256 && 1 ≤ len && len ≤ 64 && payByte p (d i + 3) == 0 && off % 8 == 0 &&
    8 + 8 * n ≤ off && off + 8 * len ≤ c.plen && (wordsOfProgram ((p.drop off).take (8 * len))).all uopOk) &&
  nodup ((List.range n).map (fun i => payFld p (d i) (d i + 1)))

/-- The section's scope is the one its type has (R61, R63). -/
def scopeOk (whole : Bool) (mask : Nat) (cs : List Section) (c : Section) : Bool :=
  if c.kind = 1 ∨ c.kind = 6 ∨ c.kind = 7 ∨ c.kind = 10 ∨ c.kind = 11 ∧ c.scope = 0 then
    c.scope == 0 && c.part == 0 && whole
  else c.scope == 1 && c.part < 64 && (whole || mask.testBit c.part) && (partSection cs c.part).isSome

/-- No earlier section takes its place (R63): dispatcher and scalar firmware of the module are two. -/
def countOk (before : List Section) (c : Section) : Bool :=
  !(before.any (fun b => knownSection b && b.kind == c.kind && b.scope == c.scope && b.part == c.part &&
    !(c.kind == 11 && c.scope == 0 && payByte b.payload 0 != payByte c.payload 0)))

/-- Two shapes of different partitions agree with R31 and R32. -/
def shapesApart (g : Grade) (a b : Shape) : Bool :=
  (shapeDies a).all (fun d => !(shapeDies b).contains d) ||
    (!a.dieRect && !b.dieRect && (shapeCores g a).all (fun c => !inShape g b c))

/-- The PARTITION section's shape fits the partitions in force that stay, and the earlier sections. -/
def shapeFits (s : State) (whole : Bool) (mask : Nat) (before : List Section) (c : Section) : Bool :=
  let g := s.fuse.grade
  let stay := if whole then [] else
    match s.image.force with
    | none => []
    | some f => (f.parts.filter (fun np => !mask.testBit np.1)).map (fun np => np.2.shape)
  let earlier := (before.filter (fun b => knownSection b && b.kind == 2)).map payloadShape
  (stay ++ earlier).all (shapesApart g (payloadShape c))

/-- The mapping that the image names may follow the one in force (R78). -/
def interleaveFollows (s : State) (clear : Bool) (i : Interleave) : Bool :=
  match s.image.force with
  | none => true
  | some f =>
    clear || !s.image.established ||
    (i.policy == f.interleave.policy && i.keySource == f.interleave.keySource &&
      (i.keySource == 0 || i.key == f.interleave.key))

def moduleSection (cs : List Section) : Option Section := cs.find? (fun c => knownSection c && c.kind == 1)

/-- CLEAR_HBM of the image (R66). -/
def clearsHbm (cs : List Section) : Bool := match moduleSection cs with | some m => bitOf (payByte m.payload 3) 0 | none => false

def partitionsIn (cs : List Section) : Nat := (cs.filter (fun c => knownSection c && c.kind == 2)).length

/-- The section's payload. -/
def payloadOk (s : State) (whole : Bool) (mask : Nat) (cs before : List Section) (c : Section) : Bool :=
  let g := s.fuse.grade
  let shape := secShape cs c.part
  let head := match moduleSection cs with | some m => (payByte m.payload 0, payByte m.payload 1) | none => (0, 1)
  match c.kind with
  | 1 => before.isEmpty && moduleOk (partitionsIn cs) c
  | 2 => partitionOk g c && shapeFits s whole mask before c
  | 4 => treeOk shape c
  | 5 => bankDefaultsOk g shape c
  | 6 => queuePolicyOk c
  | 7 => linkTopologyOk head.1 head.2 c
  | 8 => anlRegionsOk g shape c
  | 9 => entropyClientsOk g shape c
  | 10 => interleaveOk c && interleaveFollows s (clearsHbm cs) (interleaveOf c)
  | 11 => firmwareOk c
  | 12 => rescaleOk c
  | _ => uprogOk c

/-- One section of the image cs, after the sections `before` it; the first of a whole image is the MODULE section (R59). Of an unknown OPTIONAL section, which is skipped, the
model looks at the padding and the place alone: its SCOPE, PARTITION, byte 7 and other FLAGS bits go unchecked (R62 does not say;
DESIGN CHOICE, log entry 49). -/
def sectionOk (s : State) (whole : Bool) (mask : Nat) (cs before : List Section) (c : Section) : Bool :=
  c.padOk && c.kind != 3 && (!(whole && before.isEmpty) || c.kind == 1) &&
  (skipped c ||
    (knownSection c && c.flags ≤ 1 && c.resv == 0 && scopeOk whole mask cs c && countOk before c &&
      payloadOk s whole mask cs before c))

/-- The first section that fails, by its index. -/
def badSection (s : State) (whole : Bool) (mask : Nat) (cs : List Section) : List Section → List Section → Option Nat
  | _, [] => none
  | before, c :: rest =>
    if sectionOk s whole mask cs before c then badSection s whole mask cs (before ++ [c]) rest else some before.length

/-- The partitions that the image declares, as a mask. -/
def declaredMask (cs : List Section) : Nat :=
  (List.range 64).foldl (fun t n => if (partSection cs n).isSome then t + 2 ^ n else t) 0

/-- What a whole image must hold (R63, R86). -/
def wholeOk (mask : Nat) (cs : List Section) : Bool :=
  let has := fun (k : Nat) => cs.any (fun c => knownSection c && c.kind == k)
  let fw := fun (t : Nat) => cs.any (fun c => knownSection c && c.kind == 11 && c.scope == 0 && payByte c.payload 0 == t)
  (match cs with | c :: _ => knownSection c && c.kind == 1 | [] => false) &&
  has 6 && has 7 && has 10 && fw 0 && fw 1 && mask == declaredMask cs

/-- The STRUCTURE stage: the index of the section that fails, 0 for a condition on the whole image. -/
def structureFail (s : State) (h : ImgHeader) (b : List Byte) (cs : List Section × Nat) : Option Nat :=
  let whole := h.kind == 1
  if !h.resvOk || 63 < h.svn || !zeroFrom b (h.length - 64) (h.length - 1) then some 0
  else
    match badSection s whole h.mask cs.1 [] cs.1 with
    | some i => some i
    | none =>
      if cs.2 ≠ h.length - 256 ∨ (if whole then wholeOk h.mask cs.1 else h.mask != 0) = false then some 0 else none

/-! ### The stages after the copy (R82, R84) -/

/-- A failed stage: its code, the section and the status. -/
structure StageFail where
  stage : Nat
  sect : Nat
  status : Nat
  poison : Bool
  deriving DecidableEq, Repr

def stageHeader : Nat := 1
def stageKey : Nat := 2
def stageSignature : Nat := 3
def stageSvn : Nat := 4
def stageSection : Nat := 5
def stageStructure : Nat := 6
def stageStaging : Nat := 7

def authFail (stage sect : Nat) (poison : Bool) : Option StageFail :=
  some { stage := stage, sect := sect, status := stImageAuth, poison := poison }
def formFail (stage sect : Nat) : Option StageFail :=
  some { stage := stage, sect := sect, status := stFormat, poison := false }

/-- The key of the signature block is the one fused in KEY_SLOT (R82). -/
def keyOk (s : State) (h : ImgHeader) (sig : List Byte) : Bool :=
  let k := keySlotOf s h.keySlot
  k.programmed && !k.revoked && sha384 (sig.take 96) == k.hash.toNat

def sigField (sig : List Byte) (lo n : Nat) : Nat := ofBe ((sig.drop lo).take n)

/-- The sections of a staged image: they end where the signature block begins. -/
def stagedSections (h : ImgHeader) (b : List Byte) : List Section × Nat := imgSections h.count (b.take (h.length - 256)) 128

/-- The stages KEY to STRUCTURE over the staged bytes. A stage that reads poison fails. -/
def checkStages (s : State) (h : ImgHeader) (data : List PByte) : Option StageFail :=
  let b := dataOf data
  let sig := b.drop (h.length - 256)
  let keyPoison := anyPoison ((data.drop (h.length - 256)).take 96)
  let cs := stagedSections h b
  if keyPoison then authFail stageKey 0 true
  else if !keyOk s h sig then authFail stageKey 0 false
  else if anyPoison data then authFail stageSignature 0 true
  else if !ecdsaOk (sha384 (b.take (h.length - 256))) (sigField sig 0 48) (sigField sig 48 48) (sigField sig 96 48) (sigField sig 144 48) then
    authFail stageSignature 0 false
  else if h.svn < s.fuse.minSvn then authFail stageSvn 0 false
  else
    match firstFail sectionAuth 0 cs.1 with
    | some i => authFail stageSection i false
    | none =>
      match structureFail s h b cs with
      | some i => formFail stageStructure i
      | none => none

/-! ### Pending loads (R88) -/

def allOnes : BitVec 64 := BitVec.ofNat 64 (2 ^ 64 - 1)

/-- PARTITION_MASK of a pending load: a whole image's names the partitions it declares (R86). -/
def loadMask (p : PendingLoad) : Nat := if p.whole then declaredMask p.sections else p.tag.toNat

/-- A load with tag t discards p. -/
def discards (whole : Bool) (t : BitVec 64) (p : PendingLoad) : Bool := whole || p.whole || p.tag &&& t != 0#64

/-- STAGING: the bytes that stay, and the new load's. -/
def stagingFits (s : State) (whole : Bool) (t : BitVec 64) (bytes : Nat) : Bool :=
  ((s.image.pending.filter (fun p => !discards whole t p)).map PendingLoad.bytes).foldl (· + ·) bytes ≤ 2 ^ 32

/-- IMAGE_EVENT (R95, R504). -/
def imageEvent (s : State) (sub stage mask sect status : Nat) : State :=
  sendMsg s 0x09 sub stage (msgAt 20 8 mask + msgAt 28 2 sect + msgAt 30 1 status)

/-- The pending form of a checked image. -/
def pendingOfImage (h : ImgHeader) (cs : List Section) (key : Option (BitVec 128)) : PendingLoad where
  whole := h.kind == 1
  tag := if h.kind = 1 then allOnes else BitVec.ofNat 64 h.mask
  bytes := h.length
  rate := h.rate
  buildId := BitVec.ofNat 128 h.buildId
  key := key
  sections := cs.filter knownSection

/-- A load that passed every stage: what it replaces is discarded, and it is pending. -/
def addPending (s : State) (p : PendingLoad) : State :=
  let gone := s.image.pending.filter (discards p.whole p.tag)
  let s1 := gone.foldl (fun s q => imageEvent s 4 0 (loadMask q) 0 0) s
  let s2 := { s1 with image := { s1.image with
    pending := s1.image.pending.filter (fun q => !discards p.whole p.tag q) ++ [p], loading := none,
    lastStatus := stOk, lastStage := 0, lastSection := 0 } }
  imageEvent s2 1 0 (loadMask p) 0 stOk

/-- The mapping will be established by the commit of this image, with a key from the pool (R78). -/
def needsKey (s : State) (h : ImgHeader) (cs : List Section) : Bool :=
  h.kind == 1 && (!s.image.established || clearsHbm cs) &&
  cs.any (fun c => knownSection c && c.kind == 10 && (interleaveOf c).keySource == 0)

/-- What a load leaves when stage f fails. -/
def loadFailed (s : State) (mask : Nat) (f : StageFail) : State :=
  let s1 := if f.poison then noteConsumed s 1 else s
  let s2 := { s1 with image := { s1.image with
    loading := none, lastStatus := f.status, lastStage := f.stage, lastSection := f.sect,
    fails := satTo 16 (s1.image.fails + 1) } }
  imageEvent s2 2 f.stage mask f.sect f.status

/-! ### The copy (R84) -/

/-- No image load, image commit or core retirement runs (R94). -/
def structuralFree (s : State) : Bool := s.image.loading.isNone && s.image.committing.isNone && s.err.retire.isNone

/-- A structural command in a slot. -/
def isStructural (c : CmdWord) : Bool :=
  opcodeOf c == 0x70 || opcodeOf c == 0x71 || (opcodeOf c == 0x77 && cmdFld c 16 16 == 1)

/-- Slot k's structural command is the one that reached its slot first (R94). Commands whose slots take them at one count
stand in the order of their SLOT_HEAD rows (DESIGN CHOICE, log entry 49). -/
def structuralTurn (s : State) (k : Nat) : Bool :=
  let ks := (s.fe.slots.filter (fun kt => kt.2.state == 5 && (match kt.2.cmd with | some c => isStructural c.bits | none => false))).map Prod.fst
  structuralFree s && leastBy (fun i => (slotOf s i).reached) ks == some k

def headBytes (l : LoadRun) : Nat := min 128 l.length

def loadHeader (l : LoadRun) : ImgHeader := imgHeader (dataOf (l.data.take 128))

/-- Bytes that the load copies next: the header, then the rest. -/
def loadGoal (l : LoadRun) : Nat := if l.data.length < headBytes l then headBytes l else (loadHeader l).length

def setLoading (s : State) (l : LoadRun) : State := { s with image := { s.image with loading := some l } }

/-- A load's command ends with the failure of stage f (R358). -/
def loadEndsBad (s : State) (l : LoadRun) (f : StageFail) : State :=
  complete (loadFailed s (loadHeader l).mask f) l.slot (doneWith f.status (put f.stage 3 0 + put f.sect 15 4))

/-- Bytes are copied. The HEADER stage runs on the first 128; its failure ends the load. -/
def loadTakes (s : State) (l : LoadRun) (bs : List PByte) : State :=
  let l1 := { l with data := l.data ++ bs, asked := false }
  if l.data.length < headBytes l ∧ headBytes l ≤ l1.data.length then
    let bad := anyPoison (l1.data.take 128)
    let h := loadHeader l1
    if bad || !headerOk s l.length h then
      loadEndsBad s l1 { stage := stageHeader, sect := 0, status := stFormat, poison := bad }
    else setLoading s { l1 with mask := if h.kind = 1 then allOnes else BitVec.ofNat 64 h.mask }
  else setLoading s l1

/-- The rest of the header or of the image is read from local memory. -/
def loadLocal (s : State) (l : LoadRun) : State :=
  let a := l.source + l.data.length
  let n := loadGoal l - l.data.length
  if n = 0 ∨ dmaHeld s a n = true then s
  else
    let x := localRead s ownDma a n
    loadTakes (if x.refused then flagSlot x.state l.slot stPartial else x.state) l x.bytes

/-- The next request through the host window, or the next bytes of a replay (R489); `fuel` bounds a replay's pieces. -/
def loadWindow : Nat → State → State
  | 0, s => s
  | fuel + 1, s =>
    match s.image.loading with
    | none => s
    | some l =>
      let a := l.source + l.data.length
      match region s.fuse.grade a with
      | .hostWin w off =>
        if loadGoal l ≤ l.data.length ∨ l.asked = true then s
        else if replays s (slotPart s l.slot) then
          match replayRead s a with
          | none => s
          | some (bs, s1) => loadWindow fuel (loadTakes s1 l (clean (bs.take (loadGoal l - l.data.length))))
        else
          let n := min (loadGoal l - l.data.length) (4096 - a % 4096)
          let r := winRead s w off n (.image l.data.length)
          if r.1 then setLoading r.2 { l with asked := true }
          else loadWindow fuel (loadTakes r.2 l (List.replicate n (0#8, true)))
      | _ => s

def windowFuel : Nat := 2 ^ 21 + 2

/-- Bytes of the source arrive through a host window. -/
def imageLands (s : State) (off : Nat) (bs : List PByte) : State :=
  match s.image.loading with
  | none => s
  | some l =>
    if l.data.length = off then
      let s1 := recordHostRead 5 s (slotPart s l.slot) (l.source + off) (dataOf bs)
      loadWindow windowFuel (loadTakes s1 l bs)
    else s

def fromWindow (s : State) (l : LoadRun) : Bool := match region s.fuse.grade l.source with | .hostWin _ _ => true | _ => false

/-- IMAGE_LOAD starts, when its turn has come: the header is copied and checked. -/
def doImageLoad (k : Nat) (s : State) : State :=
  match runningCmd s k 0x70 with
  | none => s
  | some c =>
    if !structuralTurn s k then s
    else
      let l : LoadRun :=
        { mask := 0#64, slot := k, source := cmdFld c.bits 24 31, length := cmdFld c.bits 32 39, data := [], asked := false }
      let s1 := { setLoading s l with ent := { s.ent with keyDrawn := none } }
      if fromWindow s l then loadWindow windowFuel s1 else loadLocal s1 l

/-- The stages have passed, but for STAGING: the load takes its key and becomes pending. -/
def loadPasses (s : State) (l : LoadRun) (h : ImgHeader) (cs : List Section) : State :=
  let p := pendingOfImage h cs s.ent.keyDrawn
  let s1 := { s with ent := { s.ent with keyDrawn := none } }
  if stagingFits s1 p.whole p.tag p.bytes then completeAs (addPending s1 p) l.slot stOk 0
  else loadEndsBad s1 l { stage := stageStaging, sect := 0, status := stFormat, poison := false }

/-- The key of an image under check is being drawn, or has been: its earlier stages have passed. -/
def keyUnderWay (s : State) : Bool := s.ent.draws.contains keyDraw || s.ent.keyDrawn.isSome

/-- The whole image has been copied: the stages run, and the load ends or waits for its key (R78, R445). -/
def loadChecks (s : State) (l : LoadRun) : State :=
  let h := loadHeader l
  let cs := (stagedSections h (dataOf l.data)).1
  match (if keyUnderWay s then none else checkStages s h l.data) with
  | some f => loadEndsBad s l f
  | none =>
    if needsKey s h cs ∧ s.ent.keyDrawn.isNone then
      let s1 := if s.ent.draws.contains keyDraw then s else addDraw s keyDraw
      if s1.ent.keyDrawn.isSome then loadPasses s1 l h cs else s1
    else loadPasses s l h cs

/-- The copy of slot k's image completes, and its checks run. -/
def doImageLoadDone (k : Nat) (s : State) : State :=
  match s.image.loading with
  | none => s
  | some l0 =>
    if l0.slot ≠ k then s
    else
      let s1 := if fromWindow s l0 then loadWindow windowFuel s else loadLocal s l0
      match s1.image.loading with
      | none => s1
      | some l => if l.data.length = loadGoal l ∧ headBytes l ≤ l.data.length then loadChecks s1 l else s1

/-- The key draw has waited NO_ENTROPY_US: it ends its load (R445). -/
def keyStarves (s : State) : State :=
  match s.image.loading with
  | none => dropDraw s keyDraw
  | some l =>
    loadEndsBad (countNoEntropy (dropDraw s keyDraw)) l
      { stage := stageStructure, sect := 0, status := stNoEntropy, poison := false }

end Sys2Proof.Machine
end

