-- ==== Sys2Proof/Machine/ImageCommit.lean ====
section
/-!
DEFINITION. Sys2Proof/Machine/ImageCommit.lean: IMAGE_COMMIT (R89 to R93, R110): which loads and staged registers a mask
takes, what drains, the rate change of R40, and what applying the sections does to every block.
-/
namespace Sys2Proof.Machine

/-! ### The image that a commit puts in force (R64, R78, R87) -/

/-- A partition's section of a kind. -/
def findSection (cs : List Section) (kind n : Nat) : Option Section :=
  cs.find? (fun c => c.kind == kind && c.scope == 1 && c.part == n)

def moduleSectionOf (cs : List Section) (kind : Nat) : Option Section := cs.find? (fun c => c.kind == kind && c.scope == 0)

def firmwareSection (cs : List Section) (target : Nat) : List Byte :=
  match cs.find? (fun c => c.kind == 11 && c.scope == 0 && payByte c.payload 0 == target) with
  | some c => c.payload
  | none => []

def sectionPayload (c : Option Section) : List Byte := match c with | some c => c.payload | none => []

def defaultTree : TreeShape := { order := 0, transfer := 0, rootPos := 0, modules := [0] }

def treeOf (c : Section) : TreeShape where
  order := payByte c.payload 0
  transfer := payByte c.payload 2
  rootPos := payByte c.payload 3
  modules := ((c.payload.drop 8).take (payByte c.payload 1)).map BitVec.toNat

/-- The regions of R64: one a core, and no colouring. -/
def defaultRegions (g : Grade) (p : Shape) : AnlRegions where
  regions := (shapeCores g p).length
  colours := 0
  tag := 0#64
  vars := 0
  regionOf := List.range (shapeCores g p).length
  colourOf := []

/-- What the sections cs give partition n, with R64's defaults; `scalar` is the module's scalar firmware. -/
def partImageOf (g : Grade) (cs : List Section) (n : Nat) (c : Section) (scalar : List Byte) (buildId : BitVec 128) : PartImage :=
  let shape := payloadShape c
  { shape := shape
    defaultMode := payByte c.payload 6
    defaultBand := payByte c.payload 7
    tree := (match findSection cs 4 n with | some t => treeOf t | none => defaultTree)
    regions := (match findSection cs 8 n with | some t => regionsOf g (some shape) t | none => defaultRegions g shape)
    clients := (match findSection cs 9 n with | some t => clientsOf t | none => clients0)
    owners := sectionPayload (findSection cs 5 n)
    rescale := sectionPayload (findSection cs 12 n)
    uprog := sectionPayload (findSection cs 13 n)
    firmware := (match findSection cs 11 n with | some t => t.payload | none => scalar)
    buildId := buildId }

def declaredParts (g : Grade) (cs : List Section) (scalar : List Byte) (buildId : BitVec 128) : AMap PartImage :=
  (List.range 64).foldl (fun m n =>
    match findSection cs 2 n with
    | some c => mins m n (partImageOf g cs n c scalar buildId)
    | none => m) []

def queuesOf (p : List Byte) : AMap QueuePol :=
  (List.range 512).foldl (fun m q =>
    let r := payByte p (8 * q + 3)
    mput queuePol0 m q
      { part := payByte p (8 * q), kernel := payByte p (8 * q + 1) == 1, priority := payByte p (8 * q + 2),
        residency := if r = 0xFF then none else some r }) []

def slotsOf (p : List Byte) : AMap SlotPol :=
  (List.range 32).foldl (fun m k =>
    mput slotPol0 m k { watchdogUs := payFld p (4096 + 8 * k) (4099 + 8 * k), minPriority := payByte p (4100 + 8 * k) }) []

def topo0 : LinkTopo := { peer := 0xFF, peerLink := 0, maxLanes := 8, tree := false }

def linksOf (p : List Byte) : AMap LinkTopo :=
  (List.range 32).foldl (fun m l =>
    mins m l { peer := payByte p (64 + 8 * l), peerLink := payByte p (65 + 8 * l), maxLanes := payByte p (66 + 8 * l),
               tree := payByte p (67 + 8 * l) == 1 }) []

def routesOf (p : List Byte) : AMap (BitVec 32) :=
  (List.range 64).foldl (fun m i => mput 0#32 m i (BitVec.ofNat 32 (payFld p (320 + 8 * i) (323 + 8 * i)))) []

/-- The mapping that the commit of a whole image leaves (R78): a new one where it is established, else the one in force,
with the image's latencies. -/
def newInterleave (s : State) (p : PendingLoad) : Interleave :=
  let i := match moduleSectionOf p.sections 10 with
    | some c => interleaveOf c
    | none => { policy := 0, keySource := 0, key := 0#128, lat150 := 480, lat135 := 440, lat120 := 400 }
  let establish := !s.image.established || clearsHbm p.sections
  match s.image.force with
  | some f => if establish then { i with key := if i.keySource = 1 then i.key else p.key.getD 0#128 } else { i with key := f.interleave.key }
  | none => { i with key := if i.keySource = 1 then i.key else p.key.getD 0#128 }

/-- A whole image in force. -/
def wholeForce (s : State) (p : PendingLoad) : ImageForce :=
  let cs := p.sections
  let m := sectionPayload (moduleSectionOf cs 1)
  let l := sectionPayload (moduleSectionOf cs 7)
  let q := sectionPayload (moduleSectionOf cs 6)
  { moduleId := payByte m 0, domainSize := payByte m 1, clearHbm := bitOf (payByte m 3) 0, rate := p.rate
    parts := declaredParts s.fuse.grade cs (firmwareSection cs 0) p.buildId
    queues := queuesOf q, slots := slotsOf q
    leader := payByte l 0, beaconParent := if payByte l 1 = 0xFF then none else some (payByte l 1)
    links := linksOf l, routes := routesOf l
    interleave := newInterleave s p
    scalarFw := firmwareSection cs 0, dispFw := firmwareSection cs 1, buildId := p.buildId }

/-- The module part of an image in force that no whole image has set: queue 0 as R96 has it (log entry 40). -/
def bareForce : ImageForce where
  moduleId := 0
  domainSize := 1
  clearHbm := false
  rate := 0
  parts := []
  queues := [(0, { part := 0xFE, kernel := true, priority := 0, residency := some 0 })]
  slots := []
  leader := 0
  beaconParent := none
  links := []
  routes := []
  interleave := { policy := 0, keySource := 0, key := 0#128, lat150 := 480, lat135 := 440, lat120 := 400 }
  scalarFw := []
  dispFw := []
  buildId := 0#128

/-- One load's sections over the image f. -/
def applyLoad (s : State) (f : Option ImageForce) (p : PendingLoad) : Option ImageForce :=
  if p.whole then some (wholeForce s p)
  else
    let f0 := f.getD bareForce
    let keep := f0.parts.filter (fun np => !p.tag.toNat.testBit np.1)
    some { f0 with parts := (declaredParts s.fuse.grade p.sections f0.scalarFw p.buildId).foldl (fun m np => mins m np.1 np.2) keep }

/-- The pending loads that a commit mask takes (R89). -/
def inMask (m : BitVec 64) (p : PendingLoad) : Bool := p.tag &&& m == p.tag

def commitLoads (s : State) (m : BitVec 64) : List PendingLoad := s.image.pending.filter (inMask m)

def committedForce (s : State) (m : BitVec 64) : Option ImageForce := (commitLoads s m).foldl (applyLoad s) s.image.force

/-! ### What drains (R65, R90) -/

/-- MAX_LANES in force for link l (R434): a register write may have changed the image's. -/
def lanesInForce (s : State) (l : Nat) : Nat := fld (regActive s (0xA00008 + 0x100 * l) 8) 3 0

/-- Some F field of module scope differs from the value in force. -/
def moduleDiffers (s : State) (a b : ImageForce) : Bool :=
  (List.range 32).any (fun l => (mget topo0 b.links l).maxLanes != lanesInForce s l) ||
  a.moduleId != b.moduleId || a.domainSize != b.domainSize || a.clearHbm != b.clearHbm || b.clearHbm ||
  a.parts.length != b.parts.length || a.leader != b.leader || a.beaconParent != b.beaconParent || a.links != b.links ||
  a.routes != b.routes || a.interleave != b.interleave || a.scalarFw != b.scalarFw || a.dispFw != b.dispFw

/-- Some F field of partition n differs from the value in force; ARR_CTRL.BAND holds the band in force (R67). -/
def partDiffers (s : State) (n : Nat) (a b : PartImage) : Bool :=
  a.shape != b.shape || fld (regActive s (0x400000 + 0x100 * n) 0) 5 4 != b.defaultBand || a.tree != b.tree || a.regions != b.regions ||
    a.clients != b.clients || a.firmware != b.firmware

/-- The whole load of a commit, if it has one. -/
def wholeLoad (s : State) (m : BitVec 64) : Option PendingLoad := (commitLoads s m).find? PendingLoad.whole

/-- The rate that a commit sets. -/
def commitRate (s : State) (m : BitVec 64) : Nat := match wholeLoad s m with | some p => p.rate | none => s.rate.rate

/-- Partitions in force that the commit drains. -/
def drainedParts (s : State) (m : BitVec 64) : List Nat :=
  match s.image.force, committedForce s m with
  | some a, some b =>
    let all := a.parts.map Prod.fst
    if commitRate s m ≠ s.rate.rate then all
    else if (wholeLoad s m).isSome && moduleDiffers s a b then all
    else all.filter (fun n =>
      match mfind a.parts n, mfind b.parts n with
      | some x, some y => partDiffers s n x y
      | _, _ => true)
  | _, _ => []

/-! ### Draining (R40, R91) -/

def setCommit (s : State) (c : Option CommitRun) : State := { s with image := { s.image with committing := c } }

def setLaunching (s : State) (ns : List Nat) (b : Bool) : State :=
  ns.foldl (fun s n => setPart s n { partOf s n with launching := b }) s

/-- The commit of a mask begins: its partitions launch nothing further, and their runs that stand at a boundary stop. -/
def startCommit (s : State) (slot : Option Nat) (m : BitVec 64) : State :=
  let drains := drainedParts s m
  let c : CommitRun :=
    { slot := slot, mask := m, drains := drains, rateChange := commitRate s m != s.rate.rate, relockWait := false,
      applied := false, insts := [] }
  setLaunching (setCommit s (some c)) drains false

/-- A paused run of a draining partition ends at the boundary where it stands (R91 step 3). -/
def stopPaused (s : State) (n : Nat) : State :=
  match (anlOf s n).run with
  | some r => if r.state = 2 then endRun s n 5 else s
  | none => s

/-- The partition's hot sessions move to cold once nothing runs there and no DECODE in flight names them (R91 step 4,
R317, R319). -/
def coolSessions (s : State) (n : Nat) : State :=
  if (partOf s n).holder.isSome then s
  else (s.ses.table.filter (fun e => e.2.part == n && e.2.state == 2 && !inFlight s e.1)).foldl (fun s e => startCold s none e.1) s

/-- A drained partition is quiet: no command holds it, no run is left, and no session is hot or moving. An armed TIMED
command holds its partition: it still starts, and the drain waits for it (DESIGN CHOICE, log entry 49). -/
def partQuiet (s : State) (n : Nat) : Bool :=
  (partOf s n).holder.isNone && (anlOf s n).run.isNone && !sessionsBusy s n

/-! ### The staged registers (R89, R110) -/

/-- Every instance with staged fields that the mask covers. -/
def coveredInsts (s : State) (c : CommitRun) : List Inst :=
  let parts := bitList 64 c.mask.toNat
  parts.flatMap (fun n => [.arr n, .qnt n, .ses n]) ++ (parts.flatMap (partCores s)).map .bank ++
    (if c.mask = allOnes then [.fe, .dev, .hst] else [])

/-- The commit takes the snapshot of the instances it covers; a snapshot of their own that still waits is superseded. -/
def takeSnapshots (s : State) (c : CommitRun) : State :=
  let is := coveredInsts s c
  setCommit (is.foldl snapshot s) (some { c with insts := is })

/-- The staged fields of the bits m of the register at off take the value v: at the boundary where a snapshot waits, else
at once. The shadow follows. -/
def imageSets (s : State) (off m v : Nat) (now : Bool) : State :=
  match regDesc s off with
  | none => s
  | some d =>
    let c := cellOf s off d
    let w := BitVec.ofNat 64 v
    if now then makeActive s off d { c with snap := none, shadow := mergeBits m c.shadow w, last := mergeBits m c.last w } (mergeBits m c.active w)
    else if c.snap.isNone ∧ mergeBits m c.active w = c.active then setCell s off d { c with shadow := mergeBits m c.shadow w }
    else
      let x := instOf s d.inst
      setInst (setCell s off d { c with snap := some (mergeBits m (c.snap.getD c.active) w), shadow := mergeBits m c.shadow w })
        { x with commitPending := true }

/-- The shadows of a covered instance follow the values in force or about to be (R110). -/
def shadowFollows (s : State) (i : Inst) : State :=
  (instCells s i).foldl (fun s t =>
    let v := t.2.2.snap.getD t.2.2.active
    setCell s t.1 t.2.1 { t.2.2 with shadow := mergeBits t.2.1.staged t.2.2.shadow v }) s

/-- A held write reaches the shadow, or commits (R110). -/
def releaseWrite (s : State) (i : Inst) (w : Nat × BitVec 64) : State :=
  if commitOffset i = some w.1 then
    if bitOf w.2.toNat 1 then discard s i else if bitOf w.2.toNat 0 then snapshot s i else s
  else
    match regDesc s w.1 with
    | none => s
    | some d =>
      let c := cellOf s w.1 d
      let v := BitVec.ofNat 64 (legalWrite d.inst w.1 (mergeBits d.live c.active c.last).toNat c.shadow.toNat w.2.toNat)
      setCell s w.1 d { c with shadow := mergeBits d.staged c.shadow v }

def releaseHeldWrites (s : State) (i : Inst) : State :=
  let ws := (instOf s i).held
  if ws.isEmpty then s
  else ws.foldl (fun s w => releaseWrite s i w) (setInst s { instOf s i with held := [] })

/-! ### Applying the sections -/

/-- Owners of R64 and R69 for core c, as BANK_OWNER has them. -/
def ownersOf (p : List Byte) (c : Nat) : Nat :=
  let nib := fun (a b c d : Nat) => a + 16 * b + 256 * c + 4096 * d
  if p.isEmpty then nib 0 1 2 3
  else
    match (List.range (payFld p 4 5)).find? (fun i => payFld p (8 + 8 * i) (9 + 8 * i) == c) with
    | some i => nib (payByte p (10 + 8 * i)) (payByte p (11 + 8 * i)) (payByte p (12 + 8 * i)) (payByte p (13 + 8 * i))
    | none => nib (payByte p 0) (payByte p 1) (payByte p 2) (payByte p 3)

/-- The image's bank owners and array defaults of partition n go to the registers (R67, R69, R145, R373); `now` says that
the partition is drained. -/
def applyPart (s : State) (n : Nat) (now : Bool) : State :=
  match partImg s n with
  | none => s
  | some img =>
    let s1 := (shapeCores s.fuse.grade img.shape).foldl (fun s c => imageSets s (bankReg c) 0xF7777 (ownersOf img.owners c) now) s
    let s2 := imageSets s1 (0x400000 + 0x100 * n) (mask 1 0) img.defaultMode now
    if now then imageSets s2 (0x400000 + 0x100 * n) (mask 5 4) (put img.defaultBand 5 4) true else s2

/-- The shape of partition n in an image. -/
def shapeIn (f : Option ImageForce) (n : Nat) : Option Shape :=
  match f with
  | none => none
  | some f => (mfind f.parts n).map PartImage.shape

/-- What creating, dissolving or reshaping partition n resets (R134, R233, R451, R493). -/
def reshaped (old : Option ImageForce) (s : State) (n : Nat) : State :=
  let g := s.fuse.grade
  let before := match shapeIn old n with | some p => shapeCores g p | none => []
  let after := partCores s n
  let s1 := endHalt (unloadProblem (clearLongs s (before ++ after)) n) n
  let a := (partOf s1 n).arr
  let s2 := setPart s1 n { partOf s1 n with arr := { a with isOpen := false, weightsValid := false, passed := none, cleared := [] } }
  let s3 := ((before.filter (fun c => !after.contains c)).flatMap coreClients).foldl clearClient s2
  (after.flatMap coreClients).foldl freshClient s3

/-- Clients of partition n, whose shape stays, whose mode changes (R451). -/
def remoded (old : Option ImageForce) (s : State) (n : Nat) : State :=
  match old.bind (fun f => mfind f.parts n), partImg s n with
  | some a, some b =>
    if a.clients = b.clients then s
    else
      (((shapeCores s.fuse.grade b.shape).flatMap coreClients).filter (fun i => modeIn a.clients i != modeIn b.clients i)).foldl freshClient s
  | _, _ => s

def numbersOf (a b : Option ImageForce) : List Nat :=
  let ns := fun (f : Option ImageForce) => match f with | some f => f.parts.map Prod.fst | none => []
  (ns a ++ ns b).eraseDups

/-- A link whose LINK_TOPOLOGY entry changes (R93, R422): one that is used trains, one that is not goes out of service.
At a boot without an image in force the link is already trained electrically, or was left down (R542). -/
def retopo (boot : Bool) (old : Option ImageForce) (s : State) (l : Nat) : State :=
  let before := match old with | some f => mget topo0 f.links l | none => topo0
  let before := { before with maxLanes := lanesInForce s l }
  let now := linkTopo s l
  let x := linkOf s l
  let s0 := if before.maxLanes = now.maxLanes ∧ old.isSome then s else setActive s (0xA00008 + 0x100 * l) now.maxLanes
  if before = now ∧ old.isSome then (if x.state = 4 then judgeHello s0 l else s0)
  else if now.peer = 0xFF then
    let s1 := requeue (failTrainers (setLink s0 l { x with state := 0, everUp := false, trained := false, laneMask := 0 }) l) l
    if x.state ≠ 0 then linkEvent s1 l evDown else s1
  else if boot then
    if x.trained then sendHello (linkEvent (setLink s0 l { freshLink x x.laneMask with state := 2 }) l evRetrain) l else s0
  else requeue (startTraining s0 l) l

/-- The alignment state of a module whose place in its domain changes (R50, R51). -/
def takePlace (s : State) : State :=
  match s.image.force with
  | none => s
  | some f =>
    let t := { s.time with parent := f.beaconParent, parentFresh := false, reRooted := false, goodBeacons := 0, leader := f.leader,
                           periodBest := none, hops := 0, steer := 0, steerAcc := 0 }
    { s with time := { t with align := if f.domainSize = 1 then alFree else if f.leader = f.moduleId then alLeader else alAcquiring } }

/-- The image's beacon tree returns at a commit of LINK_TOPOLOGY (R53). -/
def imageTree (s : State) (f : ImageForce) : State :=
  { s with time := { s.time with reRooted := false, parent := f.beaconParent
                                 parentFresh := s.time.parentFresh && s.time.parent == f.beaconParent } }

def placeDiffers (a : Option ImageForce) (b : ImageForce) : Bool :=
  match a with
  | none => true
  | some a => a.moduleId != b.moduleId || a.domainSize != b.domainSize || a.leader != b.leader || a.beaconParent != b.beaconParent

/-- What a whole image does to the module (R66, R72, R78). -/
def applyModule (boot : Bool) (old : Option ImageForce) (s : State) : State :=
  match s.image.force with
  | none => s
  | some f =>
    let s1 := if f.clearHbm then
        { s with mem := s.mem.filter (fun c => 0x00FC00000000 ≤ c.1)
                 integ := { s.integ with ecc := s.integ.ecc.filter (fun e => 0x00FC00000000 ≤ e.1) } }
      else s
    let s2 := { s1 with image := { s1.image with established := true } }
    let s3 := (List.range 32).foldl (retopo boot old) s2
    if placeDiffers old f then takePlace s3 else imageTree s3 f

/-- The registers and sections of the commit c take effect, and launching resumes (R91 to R93, R110, R134, R319). Partitions
that it does not drain take their staged values at their next step boundaries (R90). Two pending loads of disjoint masks
may overlap in shape, since each was checked against the shapes in force (R87) and no rule checks them at the commit: both
apply, and a core of two partitions counts for the first (DESIGN CHOICE, log entry 49). -/
def applyCommit (s : State) (c0 : CommitRun) : State :=
  let s0 := if c0.relockWait then s else takeSnapshots s c0
  let c := { (s0.image.committing.getD c0) with relockWait := false, applied := true }
  let loads := commitLoads s c.mask
  let old := s.image.force
  let s1 := setCommit s0 (some c)
  let idle := fun (i : Inst) => match i with
    | .arr n | .qnt n | .ses n => c.drains.contains n
    | .bank k => (match partOfCore s k with | some n => c.drains.contains n | none => false)
    | _ => false
  let s2 := (c.insts.filter idle).foldl applyBoundary s1
  let f := committedForce s c.mask
  let s3 := { s2 with image := { s2.image with force := f, pending := s2.image.pending.filter (fun p => !inMask c.mask p) } }
  let changed := (numbersOf old f).filter (fun n => shapeIn old n != shapeIn f n)
  let s4 := changed.foldl (reshaped old) s3
  let s5 := ((numbersOf old f).filter (fun n => !changed.contains n)).foldl (remoded old) s4
  let s6 := loads.foldl (fun s p =>
    (p.sections.filter (fun x => x.kind == 2)).foldl (fun s x => applyPart s x.part (c.drains.contains x.part || changed.contains x.part || c.slot.isNone)) s) s5
  let s7 := if loads.any PendingLoad.whole then applyModule (c.slot.isNone && old.isNone) old s6 else s6
  c.drains.foldl (fun s n =>
    let p := partOf s n
    setPart s n { p with launching := true, arr := { p.arr with weightsValid := false } }) s7

/-- Every covered instance has taken its staged values: the commit may complete. The boot's own finds nothing running. -/
def commitSettled (s : State) (c : CommitRun) : Bool :=
  c.slot.isNone || c.insts.all (fun i => (instCells s i).all (fun t => t.2.2.snap.isNone))

/-- The commit completes: the shadows follow the active values, the ports release what they held in arrival order, and
COMMIT_PENDING clears (R110). -/
def finishCommit (s : State) (c : CommitRun) : State :=
  let s1 := setCommit s none
  let s2 := c.insts.foldl (fun s i => releaseHeldWrites (commitEnds (shadowFollows s i) i) i) s1
  let s3 := { s2 with image := { s2.image with lastStatus := stOk, commits := satTo 16 (s2.image.commits + 1) } }
  match c.slot with
  | some k => completeAs (imageEvent s3 3 0 c.mask.toNat 0 stOk) k stOk 0
  | none => s3

/-- A commit whose sections are in force completes once its covered instances have passed their boundaries. -/
def commitTail (s : State) : State :=
  match s.image.committing with
  | some c => if c.applied && commitSettled s c then finishCommit s c else s
  | none => s

/-- The commit c goes on as far as it can: a row given before its drains are quiet, before every die is locked again, or
before the staged values of running partitions are in force, leaves the rest for the next time. -/
def advanceCommit (s : State) (c : CommitRun) : State :=
  if c.applied then commitTail s
  else
    let s1 := c.drains.foldl (fun s n => coolSessions (stopPaused s n) n) s
    if !c.drains.all (partQuiet s1) then s1
    else if c.rateChange && !c.relockWait then
      retarget (takeSnapshots s1 { c with relockWait := true }) (commitRate s1 c.mask)
    else if c.relockWait && s1.rate.relocking then s1
    else commitTail (applyDue (applyCommit s1 c))

/-- IMAGE_COMMIT: its mask is checked against the pending loads, and its scopes begin to drain. -/
def doImageCommit (k : Nat) (s : State) : State :=
  match runningCmd s k 0x71 with
  | none => s
  | some c =>
    if !structuralTurn s k then s
    else
      let m := BitVec.ofNat 64 (cmdFld c.bits 24 31)
      if s.image.pending.any (fun p => p.tag &&& m != 0#64 && !inMask m p) then
        completeAs { s with image := { s.image with lastStatus := stFormat } } k stFormat 0
      else startCommit s (some k) m

/-- The drained scopes are quiet: the commit is applied. -/
def doImageCommitApply (s : State) : State :=
  match s.image.committing with
  | none => s
  | some c => if c.slot.isSome then advanceCommit s c else s

end Sys2Proof.Machine
end

