-- ==== Sys2Proof/Machine/HostRows.lean ====
section
/-!
DEFINITION. Sys2Proof/Machine/HostRows.lean: the host's side: completions of device reads (R517), BAR4 (R516, R522 to R524),
configuration requests and link training of the ports (R534, R544).
-/
namespace Sys2Proof.Machine

/-! ### Device reads through host windows (R517) -/

/-- The bytes of read r are all there: they go where the read was made for, and a recording keeps what a command read
(R488). -/
def deliver (s : State) (r : DevRead) (bs : List PByte) : State :=
  let record := fun (s : State) (k : Nat) => if r.port < 2 then recordHostRead 5 s (slotPart s k) r.addr (dataOf bs) else s
  match r.why with
  | .ring q n => ringLands s q n bs
  | .param k => if (slotOf s k).paramDue then keepParam (record s k) k bs else s
  | .copy k off => copyLands (record s k) k off bs
  | .msix c => sendMsix s c
  | .image off => imageLands s off bs

def dropRead (s : State) (tag : Nat) : State :=
  { s with host := { s.host with reads := s.host.reads.filter (fun r => r.tag != tag) } }

/-- A bad completion, or none in time, is counted (R517, R534). -/
def countCpl (s : State) (port : Nat) : State :=
  let x := portOf s port
  countErr (setPort s port { x with cplErrors := satTo 16 (x.cplErrors + 1) }) errHost catUncorrectable

/-- Bytes for read r arrive; the read ends when it has them all. -/
def readTakes (s : State) (r : DevRead) (bs : List PByte) : State :=
  let got := r.got ++ bs.take (r.bytes - r.got.length)
  if r.bytes ≤ got.length then deliver (dropRead s r.tag) r got
  else { s with host := { s.host with reads := s.host.reads.map (fun x => if x.tag = r.tag then { r with got := got } else x) } }

/-- The bytes of a COPY's read would land in a bank that a pending hand-over holds: they wait (R372). -/
def landsHeld (s : State) (r : DevRead) : Bool :=
  match r.why with
  | .copy k off => dmaHeld s ((copyOf s k).dst + off) r.bytes
  | _ => false

/-- The bytes that read r lacks are delivered as poison. -/
def readFails (s : State) (r : DevRead) : State :=
  deliver (dropRead (countCpl s r.port) r.tag) r (r.got ++ List.replicate (r.bytes - r.got.length) (0#8, true))

def windowReadOf (s : State) (tag : Nat) : Option DevRead := s.host.reads.find? (fun r => r.tag == tag && r.port < 2)

/-- A completion for the read `tag`: status 0 successful, 1 Unsupported Request, 2 Completer Abort. A held bank delays it,
and the row is given again. -/
def doHostCompletionReceive (tag status : Nat) (ep : Bool) (data : List Byte) (waits : List (Nat × Nat)) (s0 : State) : State :=
  let s := noteDmaWaits s0 waits
  match windowReadOf s tag with
  | none => s
  | some r =>
    if landsHeld s r then s
    else if status ≠ 0 then readFails s r
    else readTakes (if ep then countCpl s r.port else s) r (data.map (fun b => (b, ep)))

/-- No completion within the completion timeout. -/
def doCompletionTimeout (tag : Nat) (s : State) : State :=
  match windowReadOf s tag with
  | none => s
  | some r => readFails s r

/-! ### Configuration requests and the ports' links (R534, R544) -/

/-- A configuration request on a port: Request Retry Status until the CHECKER step ends, then a completion, unless PERST#
holds the function in reset. `msix` is a write of MSI-X Message Control, with its enable and function mask (R531). -/
def doConfigurationRequest (port : Nat) (msix : Option (Bool × Bool)) (s : State) : State :=
  if 2 ≤ port ∨ s.power.state = 0 ∨ s.power.perst = true then s
  else if s.power.state ≠ 2 ∧ s.power.bootStep ≤ 3 then emit s (.configRetry port)
  else
    let bit := BitVec.ofNat 2 (2 ^ port)
    let set := fun (v : BitVec 2) (b : Bool) => if b then v ||| bit else v &&& ~~~bit
    let s1 := match msix with
      | none => s
      | some (en, mask) =>
        { s with host := { s.host with msixEnable := set s.host.msixEnable en, msixMask := set s.host.msixMask mask } }
    let s2 := (s1.host.msix.filter (fun e => e.1 / 2048 == port && e.2.pending)).foldl (fun s e => sendVector s port (e.1 % 2048)) s1
    emit s2 (.configDone port)

/-- A port's link has trained: speed code and lanes (R534). -/
def doHostLinkUp (port speed width : Nat) (flit : Bool) (s : State) : State :=
  if 2 ≤ port ∨ s.power.state = 0 ∨ s.power.perst = true ∨ speed = 0 ∨ 6 < speed ∨
      ¬ [1, 2, 4, 8, 16].contains width then s
  else setPort s port { portOf s port with speed := speed, width := width, flit := flit, up := true }

/-! ### BAR4 (R522, R523) -/

/-- The host resizes BAR4: size code n stands for 64 GiB · 2^n (R514). Every segment returns to its reset mapping. -/
def doBar4Resize (n : Nat) (s : State) : State :=
  if 4 < n then s
  else
    let s1 := { s with cfg := s.cfg.filter (fun oc => !(segReg 0 ≤ oc.1 && oc.1 < segReg 16)) }
    { s1 with host := { s1.host with barSize := n } }

def segWord (s : State) (k : Nat) : Nat := regActive s (segReg k) (segReset s k)

/-- The device ranges of the n bytes from BAR4 offset off: start and length, none for a segment that is a hole; `fuel`
bounds the segments. -/
def barRanges : Nat → State → Nat → Nat → List (Option Nat × Nat)
  | 0, _, _, _ => []
  | fuel + 1, s, off, n =>
    if n = 0 then []
    else
      let z := segBytes s
      let k := min n (z - off % z)
      let v := segWord s (off / z)
      let here := if bitOf v 63 ∧ off / z < 16 then some (fld v 47 0 + off % z) else none
      (here, k) :: barRanges fuel s (off + k) (n - k)

/-- The pieces of a BAR4 access that may be treated one by one. -/
def barPieces (s : State) (off n : Nat) : List (Option Nat × Nat) :=
  (barRanges 18 s off n).flatMap (fun r =>
    match r.1 with
    | none => [(none, r.2)]
    | some a => (pieces s a r.2).map (fun p => (some p.1, p.2)))

/-- An access touched a hole, the reserved HBM or a core beyond the grade: it counts once (R523). -/
def countHole (s : State) (port : Nat) (hole : Bool) : State :=
  if hole then
    let x := portOf s port
    countErr (setPort s port { x with holes := satTo 16 (x.holes + 1) }) errHost catProtocol
  else s

/-- The bytes of a BAR4 read so far, and whether it met a hole. -/
structure BarAcc where
  bytes : List PByte
  hole : Bool
  s : State
  deriving DecidableEq, Repr

def zeroBytesP (n : Nat) : List PByte := List.replicate n (0#8, false)

def barReadPiece (x : BarAcc) (p : Option Nat × Nat) : BarAcc :=
  match p.1 with
  | none => { x with bytes := x.bytes ++ zeroBytesP p.2, hole := true }
  | some a =>
    match region x.s.fuse.grade a with
    | .hbm | .sram _ _ | .scratch _ _ | .bitSet _ _ | .bitClear _ _ =>
      let r := localRead x.s ownDma a p.2
      { x with bytes := x.bytes ++ r.bytes, s := r.state }
    | .syncWin _ _ => { x with bytes := x.bytes ++ zeroBytesP p.2 }
    | _ => { x with bytes := x.bytes ++ zeroBytesP p.2, hole := true }

def barWritePiece (x : BarAcc) (p : Option Nat × Nat) : BarAcc :=
  let bs := x.bytes.take p.2
  let y := { x with bytes := x.bytes.drop p.2 }
  match p.1 with
  | none => { y with hole := true }
  | some a =>
    match region x.s.fuse.grade a with
    | .hbm | .sram _ _ | .scratch _ _ | .bitSet _ _ | .bitClear _ _ | .syncWin _ _ =>
      { y with s := (localWrite x.s ownDma a bs).2 }
    | _ => { y with hole := true }

/-- A bank that a pending hand-over holds delays the access (R372). -/
def barHeld (s : State) (off n : Nat) : Bool :=
  (barPieces s off n).any (fun p => match p.1 with | some a => dmaHeld s a p.2 | none => false)

/-- A host read of BAR4 (R523), after the upsets that struck the memory and with the shared waits that it met. Before READY
it reads zero (R544). -/
def doBar4Read (port off len : Nat) (us : List Upset) (waits : List (Nat × Nat)) (s : State) : State :=
  if 2 ≤ port ∨ s.power.state = 0 then s
  else if s.power.state ≠ 2 then emit s (.readData (zeroBytesP len))
  else
    let s0 := upsets s us
    if barHeld s0 off len then s0
    else
      let x := (barPieces s0 off len).foldl barReadPiece { bytes := [], hole := false, s := noteDmaWaits s0 waits }
      let s1 := if anyPoison x.bytes then noteConsumed x.s 1 else x.s
      emit (countHole s1 port x.hole) (.readData x.bytes)

/-- A host write of BAR4 (R523). -/
def doBar4Write (port off : Nat) (data : List PByte) (us : List Upset) (waits : List (Nat × Nat)) (s : State) : State :=
  if 2 ≤ port ∨ s.power.state ≠ 2 then s
  else
    let s0 := upsets s us
    if barHeld s0 off data.length then s0
    else
      let x := (barPieces s0 off data.length).foldl barWritePiece { bytes := data, hole := false, s := noteDmaWaits s0 waits }
      countHole x.s port x.hole

/-! ### AtomicOps (R374, R376, R516) -/

/-- An AtomicOp that no bank performs completes with Unsupported Request. -/
def unsupportedRequest (s : State) (port : Nat) : State :=
  let x := portOf s port
  emit (countErr (setPort s port { x with urSent := satTo 16 (x.urSent + 1) }) errHost catProtocol) (.unsupported port)

/-- The bank performs FetchAdd (op 0) or Swap (op 1) of n bytes at a, and returns the old value. -/
def bankAtomic (s : State) (a n op : Nat) (value : BitVec 64) : State :=
  match refusedAt s ownDma true a with
  | some w => emit (countRefused s w) (.readData (zeroBytesP n))
  | none =>
    let s1 := touch s (plainAddr s a) n
    let old := peekRange s1 ownDma a n
    if anyPoison old then emit (noteConsumed s1 1) (.readData (old.map (fun b => (b.1, true))))
    else
      let v := if op = 0 then ofLe (dataOf old) + value.toNat else value.toNat
      emit (localWrite s1 ownDma a (clean (leBytes n v))).2 (.readData old)

/-- A host AtomicOp through BAR4: op 0 FetchAdd, 1 Swap, others CompareAndSwap; `size` in bytes. A misaligned one is
refused by the bank and counted there too (R367, R374). -/
def doHostAtomicop (port off op size : Nat) (value : BitVec 64) (waits : List (Nat × Nat)) (s0 : State) : State :=
  let s := noteDmaWaits s0 waits
  if 2 ≤ port ∨ s.power.state = 0 then s
  else if s.power.state ≠ 2 then emit s (.readData (zeroBytesP size))
  else
    match barRanges 2 s off size with
    | [(some a, _)] =>
      match region s.fuse.grade a with
      | .scratch c _ =>
        if (size = 4 ∨ size = 8) ∧ op < 2 then
          if off % size ≠ 0 then unsupportedRequest (countRefused s (.bank c)) port
          else if dmaHeld s a size then s
          else bankAtomic s a size op value
        else unsupportedRequest s port
      | _ => unsupportedRequest s port
    | _ => unsupportedRequest s port

end Sys2Proof.Machine
end

