-- ==== Sys2Proof/Machine/LinkCtl.lean ====
section
/-!
DEFINITION. Sys2Proof/Machine/LinkCtl.lean: LINK_CONFIG (R107, R430), responses to reads (R417), packets that no route took
in time (R423), and the notices of multi-module runs (R302, R428).
-/
namespace Sys2Proof.Machine

/-! ### Responses (R417) -/

def peerReadOf (s : State) (tag : Nat) : Option DevRead := s.host.reads.find? (fun r => r.tag == tag && r.port == peerPort)

/-- The first READ_RESP packet of the pair from module m delivers its data. -/
def doReadResp (m : Nat) (waits : List (Nat × Nat)) (s0 : State) : State :=
  let s := noteDmaWaits s0 waits
  match takePending s m 4 with
  | none => s
  | some (p, s1) =>
    match peerReadOf s1 p.tag with
    | none => s1
    | some r => if landsHeld s r then s else readTakes s1 r p.data

/-! ### Packets without a route (R423) -/

/-- The slot whose command made a read. -/
def readSlot (w : ReadFor) : Option Nat :=
  match w with
  | .param k | .copy k _ => some k
  | _ => none

/-- The bytes of a read whose request was dropped are delivered as zero with poison. -/
def dropPeerRead (s : State) (tag : Nat) : State :=
  match peerReadOf s tag with
  | none => s
  | some r =>
    let s1 := match readSlot r.why with | some k => flagSlot s k stLinkDown | none => s
    deliver (dropRead s1 tag) r (List.replicate r.bytes (0#8, true))

/-- Partitions that March with module m. -/
def marchWith (s : State) (m : Nat) : List Nat :=
  if (marchOf s).peerModule = m then (marchOf s).parts.map Prod.fst else []

/-- A held packet to module m is dropped: the route is lost. -/
def loseRoute (s : State) (m : Nat) (p : Packet) : State :=
  let l := (bitList 32 (routeMask s m)).headD 0
  let x := linkOf s l
  let s1 := setLink s l { x with routeDrops := satTo 32 (x.routeDrops + 1) }
  let s2 := { s1 with net := { s1.net with routeLost := s1.net.routeLost ||| BitVec.ofNat 64 (2 ^ m) } }
  let s3 := countErr (sendMsg s2 0x06 evRouteLost m (msgAt 20 4 1)) errLink catUncorrectable
  let s4 := match p.slot with
    | some k => flagSlot s3 k stLinkDown
    | none => s3
  let s5 := if p.typ = 3 ∧ p.src = moduleId s then dropPeerRead s4 p.tag else s4
  (marchWith s5 m).foldl marchLost s5

/-- LNK_HOLD.HOLD_US (R434). -/
def holdUs (s : State) : Nat := fld (regActive s 0xA04010 0x7D0) 15 0

/-- The oldest packet held for module m has waited HOLD_US without an up link. -/
def doRouteHoldExpire (m : Nat) (s : State) : State :=
  match s.net.held.find? (fun h => h.pkt.dst == m) with
  | none => s
  | some h =>
    if !(upRoute s m).isEmpty || sinceCount s h.since < 1000 * holdUs s then s
    else loseRoute (freeHeld { s with net := { s.net with held := s.net.held.erase h } } h) m h.pkt

/-! ### LINK_CONFIG (R430) -/

def linksNamed (c : Fetched) : List Nat := bitList 32 (cmdFld c.bits 20 23)
def unused (s : State) (l : Nat) : Bool := (linkTopo s l).peer == 0xFF
def disabled (s : State) (l : Nat) : Bool := (linkOf s l).state == 0

/-- A link goes out of service. -/
def disableLink (s : State) (l : Nat) : State :=
  let x := linkOf s l
  let s1 := requeue (failTrainers (setLink s l { x with state := 0, everUp := false, trained := false, laneMask := 0 }) l) l
  if x.state ≠ 0 then linkEvent s1 l evDown else s1

def doDisable (k : Nat) (s : State) : State :=
  match actionCmd s k 0x72 1 with
  | none => s
  | some c => endCmd ((linksNamed c).foldl disableLink s) k stOk

/-- The command of slot k waits for link l. -/
def addTrainer (k : Nat) (s : State) (l : Nat) : State :=
  let x := linkOf s l
  setLink s l { x with trainers := x.trainers ++ [k] }

def waitsForLinks (s : State) (k : Nat) : Bool := (List.range 32).any (fun l => (linkOf s l).trainers.contains k)

/-- Full training of the links that `go` names, and the wait until every named link is up. -/
def trainLinks (s : State) (k : Nat) (c : Fetched) (go : State → Nat → Bool) : State :=
  let ls := linksNamed c
  if waitsForLinks s k then s
  else if ls.any (unused s) then endCmd s k stFormat
  else
    let s1 := (ls.filter (go s)).foldl (fun s l => requeue (startTraining s l) l) s
    let wait := ls.filter (fun l => (linkOf s1 l).state != 3)
    if wait.isEmpty then endCmd s1 k stOk else wait.foldl (addTrainer k) s1

def doEnable (k : Nat) (s : State) : State :=
  match actionCmd s k 0x72 2 with
  | none => s
  | some c => trainLinks s k c (fun s l => (linkOf s l).state ≤ 1)

def doRetrain (k : Nat) (s : State) : State :=
  match actionCmd s k 0x72 3 with
  | none => s
  | some c => trainLinks s k c (fun _ _ => true)

def lanesReg (l : Nat) : Nat := 0xA00008 + 0x100 * l

def doSetMaxLanes (k : Nat) (s : State) : State :=
  match actionCmd s k 0x72 4 with
  | none => s
  | some c =>
    match blockRead s k (cmdFld c.bits 24 31) 64 with
    | .wait s1 => s1
    | .poison s1 => endCmd s1 k stPoison
    | .bytes b s1 =>
      let v := blkFld b 0 0
      let ls := linksNamed c
      if ¬ (v = 8 ∨ v = 6 ∨ v = 4) then endCmd s1 k stFormat
      else
        match ls.find? (fun l => !disabled s1 l) with
        | some l => endCmd (frozenWrite s1 .lnk (lanesReg l)) k stFrozen
        | none => endCmd (ls.foldl (fun s l => setActive s (lanesReg l) v) s1) k stOk

def setPrbs (s : State) (p : Option PrbsRun) : State := { s with net := { s.net with prbs := p } }

def doPrbsTest (k : Nat) (s : State) : State :=
  match actionCmd s k 0x72 5 with
  | none => s
  | some c =>
    if s.net.prbs.isSome then s
    else
      match blockRead s k (cmdFld c.bits 24 31) 64 with
      | .wait s1 => s1
      | .poison s1 => endCmd s1 k stPoison
      | .bytes b s1 =>
        let us := blkFld b 0 3
        let ls := linksNamed c
        if us = 0 ∨ 1000000 < us ∨ ls.any (fun l => unused s1 l || !disabled s1 l) = true then endCmd s1 k stFormat
        else setPrbs s1 (some { slot := k, links := ls, dest := cmdFld c.bits 24 31 + 64 })

/-- The test's duration is over: the errors of each lane, link by link, go to memory. -/
def doPrbsTestDone (errs : List Nat) (s : State) : State :=
  match s.net.prbs with
  | none => s
  | some p =>
    let s1 := setPrbs s none
    match actionCmd s p.slot 0x72 5 with
    | none => s1
    | some _ =>
      let bs := (List.range (8 * p.links.length)).flatMap (fun i => leBytes 8 (nth 0 errs i))
      let w := devWrite s1 (some p.slot) .data p.dest (clean bs)
      endCmd (if w.1 then flagSlot w.2 p.slot stPartial else w.2) p.slot stOk

/-! ### Notices (R302, R428) -/

def doEndNotice (l : Nat) (s : State) : State :=
  match mgmtHead s l 0x25 with
  | none => s
  | some (f, s1) => takeEndNotice s1 (BitVec.ofNat 64 (flitByte f 4 11))

def doPauseNotice (l : Nat) (s : State) : State :=
  match mgmtHead s l 0x26 with
  | none => s
  | some (f, s1) => takePauseNotice s1 (flitByte f 2 2) (BitVec.ofNat 64 (flitByte f 4 11))

end Sys2Proof.Machine
end

