-- ==== Sys2Proof/Machine/StepEnd.lean ====
section
/-!
DEFINITION. Sys2Proof/Machine/StepEnd.lean: what every command's step has in common: what ends it, and that a module in OFF
takes part in nothing but its supplies, pins and management side (R537).
-/
namespace Sys2Proof.Machine

/-- What ends a step: in OFF nothing is left to do; else resets, step boundaries, messages, records and queues go on. -/
def stepEnd (t : State) : State := if t.power.state = 0 then t else keepSupply t (settleStep t)

/-- A command of supplies, boot, resets and pins. -/
def supplyStep (f : State → State) (s : State) : State := stepEnd (f s)

/-- A command of the reference clock or of a sensor: taken in OFF too, it changes nothing that belongs to the supplies. -/
def pinStep (f : State → State) (s : State) : State := stepEnd (keepSupply s (f s))

/-- A command that a module in OFF does not take. -/
def poweredStep (f : State → State) (s : State) : State := if s.power.state = 0 then s else stepEnd (f s)

/-- A command that may step the Solstice count, and changes nothing else that belongs to the supplies (R51). -/
def steppingStep (f : State → State) (s : State) : State :=
  poweredStep (fun s => let t := f s; let u := keepSupply s t; { u with time := { u.time with count := t.time.count } }) s

/-- Any other command: OFF does not take it, and it changes nothing that belongs to the supplies. -/
def plainStep (f : State → State) (s : State) : State := if s.power.state = 0 then s else stepEnd (keepSupply s (f s))

end Sys2Proof.Machine
end

