-- ==== Sys2Proof/Machine/ExecAnneal.lean ====
section
/-!
DEFINITION. Sys2Proof/Machine/ExecAnneal.lean: what each command of annealing (chapters 09 to 11) does.
-/
namespace Sys2Proof.Machine

/-- ANL_LOAD (R231). -/
def execAnlLoad (slot : Nat) (s : State) : Host.Outcome State Fault Refusal :=
  .next (plainStep (doAnlLoad slot) s)

/-- ANL_LOAD_DONE (R232). -/
def execAnlLoadDone (n : Nat) (stalls : Stalls) (s : State) : Host.Outcome State Fault Refusal :=
  .next (plainStep (doAnlLoadDone n stalls) s)

/-- ANL_RUN (R278). -/
def execAnlRun (slot : Nat) (s : State) : Host.Outcome State Fault Refusal :=
  .next (plainStep (doAnlRun slot) s)

/-- ANL_STEP (R236). -/
def execAnlStep (n : Nat) (stalls : Stalls) (s : State) : Host.Outcome State Fault Refusal :=
  .next (plainStep (doAnlStep n stalls) s)

/-- ANL_PAUSE (R279). -/
def execAnlPause (slot : Nat) (s : State) : Host.Outcome State Fault Refusal :=
  .next (plainStep (doAnlPause slot) s)

/-- ANL_RESUME (R279). -/
def execAnlResume (slot : Nat) (s : State) : Host.Outcome State Fault Refusal :=
  .next (plainStep (doAnlResume slot) s)

/-- ANL_FROST (R279). -/
def execAnlFrost (slot : Nat) (s : State) : Host.Outcome State Fault Refusal :=
  .next (plainStep (doAnlFrost slot) s)

/-- ANL_READ (R280). -/
def execAnlRead (slot : Nat) (s : State) : Host.Outcome State Fault Refusal :=
  .next (plainStep (doAnlRead slot) s)

/-- ANL_SYNC_POINT (R297). -/
def execAnlSyncPoint (n : Nat) (shares : List Share) (stalls : Stalls) (s : State) : Host.Outcome State Fault Refusal :=
  .next (plainStep (doAnlSyncPoint n shares stalls) s)

/-- ANL_EXCH_TIMEOUT (R302). -/
def execAnlExchTimeout (n peer : Nat) (s : State) : Host.Outcome State Fault Refusal :=
  .next (plainStep (doAnlExchTimeout n peer) s)

/-- END_NOTICE (R302). -/
def execEndNotice (link : Nat) (s : State) : Host.Outcome State Fault Refusal :=
  .next (plainStep (doEndNotice link) s)

/-- PAUSE_NOTICE (R302). -/
def execPauseNotice (link : Nat) (s : State) : Host.Outcome State Fault Refusal :=
  .next (plainStep (doPauseNotice link) s)

end Sys2Proof.Machine
end

