-- ==== Sys2Proof/Machine/ExecDebug.lean ====
section
/-!
DEFINITION. Sys2Proof/Machine/ExecDebug.lean: what each command of March mode, replay and debug (chapter 19) does.
-/
namespace Sys2Proof.Machine

/-- ARM (R482). -/
def execArm (slot : Nat) (s : State) : Host.Outcome State Fault Refusal :=
  .next (plainStep (doArm slot) s)

/-- ARM_TIMEOUT (R482). -/
def execArmTimeout (slot : Nat) (s : State) : Host.Outcome State Fault Refusal :=
  .next (plainStep (doArmTimeout slot) s)

/-- DISARM (R486). -/
def execDisarm (slot : Nat) (s : State) : Host.Outcome State Fault Refusal :=
  .next (plainStep (doDisarm slot) s)

/-- MARCH_ARM_EXCHANGE (R482). -/
def execMarchArmExchange (slot : Nat) (key mask : BitVec 64) (parts : List (Nat × BitVec 128 × Nat)) (s : State) : Host.Outcome State Fault Refusal :=
  .next (plainStep (doMarchArmExchange slot key mask parts) s)

/-- MARCH_WINDOW_END (R484). -/
def execMarchWindowEnd (n : Nat) (s : State) : Host.Outcome State Fault Refusal :=
  .next (plainStep (doMarchWindowEnd n) s)

/-- MARCH_RECORD_RECEIVE (R485). -/
def execMarchRecordReceive (n window : Nat) (sigs : List (BitVec 64)) (final : Bool) (s : State) : Host.Outcome State Fault Refusal :=
  .next (plainStep (doMarchRecordReceive n window sigs final) s)

/-- MARCH_RECORD_TIMEOUT (R484). -/
def execMarchRecordTimeout (n : Nat) (s : State) : Host.Outcome State Fault Refusal :=
  .next (plainStep (doMarchRecordTimeout n) s)

/-- RECORD (R487). -/
def execRecord (slot : Nat) (s : State) : Host.Outcome State Fault Refusal :=
  .next (plainStep (doRecord slot) s)

/-- REPLAY_STOP (R487). -/
def execReplayStop (slot : Nat) (s : State) : Host.Outcome State Fault Refusal :=
  .next (plainStep (doReplayStop slot) s)

/-- EXPORT (R487). -/
def execExport (slot : Nat) (s : State) : Host.Outcome State Fault Refusal :=
  .next (plainStep (doExport slot) s)

/-- IMPORT (R487). -/
def execImport (slot : Nat) (s : State) : Host.Outcome State Fault Refusal :=
  .next (plainStep (doImport slot) s)

/-- PLAY (R487). -/
def execPlay (slot : Nat) (s : State) : Host.Outcome State Fault Refusal :=
  .next (plainStep (doPlay slot) s)

/-- REPLAY_ENTRY_APPLY (R489). -/
def execReplayEntryApply (n : Nat) (s : State) : Host.Outcome State Fault Refusal :=
  .next (plainStep (doReplayEntryApply n) s)

/-- PEEK (R491). -/
def execPeek (addr : BitVec 64) (s : State) : Host.Outcome State Fault Refusal :=
  .next (plainStep (doPeek addr) s)

/-- PEEK_DONE (R491). -/
def execPeekDone (s : State) : Host.Outcome State Fault Refusal :=
  .next (plainStep doPeekDone s)

/-- RESUME (R493). -/
def execResume (n : Nat) (s : State) : Host.Outcome State Fault Refusal :=
  .next (plainStep (doResume n) s)

/-- STEP (R493). -/
def execStep (n : Nat) (s : State) : Host.Outcome State Fault Refusal :=
  .next (plainStep (doStep n) s)

/-- CLEAR (R494). -/
def execClear (s : State) : Host.Outcome State Fault Refusal :=
  .next (plainStep doClear s)

/-- FREEZE (R494). -/
def execFreeze (freeze : Bool) (s : State) : Host.Outcome State Fault Refusal :=
  .next (plainStep (doFreeze freeze) s)

end Sys2Proof.Machine
end

