-- ==== Sys2Proof/Machine/Retire.lean ====
section
/-!
DEFINITION. Sys2Proof/Machine/Retire.lean: the retirement of a core (R20 to R24, R329, R468, R509, R510).
-/
namespace Sys2Proof.Machine

/-! ### Rows (R20, R23, R24) -/

/-- The physical row of DEV_ROWMAP that holds core c, its logical column there, and the row's cores. -/
def rowNo (s : State) (c : Nat) : Nat := c / cpr s
def rowCores (s : State) (n : Nat) : List Nat := (List.range (cpr s)).map (fun l => n * cpr s + l)

/-- The row has an unused physical core. -/
def hasSpare (s : State) (n : Nat) : Bool := cpr s < (goodColumns (rowMapOf s n)).length

/-- The partitions in force that hold a core of the row. -/
def rowParts (s : State) (n : Nat) : List Nat :=
  match s.image.force with
  | none => []
  | some f => (f.parts.map Prod.fst).filter (fun p => (rowCores s n).any (fun c => partOfCore s c == some p))

/-! ### Moving the shifted cores (R510 step 2, R464) -/

def scratchBase (c : Nat) : Nat := 0x011000000000 + 0x400000 * c

/-- A core's scratchpad is read out and written at its new place: the marks move, the old cells' faults do not. -/
def moveScratch (s : State) (c : Nat) : State :=
  let s1 := touch s (scratchBase c) 0x400000
  { s1 with integ := { s1.integ with ecc := s1.integ.ecc.filterMap (fun e =>
      if scratchBase c ≤ e.1 ∧ e.1 < scratchBase (c + 1) then
        if e.2.poison then some (e.1, { ecc0 with poison := true }) else none
      else some e) } }

/-- What belongs to a physical core, kept by bank of its logical one: each shifted core takes over its right
neighbour's, the last one an unused core's. -/
def shiftSpares (m : AMap Nat) (first last : Nat) : AMap Nat :=
  (rangeFrom (4 * first) (4 * last + 3)).foldl (fun t k => mput 0 t k (if k / 4 < last then mget 0 m (k + 4) else 0)) m

def shiftCheckers (l : List Nat) (first last : Nat) : List Nat :=
  l.filterMap (fun k =>
    if 4 * first ≤ k ∧ k < 4 * first + 4 then none
    else if 4 * first + 4 ≤ k ∧ k < 4 * last + 4 then some (k - 4)
    else some k)

/-- Logical core c leaves its physical core, and the row's cores from it to the right move one physical core on (R21,
R23). Answers the number of shifted cores. -/
def shiftRow (s : State) (c : Nat) : Nat × State :=
  let n := rowNo s c
  let last := n * cpr s + (cpr s - 1)
  let r := rowMapOf s n
  let col := nth 0 (usedColumns s.fuse.grade r) (c % cpr s)
  let s1 := (rangeFrom c last).foldl moveScratch s
  let s2 := setRowMap s1 n { r with retired := col :: r.retired }
  (last + 1 - c,
   { s2 with integ := { s2.integ with
      bankSparesUsed := shiftSpares s2.integ.bankSparesUsed c last
      badCheckers := shiftCheckers s2.integ.badCheckers c last } })

/-! ### The retirement (R509, R510) -/

/-- CORE_RETIRED (R504). -/
def retiredMsg (s : State) (sub core cause shifted sessions ns : Nat) : State :=
  sendMsg s 0x07 sub ((partOfCore s core).getD 0xFF)
    (msgAt 20 2 core + msgAt 22 1 (rowNo s core) + msgAt 23 1 cause + msgAt 24 1 shifted + msgAt 25 1 sessions
      + msgAt 28 4 (satTo 32 ns))

/-- The row has no spare: nothing is retired (R509). -/
def noSpare (s : State) (core cause : Nat) : State :=
  retiredMsg { s with err := { s.err with noSpare := satTo 16 (s.err.noSpare + 1) } } 2 core cause 0 0 0

/-- Hot sessions of the partitions ps have their epochs raised (R329). -/
def raiseEpochs (s : State) (ps : List Nat) : Nat × State :=
  let ks := s.ses.table.filter (fun e => e.2.state == 2 && ps.contains e.2.part)
  (ks.length, ks.foldl (fun s e => setSess s e.1 { sessOf s e.1 with epoch := (sessOf s e.1).epoch + 1#16 }) s)

/-- The partitions of the row are quiet: nothing runs there, a run stands paused, and no DECODE in flight, of any
partition, names a hot session of theirs, so that its epoch may rise as by a drain-first migration (R329). -/
def retireQuiet (s : State) (n : Nat) : Bool :=
  (rowParts s n).all (fun p => (partOf s p).holder.isNone &&
    (match (anlOf s p).run with | none => true | some r => r.state == 2) &&
    s.ses.table.all (fun e => e.2.part != p || e.2.state != 2 || !inFlight s e.1))

/-- Steps 2 to 6 of R510. -/
def retireEnd (s : State) (x : RetireRun) : State :=
  let ps := rowParts s (rowNo s x.core)
  let ns := if ps.isEmpty then 0 else sinceCount s x.since
  let sh := shiftRow s x.core
  let ep := raiseEpochs sh.2 ps
  let s1 := setLaunching { ep.2 with err := { ep.2.err with retire := none } } ps true
  let s2 := x.paused.foldl resumeRun s1
  let s3 := addOutage s2 ((ps.map (fun p => (partCores s2 p).length)).foldl (· + ·) 0) ns
  let s4 := retiredMsg { s3 with err := { s3.err with retirements := satTo 16 (s3.err.retirements + 1) } } 1 x.core x.cause sh.1 ep.1 ns
  match x.slot with
  | some k => completeAs s4 k stOk 0
  | none => s4

/-- The retirement goes on once the row's partitions are quiet; until then its row is given again. -/
def retireGo (s : State) (x : RetireRun) : State := if retireQuiet s (rowNo s x.core) then retireEnd s x else s

/-- Step 1 of R510: the row's partitions launch nothing further, and their runs pause at the next step boundary. -/
def retireBegin (s : State) (slot : Option Nat) (core cause : Nat) : State :=
  let x : RetireRun := { slot := slot, core := core, cause := cause, since := s.time.count, paused := [] }
  retireGo (setLaunching { s with err := { s.err with retire := some x } } (rowParts s (rowNo s core)) false) x

/-- RETIRE_AUTO is set and the core's HARD count has reached its threshold. -/
def retiresItself (s : State) (core : Nat) : Bool :=
  core < logicalCores s && bitOf (msgCtrl s) 1 && threshold s catHard != 0 && threshold s catHard ≤ (errCtrOf s (errCore core)).hard

/-- A retirement: of the core that slot k's MIGRATE with KIND 0x1 names, or of `core` by the device itself. The row is
given again until the row's partitions are quiet. -/
def doCoreRetire (slot : Option Nat) (core : Nat) (s : State) : State :=
  match s.err.retire with
  | some x => if x.slot = slot ∧ (slot.isSome ∨ x.core = core) then retireGo s x else s
  | none =>
    match slot with
    | none =>
      if !structuralFree s || !retiresItself s core || s.power.state != 2 then s
      else if hasSpare s (rowNo s core) then retireBegin s none core 2 else noSpare s core 2
    | some k =>
      match runningCmd s k 0x77 with
      | none => s
      | some c =>
        let core := cmdFld c.bits 20 21
        if cmdFld c.bits 16 16 ≠ 1 ∨ structuralTurn s k = false then s
        else if logicalCores s ≤ core then completeAs s k stFormat 0
        else if hasSpare s (rowNo s core) then retireBegin s (some k) core 1
        else completeAs (noSpare s core 1) k stFormat 0

/-- A core whose bank checker failed at boot is skipped as at retirement, or keeps its faulty banks (R468). -/
def bootRetire (s : State) (core : Nat) : State :=
  if hasSpare s (rowNo s core) then
    let sh := shiftRow s core
    retiredMsg { sh.2 with err := { sh.2.err with retirements := satTo 16 (sh.2.err.retirements + 1) } } 1 core 3 sh.1 0 0
  else noSpare s core 3

end Sys2Proof.Machine
end

