-- ==== Sys2Proof/Machine/Power.lean ====
section
/-!
DEFINITION. Sys2Proof/Machine/Power.lean: power states, the boot sequence and the device's resets (R47, R49, R96, R442,
R537 to R546, R549 to R558, R561).
-/
namespace Sys2Proof.Machine

/-! ### Entering OFF (R540, R546, R551) -/

/-- A die, a source and an annealer without power keep the counts that their chapters keep until a cold start (R39, R305, R455). -/
def darkDies (m : AMap DieRate) : AMap DieRate :=
  m.foldl (fun t d => mput dieRate0 t d.1 { dieRate0 with events := d.2.events }) []
def darkSources (m : AMap EntSource) : AMap EntSource :=
  m.foldl (fun t x => mput source0 t x.1 { source0 with blocks := x.2.blocks }) []
def darkAnl (m : AMap AnlSt) : AMap AnlSt := m.foldl (fun t x => mput anl0 t x.1 { anl0 with runs := x.2.runs }) []

/-- The row maps and unit maps as the FUSE step of a cold start or a wake reads them again (R24, R26, R542, R546). -/
def fusedMaps (f : FuseSt) : FuseSt :=
  { f with entGood := f.entFused, dispGood := f.dispFused
           rows := f.rows.foldl (fun t r => mput rowMap0 t r.1 { r.2 with retired := [] }) [] }

/-- What is left once the compute side has lost its power: the management side's registers, the fuses and the repair log,
and what only a cold start clears. -/
def darkened (s : State) : State :=
  let z := State.reset
  { z with
    pending := s.pending, fresh := s.fresh, out := s.out, fuse := fusedMaps s.fuse
    power := { s.power with state := 0, bootStep := 0, coldBoot := false, waiting := [] }
    time := { z.time with count := s.time.count, boots := s.time.boots, exhausted := s.time.exhausted, steps := s.time.steps,
                          stepSize := s.time.stepSize, refclk156 := s.time.refclk156 }
    rate := { z.rate with dies := darkDies s.rate.dies }
    image := { z.image with fails := s.image.fails, commits := s.image.commits }
    cfg := s.cfg.filter (fun oc => oc.1 == 0x2208)
    err := { z.err with outageNs := s.err.outageNs, retirements := s.err.retirements, noSpare := s.err.noSpare,
                        takeovers := s.err.takeovers, feRepairs := s.err.feRepairs, sensorOut := s.err.sensorOut,
                        sensorAt := s.err.sensorAt }
    msg := { z.msg with seq := s.msg.seq }
    integ := { z.integ with pprLogged := s.integ.pprLogged }
    ent := { z.ent with sources := darkSources s.ent.sources, rctFails := s.ent.rctFails, aptFails := s.ent.aptFails,
                        startupFails := s.ent.startupFails, biasFails := s.ent.biasFails }
    anl := darkAnl s.anl
    host := { z.host with nextTag := s.host.nextTag } }

/-- The module enters OFF for the cause that LAST_OFF names; in OFF already, nothing happens. -/
def enterOff (cause : Nat) (s : State) : State :=
  if s.power.state = 0 then s
  else { darkened s with power := { (darkened s).power with lastOff := cause } }

/-- PWR_CTRL.AUTO_WAKE. -/
def autoWake (s : State) : Bool := bitOf (regActive s 0x2208 0x100) 8

/-- The boot sequence starts at its ROM step (R539, R542). -/
def startBoot (s : State) : State :=
  let p := s.power
  { s with power := { p with
      state := 1, bootStep := 1, lastReset := if p.coldBoot then 0 else 1
      wakes := if p.coldBoot then p.wakes else satTo 16 (p.wakes + 1) } }

/-! ### Supplies and the management controller (R538 to R540, R551, R557, R558, R561) -/

/-- The boot counter's storage is rated for this many cold starts (R49). -/
def bootLimit : Nat := 1048576

/-- The state right after a cold start: everything afresh but fuses, the repair log, pins and readings of sensors. -/
def coldState (s : State) : State :=
  let z := State.reset
  let full := bootLimit ≤ s.time.boots.toNat
  { z with
    pending := s.pending, fresh := s.fresh, out := s.out
    fuse := fusedMaps s.fuse
    power := { z.power with mainGood := s.power.mainGood, perst := s.power.perst }
    time := { z.time with boots := if full then s.time.boots else s.time.boots + 1#32, exhausted := full,
                          refclk156 := s.time.refclk156 }
    err := { z.err with sensorOut := s.err.sensorOut }
    integ := { z.integ with pprLogged := s.integ.pprLogged }
    host := { z.host with nextTag := s.host.nextTag } }

/-- Standby power-good rises (R538). -/
def doColdStart (s : State) : State :=
  let s1 := coldState s
  if s1.power.mainGood then startBoot s1 else s1

/-- Main-good rises (R539, R558). -/
def doMainGood (s : State) : State :=
  let s1 := { s with power := { s.power with mainGood := true } }
  if s.power.mainGood = false ∧ s.power.standby ∧ s.power.state = 0 ∧ autoWake s then startBoot s1 else s1

/-- Standby power-good falls (R558). -/
def doStandbyPowerFail (s : State) : State :=
  let s1 := enterOff s.power.lastOff s
  { s1 with power := { s1.power with standby := false } }

def mainLost (s : State) : State :=
  let s1 := enterOff 1 s
  { s1 with power := { s1.power with mainGood := false } }

/-- The main input has stayed below its limit for more than 1 ms (R540). -/
def doMainDipTimeout (s : State) : State := mainLost s

/-- The main input falls below 40.0 V (R557). -/
def doMainUndervoltage (s : State) : State := mainLost s

/-- The bytes "POFF" (R551). -/
def offWord : BitVec 32 := 0x46464F50#32

/-- A write of PWR_CTRL with POWER_OFF set. -/
def doPowerOff (confirm : BitVec 32) (s : State) : State := if confirm = offWord then enterOff 2 s else s

/-- The I3C WAKE command. -/
def doI3cWake (s : State) : State :=
  if s.power.standby ∧ s.power.mainGood ∧ s.power.state = 0 then startBoot s else s

/-- The I3C OFF command with its four bytes, the first lowest. -/
def doI3cOff (bytes : BitVec 32) (s : State) : State := if s.power.standby ∧ bytes = offWord then enterOff 3 s else s

/-- The I3C READ command and the private read after it, of the register at 8 · sel. -/
def doI3cRead (sel : BitVec 24) (s : State) : State :=
  let off := 8 * sel.toNat
  if !s.power.standby then s
  else if s.power.state = 2 ∨ off = 0 ∨ off = 0x100 ∨ off = 0x108 ∨ (0x2000 ≤ off ∧ off < 0x3000) then
    let r := if s.power.state = 2 then regRead s off else (regValue s off, s)
    emit (keepSupply s r.2) (.i3cData (BitVec.ofNat 64 r.1))
  else emit s (.i3cData 0#64)

/-! ### Device resets (R133, R233, R319, R433, R451, R499, R546, R547) -/

/-- Instances that a warm or function-level reset leaves. -/
def keptInst (i : Inst) : Bool :=
  match i with
  | .dev | .pwr | .lnk | .ent | .mem => true
  | _ => false

/-- LAST_END of a partition whose run a reset ends (R283). -/
def anlReset (a : AnlSt) : AnlSt :=
  let b := anlAfterReset a
  if a.run.isSome then { b with lastEnd := 1 } else b

def clearLinkCounters (x : LinkSt) : LinkSt :=
  { x with trainers := [], crcFails := 0, replays := 0, fecUnc := 0, retrains := 0, degrades := 0, fec := 0#64, delay := 0,
           stallNs := 0#64, formatDrops := 0, routeDrops := 0 }

def resetNet (n : LinksSt) : LinksSt :=
  { n with
    links := n.links.foldl (fun t x => mput link0 t x.1 (clearLinkCounters x.2)) []
    tx := n.tx.map (fun t => (t.1, { t.2 with sent := t.2.sent.map (fun _ => none), waiting := t.2.waiting.map (fun p => { p with slot := none }) }))
    held := n.held.map (fun h => { h with pkt := { h.pkt with slot := none } })
    mcast := n.mcast.map (fun t => { t with slot := none }), prbs := none }

/-- The replay log stands in reserved HBM, which these resets keep. -/
def resetDbg (d : DbgSt) : DbgSt :=
  { State.reset.dbg with replay := { State.reset.dbg.replay with log := d.replay.log, bad := d.replay.bad } }

/-- What a warm or a function-level reset leaves of the device. It reaches every home core, whose waiters are abandoned
first, those on other modules too (R398, R399). -/
def deviceReset (s0 : State) : State :=
  let z := State.reset
  let s := (objectCores s0).foldl syncResetCore s0
  { s with
    cfg := s.cfg.filter (fun oc => match regDesc s oc.1 with | some d => keptInst d.inst | none => false)
    insts := s.insts.filter (fun x => keptInst x.inst)
    power := { s.power with waiting := [] }
    image := { s.image with loading := none, committing := none }
    err := { s.err with counters := [], retire := none }
    integ := { z.integ with
      ecc := s.integ.ecc, pprLogged := s.integ.pprLogged, sramSparesUsed := s.integ.sramSparesUsed
      bankSparesUsed := s.integ.bankSparesUsed, stackSparesUsed := s.integ.stackSparesUsed
      badCheckers := s.integ.badCheckers, seen := s.integ.seen }
    banks := []
    fe := { z.fe with
      captures := s.fe.captures, captureCount := s.fe.captureCount, captureNext := s.fe.captureNext
      lastQueue := s.fe.lastQueue, lastSeq := s.fe.lastSeq, heartbeat := s.fe.heartbeat }
    host := { s.host with
      reads := [], winFaults := [], winBad := []
      ports := s.host.ports.foldl (fun t p => mput port0 t p.1 { p.2 with holes := 0, cplErrors := 0, urSent := 0 }) [] }
    parts := [], longs := [], vec := [], ses := z.ses, sync := z.sync
    anl := s.anl.foldl (fun t a => mput anl0 t a.1 (anlReset a.2)) []
    ent := { s.ent with
      draws := [], keyDrawn := none, clients := [], capture := none
      sources := s.ent.sources.foldl (fun t x => mput source0 t x.1 { x.2 with testing := false }) [] }
    net := resetNet s.net
    dbg := resetDbg s.dbg }

/-- The clients of every partition in force, as a commit or a function-level reset leaves them (R451). -/
def freshClients (s : State) : State :=
  match s.image.force with
  | none => s
  | some f => (f.parts.flatMap (fun p => (shapeCores s.fuse.grade p.2.shape).flatMap coreClients)).foldl freshClient s

/-- One function's MSI-X table, pending bits and control return to their reset values (R550). -/
def resetMsix (port : Nat) (s : State) : State :=
  let keep := ~~~(BitVec.ofNat 2 (2 ^ port))
  { s with host := { s.host with
      msix := s.host.msix.filter (fun e => e.1 / 2048 != port)
      msixEnable := s.host.msixEnable &&& keep, msixMask := s.host.msixMask &&& keep } }

/-! ### The IMAGE step and READY (R84, R96, R542) -/

def flashLimit : Nat := 224 * 2 ^ 20

/-- The slot number that the boot's own load goes by. -/
def bootSlot : Nat := 32

/-- READY. -/
def bootReady (s : State) : State :=
  { s with power := { s.power with state := 2, bootStep := 10, bootTime := s.time.count, coldBoot := false } }

/-- The image in force before a warm reset is applied again. -/
def reapplyImage (s : State) : State :=
  match s.image.force with
  | none => s
  | some f =>
    let s1 := (f.parts.map Prod.fst).foldl (fun s n => applyPart s n true) s
    freshClients (if s1.rate.rate = f.rate then s1 else retarget s1 f.rate)

/-- The default image fails: NO_DEFAULT tells of it, and the boot ends without it. -/
def noDefault (s : State) (mask : Nat) (f : StageFail) : State :=
  let s1 := if f.poison then noteConsumed s 1 else s
  let s2 := { s1 with image := { s1.image with
    loading := none, lastStatus := f.status, lastStage := f.stage, lastSection := f.sect, fails := satTo 16 (s1.image.fails + 1) } }
  bootReady (keepSupply s (imageEvent (reapplyImage s2) 6 f.stage mask f.sect f.status))

/-- Flash holds no image: no load has failed, and NO_DEFAULT names no stage (R95, R96). -/
def noImage (s : State) : State := bootReady (keepSupply s (imageEvent (reapplyImage s) 6 0 0 0 stOk))

/-- The boot's commit has come to its end: DEFAULT_LOADED, and READY. -/
def bootCommitted (s : State) : State :=
  match s.image.committing with
  | some _ => s
  | none =>
    let mask := match s.image.force with | some f => (f.parts.map Prod.fst).foldl (fun t n => t + 2 ^ n) 0 | none => 0
    bootReady (keepSupply s (imageEvent (freshClients s) 5 0 mask 0 stOk))

/-- The checked default image is committed. -/
def bootCommit (s : State) (p : PendingLoad) : State :=
  let s1 := startCommit { s with image := { s.image with
    loading := none, pending := [p], lastStatus := stOk, lastStage := 0, lastSection := 0 } } none allOnes
  match s1.image.committing with
  | some c => bootCommitted (keepSupply s (advanceCommit s1 c))
  | none => s

/-- The draw of an interleave key that a checked default image needs (R78). -/
def askKey (s : State) (h : ImgHeader) (cs : List Section) : State :=
  if needsKey s h cs ∧ keyUnderWay s = false then keepSupply s (addDraw s keyDraw) else s

/-- The default image's checks and its key (R78, R84). -/
def bootChecks (s : State) (data : List PByte) : State :=
  let h := imgHeader (dataOf (data.take 128))
  if headerOk s (min flashLimit data.length) h = false then
    noDefault s h.mask { stage := stageHeader, sect := 0, status := stFormat, poison := false }
  else
    let img := data.take h.length
    let cs := (stagedSections h (dataOf img)).1
    match (if keyUnderWay s then none else if h.kind ≠ 1 then formFail stageStructure 0 else checkStages s h img) with
    | some f => noDefault s h.mask f
    | none =>
      let s1 := askKey s h cs
      if needsKey s1 h cs ∧ s1.ent.keyDrawn.isNone then
        setLoading s1 { mask := allOnes, slot := bootSlot, source := 0, length := h.length, data := img, asked := false }
      else bootCommit { s1 with ent := { s1.ent with keyDrawn := none } } (pendingOfImage h cs s1.ent.keyDrawn)

/-- The IMAGE step runs on, unless PERST# holds it: the image that flash holds is copied, checked and committed, as far as
it goes. -/
def bootImage (flash : List Byte) (s : State) : State :=
  if s.power.perst then s
  else
    match s.image.committing with
    | some c => bootCommitted (keepSupply s (advanceCommit s c))
    | none =>
      match s.image.loading with
      | some l => bootChecks s l.data
      | none => if flash.isEmpty then noImage s else bootChecks s (clean flash)

/-- The boot's key draw has waited its limit (R445). -/
def bootKeyStarves (s : State) : State :=
  noDefault (keepSupply s (countNoEntropy (dropDraw s keyDraw))) (match s.image.loading with
    | some l => (imgHeader (dataOf (l.data.take 128))).mask
    | none => 0) { stage := stageStructure, sect := 0, status := stNoEntropy, poison := false }

/-! ### The steps before it (R468, R467, R542) -/

/-- One checker that failed its test (R468). -/
def checkerFails (s : State) (k : Nat) : State :=
  if k < 2 ^ 16 then
    let d := coreDie s.fuse.grade (k / 4)
    let s1 := setDieRepair s d { dieRepairOf s d with checkerFails := satTo 8 ((dieRepairOf s d).checkerFails + 1) }
    sendErrMsg (countErr s1 (errCore (k / 4)) catHard) 2 (errCore (k / 4)) catHard (k % 4)
  else if k < 2 ^ 17 then
    let d := k % 2 ^ 16
    let s1 := setDieRepair s d { dieRepairOf s d with checkerFails := satTo 8 ((dieRepairOf s d).checkerFails + 1) }
    sendErrMsg (countErr s1 (errDie d) catHard) 2 (errDie d) catHard (2 ^ 28)
  else sendErrMsg (countErr s errHbm catHard) 2 errHbm catHard (2 ^ 29 + (k - 2 ^ 17 - 1))

/-- A checker that the module has: a core's bank, a die's SRAM, an HBM channel. -/
def isChecker (s : State) (k : Nat) : Bool :=
  k < 4 * logicalCores s || (2 ^ 16 ≤ k && k < 2 ^ 16 + 16) || (2 ^ 17 < k && k ≤ 2 ^ 17 + 512)

/-- The CHECKER step: the cores whose banks failed are skipped, the rightmost first, while their rows have spares. -/
def bootCheckers (bad : List Nat) (s : State) : State :=
  let ks := (bad.filter (isChecker s)).eraseDups
  let s1 := ks.foldl checkerFails { s with integ := { s.integ with badCheckers := ks } }
  ((List.range (logicalCores s)).reverse.filter (fun c => ks.any (fun k => k < 2 ^ 16 && k / 4 == c))).foldl bootRetire s1

/-- The HPPR step: every logged row is repaired but the ones that fail, given as (stack, rows). -/
def bootRepairs (fails : List (Nat × Nat)) (s : State) : State :=
  (List.range 16).foldl (fun s k =>
    let n := mget 0 s.integ.pprLogged k
    let f := min n ((fails.filter (fun x => x.1 == k)).foldl (fun t x => t + x.2) 0)
    let c := stackOf s k
    let s1 := setStack { s with integ := { s.integ with pprLogged := mput 0 s.integ.pprLogged k f } } k
                { c with exhausted := satTo 8 (c.exhausted + f) }
    countErrN f s1 errHbm catHard) s

/-- The LINKS step: the lanes on which each link has locked, none where it is left down (R422, R542). -/
def bootLinks (masks : List (BitVec 8)) (s : State) : State :=
  (List.range 32).foldl (fun s l =>
    let m := (nth 0#8 masks l).toNat
    let n := popUpTo 8 m
    if n = 8 ∨ n = 6 ∨ n = 4 then setLink s l { freshLink (linkOf s l) m with state := 0 }
    else linkEvent (setLink s l { linkOf s l with state := 1 }) l evDown) s

/-- The CLEAR step. -/
def bootClear (s : State) : State := { s with mem := [], integ := { s.integ with ecc := [] } }

def toStep (s : State) (n : Nat) : State := { s with power := { s.power with bootStep := n } }

/-- The ROM step's end: copy A, copy B, or HALTED. -/
def bootRom (b : Boot) (s : State) : State :=
  if b.failsA && b.failsB then { s with power := { s.power with state := 3 } }
  else toStep { s with power := { s.power with romCopy := b.failsA } } 2

/-- The boot step that runs comes to its end, and the next one begins. -/
def doBootStepDone (b : Boot) (s : State) : State :=
  if s.power.state ≠ 1 then s
  else
    match s.power.bootStep with
    | 1 => bootRom b s
    | 2 => toStep s 3
    | 3 => toStep (keepSupply s (bootCheckers b.checkers s)) (if s.power.coldBoot then 4 else 5)
    | 4 => toStep (keepSupply s (bootRepairs b.repairs s)) 5
    | 5 => toStep (bootClear s) 6
    | 6 => beginThaw (toStep s 7)
    | 7 => toStep s 8
    | 8 => toStep (keepSupply s (bootLinks b.lanes s)) 9
    | 9 => bootImage b.flash s
    | _ => s

/-! ### PERST# and function-level resets (R545, R549, R550) -/

def portsDown (s : State) : State :=
  { s with host := { s.host with ports := s.host.ports.foldl (fun t p =>
    mput port0 t p.1 { p.2 with up := false, speed := 0, width := 0, flit := false }) [] } }

/-- The warm reset: the device's state, both functions' configuration, and staging. -/
def warmReset (s : State) : State :=
  let s1 := deviceReset s
  { s1 with
    image := { s1.image with pending := [] }
    host := { s1.host with barSize := 0 }
    power := { s1.power with state := 1, bootStep := 9 } }

/-- PERST# is asserted. Before IMAGE the boot runs on; during IMAGE what it has loaded is abandoned. -/
def doPerstAssert (s : State) : State :=
  if s.power.perst then s
  else
    let s0 := portsDown (resetMsix 0 (resetMsix 1 { s with power := { s.power with perst := true } }))
    if s.power.state = 2 then
      let s1 := warmReset s0
      { s1 with power := { s1.power with lastReset := 2 } }
    else if s.power.state = 1 ∧ s.power.bootStep = 9 then warmReset s0
    else s0

/-- PERST# is deasserted: the IMAGE step that waits for it may run. -/
def doPerstDeassert (s : State) : State := { s with power := { s.power with perst := false } }

/-- An image commit past its drain runs (R91, R549). -/
def pastDrain (s : State) : Bool := match s.image.committing with | some c => c.relockWait || c.applied | none => false

/-- A function-level reset of a port's function. A commit past its drain is finished first: the row is given again. -/
def doFlr (port : Nat) (s : State) : State :=
  if 2 ≤ port ∨ s.power.state = 0 ∨ s.power.perst = true then s
  else if s.power.state ≠ 2 then resetMsix port s
  else if pastDrain s then s
  else
    let s1 := keepSupply s (freshClients (resetMsix port (deviceReset s)))
    { s1 with power := { s1.power with lastReset := 3 + port } }

end Sys2Proof.Machine
end

