-- ==== Sys2Proof/Machine/EntropyRows.lean ====
section
/-!
DEFINITION. Sys2Proof/Machine/EntropyRows.lean: ENTROPY_CFG (R452), ENT_CTRL (R436, R454), and requests that wait for entropy too
long (R445).
-/
namespace Sys2Proof.Machine

/-- ENTROPY_CFG with ACTION a runs in slot k with its parameter block. -/
def withEntropyBlock (s : State) (k a : Nat) (f : State → List Byte → State) : State :=
  match actionCmd s k 0x75 a with
  | none => s
  | some c =>
    match blockRead s k (cmdFld c.bits 24 31) 64 with
    | .wait s1 => s1
    | .poison s1 => endCmd s1 k stPoison
    | .bytes b s1 => f s1 b

/-! ### SEED -/

def seedClientsOf (b : List Byte) : List Nat := (List.range (blkFld b 4 7)).map (· + blkFld b 0 3)

/-- The range is one of context clients in seeded mode, of cores of the grade, and the seed lies where it may. -/
def seedOk (s : State) (b : List Byte) : Bool :=
  let n := blkFld b 4 7
  1 ≤ n && n ≤ 7040 && blkFld b 0 3 + n ≤ 5 * logicalCores s && blkZero b 24 63 && blkFld b 16 23 % 32 == 0 &&
  rangeAllowed s .localOnly (blkFld b 16 23) 32 && (seedClientsOf b).all (fun i => i % 5 != 4 && isSeeded s i)

/-- SEED with a block that is complete (R453). A client with a request outstanding ends it with CONFIG_FROZEN; whether that
counts as a frozen write of ENT too is open: the model counts none (DESIGN CHOICE, log entry 49). -/
def seedNow (k : Nat) (s : State) (b : List Byte) : State :=
  if !seedOk s b then endCmd s k stFormat
  else if (seedClientsOf b).any s.ent.draws.contains then endCmd s k stFrozen
  else
    let r := localRead s ownDma (blkFld b 16 23) 32
    if anyPoison r.bytes then endCmd (noteConsumed r.state 1) k stPoison
    else
      let seed := BitVec.ofNat 256 (ofLe (dataOf r.bytes))
      let s1 := (seedClientsOf b).foldl (fun s i => instantiate s i seed (BitVec.ofNat 64 (blkFld b 8 15))) r.state
      endCmd (if r.refused then flagSlot s1 k stPartial else s1) k stOk

def doSeed (k : Nat) (s : State) : State := withEntropyBlock s k 1 (seedNow k)

/-! ### RETEST -/

/-- A source out of service passes its start-up test: it rejoins the logical numbering. -/
def rejoin (s : State) (p : Nat) : State :=
  let s1 := { s with fuse := { s.fuse with entGood := s.fuse.entGood ||| BitVec.ofNat 32 (2 ^ p) } }
  setSource s1 p { sourceOf s1 p with started := true, runLen := 0 }

def retestNow (pass : BitVec 32) (k : Nat) (s : State) (b : List Byte) : State :=
  let ps := bitList 32 (blkFld b 0 3)
  if !blkZero b 4 63 || ps.any (sourcesIn s).contains then endCmd s k stFormat
  else
    let before := activeSources s
    let ok := fun (p : Nat) => (pass &&& s.fuse.entFused).toNat.testBit p
    let s1 := ps.foldl (fun s p => if ok p then rejoin s p else countHealth s 3) s
    endCmd (checkThaw (dropInactive (noteActive before s1))) k stOk

/-- RETEST of the sources of its mask; `pass` says which pass the start-up test. -/
def doRetest (k : Nat) (pass : BitVec 32) (s : State) : State := withEntropyBlock s k 2 (retestNow pass k)

/-! ### RAW_CAPTURE -/

def captureNow (k : Nat) (s : State) (b : List Byte) : State :=
  let bits := blkFld b 4 7
  let dest := blkFld b 8 15
  match (sourcesIn s)[blkFld b 0 3]? with
  | none => endCmd s k stFormat
  | some p =>
    if !blkZero b 16 63 || bits = 0 || bits % 512 != 0 || 2 ^ 24 < bits || dest % 64 != 0 ||
        !rangeAllowed s .store dest (bits / 8) || (activeSources s).contains p then endCmd s k stFormat
    else
      { setSource s p { sourceOf s p with testing := true } with
        ent := { (setSource s p { sourceOf s p with testing := true }).ent with
          capture := some { slot := k, source := p, bits := bits, dest := dest, failed := false } } }

/-- RAW_CAPTURE starts, one at a time. -/
def doRawCapture (k : Nat) (s : State) : State :=
  if s.ent.capture.isSome then s else withEntropyBlock s k 3 (captureNow k)

/-- The capture has its bits, or those before its source failed: they are written to DEST. -/
def doRawCaptureDone (raw : List Byte) (s : State) : State :=
  match s.ent.capture with
  | none => s
  | some x =>
    let n := x.bits / 8
    if !x.failed ∧ raw.length < n then s
    else
      let s1 := { s with ent := { s.ent with capture := none } }
      let s2 := noteActive (activeSources s1) (setSource s1 x.source { sourceOf s1 x.source with testing := false })
      match actionCmd s2 x.slot 0x75 3 with
      | none => s2
      | some _ =>
        let w := devWrite s2 (some x.slot) .data x.dest (clean (raw.take n))
        endCmd (if w.1 || x.failed then flagSlot w.2 x.slot stPartial else w.2) x.slot stOk

/-! ### ENT_CTRL (R436, R454) -/

/-- A write of ENT_CTRL takes effect on arrival, roles included. -/
def doEntCtrlWrite (value : BitVec 64) (s : State) : State :=
  match regDesc s entCtrlOffset with
  | none => s
  | some d =>
    let before := activeSources s
    let s1 := applyBoundary (writeCell s entCtrlOffset d value) .ent
    checkThaw (dropInactive (noteActive before s1))

/-! ### Requests that wait too long (R445) -/

/-- The request has counted its NO_ENTROPY_US of time without a source: it ends. -/
def doEntropyWaitTimeout (w : EntWait) (s : State) : State :=
  if entCount s ≠ 0 ∨ s.power.state = 0 then s
  else
    match w with
    | .vector n => keepSupply s (vectorStarves s n)
    | .run n => keepSupply s (runStarves s n)
    | .decode n => keepSupply s (decodeStarves s n)
    | .key =>
      match s.image.loading with
      | some l => if !s.ent.draws.contains keyDraw then s else if l.slot = bootSlot then bootKeyStarves s else keepSupply s (keyStarves s)
      | none => s

end Sys2Proof.Machine
end

