-- ==== Sys2Proof/Machine/ExecEntropy.lean ====
section
/-!
DEFINITION. Sys2Proof/Machine/ExecEntropy.lean: what each command of entropy (chapter 17) does.
-/
namespace Sys2Proof.Machine

/-- SEED (R452). -/
def execSeed (slot : Nat) (s : State) : Host.Outcome State Fault Refusal :=
  .next (plainStep (doSeed slot) s)

/-- RETEST (R452). -/
def execRetest (slot : Nat) (pass : BitVec 32) (s : State) : Host.Outcome State Fault Refusal :=
  .next (plainStep (doRetest slot pass) s)

/-- RAW_CAPTURE (R452). -/
def execRawCapture (slot : Nat) (s : State) : Host.Outcome State Fault Refusal :=
  .next (plainStep (doRawCapture slot) s)

/-- RAW_CAPTURE_DONE (R452). -/
def execRawCaptureDone (raw : List Byte) (s : State) : Host.Outcome State Fault Refusal :=
  .next (plainStep (doRawCaptureDone raw) s)

/-- ENTROPY_WINDOW (R438). -/
def execEntropyWindow (n : Nat) (raw : BitVec 1024) (began : BitVec 64) (s : State) : Host.Outcome State Fault Refusal :=
  .next (plainStep (doEntropyWindow n raw began) s)

/-- CONDITIONED_BLOCK (R441). -/
def execConditionedBlock (n : Nat) (s : State) : Host.Outcome State Fault Refusal :=
  .next (plainStep (doConditionedBlock n) s)

/-- BIAS_TRIM_CHECK (R435). -/
def execBiasTrimCheck (n ones : Nat) (s : State) : Host.Outcome State Fault Refusal :=
  .next (plainStep (doBiasTrimCheck n ones) s)

/-- REPETITION_COUNT_FAILURE (R437). -/
def execRepetitionCountFailure (n : Nat) (s : State) : Host.Outcome State Fault Refusal :=
  .next (plainStep (doRepetitionCountFailure n) s)

/-- ENTROPY_WAIT_TIMEOUT (R445). -/
def execEntropyWaitTimeout (w : EntWait) (s : State) : Host.Outcome State Fault Refusal :=
  .next (poweredStep (doEntropyWaitTimeout w) s)

/-- ENT_CTRL_WRITE (R454). -/
def execEntCtrlWrite (value : BitVec 64) (s : State) : Host.Outcome State Fault Refusal :=
  .next (plainStep (doEntCtrlWrite value) s)

end Sys2Proof.Machine
end

