-- ==== Sys2Proof/Machine/Avail.lean ====
section
/-!
DEFINITION. Sys2Proof/Machine/Avail.lean: the end of a message span (R501), the message ring's HEAD (R502), dispatchers (R25, R26,
R508, R512), and the HBM balance monitor (R473, R478).
-/
namespace Sys2Proof.Machine

/-! ### Messages (R501, R502) -/

/-- 2^20 ns have passed since the CROSSING message of category cat of a unit at level 0 core, 1 die or 2 module: what
was held back in that span is sent in one. -/
def doThresholdSpanEnd (level unit cat : Nat) (s : State) : State :=
  let key := level * 4096 + unit
  if 2 < level ∨ 4096 ≤ unit ∨ 3 < cat then s
  else
    match mfind s.err.crossings (4 * key + cat) with
    | none => s
    | some x => if x.suppressed = 0 ∨ sinceCount s x.at_ < 2 ^ 20 then s else sendCrossing s key cat x.suppressed

/-- A write of DEV_MSG_HEAD. -/
def doMsgHeadWrite (value : BitVec 32) (s : State) : State :=
  if (s.msg.tail - value).toNat ≤ ringEntries (msgRing s) then { s with msg := { s.msg with head := value } }
  else countErr s errConfig catProtocol

/-! ### Dispatchers (R508) -/

/-- The active dispatcher's heartbeat. -/
def doHeartbeat (s : State) : State :=
  if noDispatcher s ∨ s.power.state ≠ 2 then s else { s with fe := { s.fe with heartbeat := s.time.count } }

/-- A batch that the failed dispatcher was reading is read again. -/
def refetch (s : State) (q : Nat) : State := setQueue (dropRingReads s q) q { queueOf s q with reading := none }

/-- A load starts over from its HEADER stage. -/
def restartLoad (s : State) : State :=
  match s.image.loading with
  | none => s
  | some l =>
    let s1 := { s with host := { s.host with reads := s.host.reads.filter (fun r => match r.why with | .image _ => false | _ => true) } }
    let s2 := dropDraw { s1 with ent := { s1.ent with keyDrawn := none } } keyDraw
    let l1 := { l with mask := 0#64, data := [], asked := false }
    if fromWindow s2 l1 then loadWindow windowFuel (setLoading s2 l1) else loadLocal (setLoading s2 l1) l1

/-- The spare dispatcher has failed: it leaves service, and nothing is taken over (R25, R26, R500). -/
def spareFails (s : State) : State :=
  if s.fuse.dispGood = 3#2 then countErr { s with fuse := { s.fuse with dispGood := 1#2 } } errFe catHard else s

/-- The active dispatcher has failed, and the spare, if there is one, has taken over after ns; or `spare` has failed. -/
def doDispatcherTakeover (ns : Nat) (spare : Bool) (s : State) : State :=
  if noDispatcher s ∨ s.power.state ≠ 2 then s
  else if spare then spareFails s
  else
    let first := if s.fuse.dispGood.toNat.testBit 0 then 1#2 else 2#2
    let s1 := countErr { s with fuse := { s.fuse with dispGood := s.fuse.dispGood &&& ~~~first } } errFe catHard
    if noDispatcher s1 then s1
    else
      let parts := match s1.image.force with | some f => f.parts.map Prod.fst | none => []
      let cores := (parts.map (fun n => (partCores s1 n).length)).foldl (· + ·) 0
      let s2 := addOutage { s1 with err := { s1.err with takeovers := satTo 16 (s1.err.takeovers + 1) } } cores (min ns 2000000)
      let s3 := restartLoad ((s2.fe.queues.map Prod.fst).foldl refetch s2)
      sendErrMsg { s3 with fe := { s3.fe with heartbeat := s3.time.count, watchFrom := some s3.time.count } } 0x05 errFe catHard 0

/-! ### Balance (R473, R478) -/

def balanceThreshold (s : State) : Nat := regActive s 0xC00300 0x80 % 65536

/-- A window of the balance monitor ends with these requests per channel. The ratio of a window without a request is
0 / 0, for which no rule gives a value (log entry 4). -/
def doBalanceWindow (counts : List Nat) (s : State) : State :=
  let cs := (List.range 512).map (nth 0 counts)
  let total := cs.foldl (· + ·) 0
  let most := cs.foldl max 0
  if total = 0 then
    let r := takeFree s 25
    { r.2 with integ := { r.2.integ with maxRatio := r.1 % 65536, hotChannel := r.1 / 65536 } }
  else
    let ratio := most * 16 * 512 / total
    let s1 := { s with integ := { s.integ with maxRatio := ratio, hotChannel := (cs.findIdx? (· == most)).getD 0 } }
    if 65536 ≤ total ∧ balanceThreshold s ≤ ratio then
      countErr { s1 with integ := { s1.integ with imbalance := satTo 16 (s1.integ.imbalance + 1) } } errHbm catProtocol
    else s1

end Sys2Proof.Machine
end

