-- ==== Sys2Proof/Machine/Sensors.lean ====
section
/-!
DEFINITION. Sys2Proof/Machine/Sensors.lean: the sensor messages (R505) against the limits of R564, and the ALERT# and
PGOOD pins (R560).
-/
namespace Sys2Proof.Machine

/-- LOW below, in the sensor's unit (R505, R564). -/
def sensorLow (id : Nat) : Option Int :=
  if id < 16 then some 0
  else match id with
    | 0x10 => some 120
    | 0x12 => some 4800
    | 0x14 => some 1140
    | _ => none

/-- HIGH above, in the sensor's unit; the power limit is R541's maximum at the rate in force (R564). -/
def sensorHigh (rate id : Nat) : Option Int :=
  if id < 16 then some 840
  else match id with
    | 0x10 => some 320
    | 0x11 => some 480
    | 0x12 => some 5400
    | 0x13 => some 1200
    | 0x14 => some 1260
    | 0x15 => some (match rate with | 0 => 3900 | 1 => 4600 | _ => 5400)
    | _ => none

/-- The sensors of R505. -/
def sensorCount : Nat := 22

/-- 1 above the HIGH limit, 2 below the LOW limit, 0 within. -/
def sensorZone (rate id : Nat) (v : Int) : Nat :=
  match sensorHigh rate id with
  | some h => if h < v then 1 else (match sensorLow id with | some l => if v < l then 2 else 0 | none => 0)
  | none => 0

/-- The reading is back within the limit that it crossed by 2 % of the limit (R505). -/
def backWithin (rate id zone : Nat) (v : Int) : Bool :=
  match zone with
  | 1 => (match sensorHigh rate id with | some h => decide (100 * (h - v) ≥ 2 * h) | none => false)
  | 2 => (match sensorLow id with | some l => decide (100 * (v - l) ≥ 2 * l) | none => false)
  | _ => false

def limitOf (rate id zone : Nat) : Int :=
  match zone with
  | 1 => (sensorHigh rate id).getD 0
  | _ => (sensorLow id).getD 0

/-- One HIGH, LOW or NORMAL message, at most one per sensor and 2^20 ns (R505); in OFF only the alert output follows. -/
def sensorMsg (s : State) (id sub : Nat) (v limit : Int) : State :=
  let quiet := match mfind s.err.sensorAt id with | none => false | some t => decide (sinceCount s t < 2 ^ 20)
  if quiet || s.power.state == 0 then s
  else
    let s1 := sendMsg s 0x08 sub id (msgAt 20 2 (wrapTo 16 v) + msgAt 22 2 (wrapTo 16 limit))
    { s1 with err := { s1.err with sensorAt := mins s1.err.sensorAt id s1.time.count } }

/-- A reading that leaves its limits, or that has come back within them by 2 % (R505). -/
def doSensorLimit (id : Nat) (v : Int) (s : State) : State :=
  let rate := s.rate.rate
  let was := mget 0 s.err.sensorOut id
  let now := sensorZone rate id v
  if sensorCount ≤ id then s
  else if now ≠ 0 ∧ now ≠ was then
    let s1 := { s with err := { s.err with sensorOut := mput 0 s.err.sensorOut id now } }
    sensorMsg s1 id (now + 1) v (limitOf rate id now)
  else if now = 0 ∧ was ≠ 0 ∧ backWithin rate id was v then
    let s1 := { s with err := { s.err with sensorOut := mput 0 s.err.sensorOut id 0 } }
    sensorMsg s1 id 4 v (limitOf rate id was)
  else s

/-- DEV_MSG_CTRL.SENSOR_PERIOD (R502). -/
def sensorPeriod (s : State) : Nat := fld (regActive s 0x4210 0) 47 40

/-- At each multiple of SENSOR_PERIOD times 2^30 ns every sensor reports (R505). -/
def doSensorPeriodic (values : List Int) (s : State) : State :=
  if sensorPeriod s = 0 ∨ s.time.count.toNat % (sensorPeriod s * 2 ^ 30) ≠ 0 then s
  else (List.range sensorCount).foldl (fun s id => sendMsg s 0x08 0x01 id (msgAt 20 2 (wrapTo 16 (nth 0 values id)))) s

/-- PGOOD is released high while STATE is BOOTING or ACTIVE (R560). -/
def pgood (s : State) : Bool := s.power.state == 1 || s.power.state == 2

/-- ALERT# is asserted while a sensor is outside its limits or STATE is HALTED (R560). -/
def alertAsserted (s : State) : Bool := !s.err.sensorOut.isEmpty || s.power.state == 3

end Sys2Proof.Machine
end

