-- ==== Sys2Proof/Machine/ExecErrors.lean ====
section
/-!
DEFINITION. Sys2Proof/Machine/ExecErrors.lean: what each command of errors, messages and availability (chapters 18 and 20) does.
-/
namespace Sys2Proof.Machine

/-- BALANCE_WINDOW (R473). -/
def execBalanceWindow (counts : List Nat) (s : State) : Host.Outcome State Fault Refusal :=
  .next (plainStep (doBalanceWindow counts) s)

/-- MSG_HEAD_WRITE (R502). -/
def execMsgHeadWrite (value : BitVec 32) (s : State) : Host.Outcome State Fault Refusal :=
  .next (plainStep (doMsgHeadWrite value) s)

/-- THRESHOLD_SPAN_END (R501). -/
def execThresholdSpanEnd (level unit cat : Nat) (s : State) : Host.Outcome State Fault Refusal :=
  .next (plainStep (doThresholdSpanEnd level unit cat) s)

/-- SENSOR_PERIODIC (R505). -/
def execSensorPeriodic (values : List Int) (s : State) : Host.Outcome State Fault Refusal :=
  .next (plainStep (doSensorPeriodic values) s)

/-- SENSOR_LIMIT (R505). -/
def execSensorLimit (id : Nat) (value : Int) (s : State) : Host.Outcome State Fault Refusal :=
  .next (pinStep (doSensorLimit id value) s)

/-- HEARTBEAT (R508). -/
def execHeartbeat (s : State) : Host.Outcome State Fault Refusal :=
  .next (plainStep doHeartbeat s)

/-- DISPATCHER_TAKEOVER (R508). -/
def execDispatcherTakeover (ns : Nat) (s : State) (spare : Bool := false) : Host.Outcome State Fault Refusal :=
  .next (plainStep (doDispatcherTakeover ns spare) s)

end Sys2Proof.Machine
end

