-- ==== Sys2Proof/Machine/ExecFront.lean ====
section
/-!
DEFINITION. Sys2Proof/Machine/ExecFront.lean: what each command of the command front end (chapter 13) does.
-/
namespace Sys2Proof.Machine

/-- DOORBELL (R334). -/
def execDoorbell (q off size : Nat) (value : Option (BitVec 32)) (s : State) : Host.Outcome State Fault Refusal :=
  .next (plainStep (doDoorbell q off size value) s)

/-- QUEUE_FETCH (R336). -/
def execQueueFetch (q : Nat) (losses : List FeLoss) (s : State) : Host.Outcome State Fault Refusal :=
  .next (plainStep (doQueueFetch q losses) s)

/-- SLOT_MAP (R341). -/
def execSlotMap (s : State) : Host.Outcome State Fault Refusal :=
  .next (plainStep doSlotMap s)

/-- SLOT_HEAD (R349). -/
def execSlotHead (slot : Nat) (s : State) : Host.Outcome State Fault Refusal :=
  .next (plainStep (doSlotHead slot) s)

/-- QUEUE_STOP (R339). -/
def execQueueStop (q : Nat) (stop : Bool) (s : State) : Host.Outcome State Fault Refusal :=
  .next (plainStep (doQueueStop q stop) s)

/-- QUEUE_RESET (R339). -/
def execQueueReset (q : Nat) (s : State) : Host.Outcome State Fault Refusal :=
  .next (plainStep (doQueueReset q) s)

/-- NOP (R346). -/
def execNop (slot : Nat) (s : State) : Host.Outcome State Fault Refusal :=
  .next (plainStep (doNop slot) s)

/-- EVENT_RECORD (R352). -/
def execEventRecord (slot : Nat) (s : State) : Host.Outcome State Fault Refusal :=
  .next (plainStep (doEventRecord slot) s)

/-- EVENT_WAIT (R353). -/
def execEventWait (slot : Nat) (s : State) : Host.Outcome State Fault Refusal :=
  .next (plainStep (doEventWait slot) s)

/-- EVENT_WAIT_TIMEOUT (R353). -/
def execEventWaitTimeout (q : Nat) (s : State) : Host.Outcome State Fault Refusal :=
  .next (plainStep (doEventWaitTimeout q) s)

/-- WAIT_GRAPH (R356). -/
def execWaitGraph (s : State) : Host.Outcome State Fault Refusal :=
  .next (plainStep doWaitGraph s)

/-- COPY (R347). -/
def execCopy (slot : Nat) (s : State) : Host.Outcome State Fault Refusal :=
  .next (plainStep (doCopy slot) s)

/-- FILL (R347). -/
def execFill (slot : Nat) (s : State) : Host.Outcome State Fault Refusal :=
  .next (plainStep (doFill slot) s)

/-- SCRUB (R469). -/
def execScrub (slot : Nat) (s : State) : Host.Outcome State Fault Refusal :=
  .next (plainStep (doScrub slot) s)

/-- COPY_ENGINE_DONE (R362). -/
def execCopyEngineDone (slot : Nat) (faults : List Upset) (waits : List (Nat × Nat)) (s : State) : Host.Outcome State Fault Refusal :=
  .next (plainStep (doCopyEngineDone slot faults waits) s)

/-- PROGRAM_SLOT (R348). -/
def execProgramSlot (slot : Nat) (s : State) : Host.Outcome State Fault Refusal :=
  .next (plainStep (doProgramSlot slot) s)

/-- REVOKE_SLOT (R348). -/
def execRevokeSlot (slot : Nat) (s : State) : Host.Outcome State Fault Refusal :=
  .next (plainStep (doRevokeSlot slot) s)

/-- RAISE_MIN_SVN (R348). -/
def execRaiseMinSvn (slot : Nat) (s : State) : Host.Outcome State Fault Refusal :=
  .next (plainStep (doRaiseMinSvn slot) s)

/-- WATCHDOG_HANG (R362). -/
def execWatchdogHang (slot : Nat) (s : State) : Host.Outcome State Fault Refusal :=
  .next (plainStep (doWatchdogHang slot) s)

/-- CQ_HEAD_WRITE (R359). -/
def execCqHeadWrite (c : Nat) (value : BitVec 32) (s : State) : Host.Outcome State Fault Refusal :=
  .next (plainStep (doCqHeadWrite c value) s)

/-- MSIX_SEND (R360). -/
def execMsixSend (ring : Nat) (s : State) : Host.Outcome State Fault Refusal :=
  .next (plainStep (doMsixSend ring) s)

end Sys2Proof.Machine
end

