-- ==== Sys2Proof/Machine/ExecHost.lean ====
section
/-!
DEFINITION. Sys2Proof/Machine/ExecHost.lean: what each command of the host interface (chapter 21) does.
-/
namespace Sys2Proof.Machine

/-- BAR4_READ (R523). -/
def execBar4Read (port off len : Nat) (faults : List Upset) (waits : List (Nat × Nat)) (s : State) : Host.Outcome State Fault Refusal :=
  .next (plainStep (doBar4Read port off len faults waits) s)

/-- BAR4_WRITE (R523). -/
def execBar4Write (port off : Nat) (data : List PByte) (faults : List Upset) (waits : List (Nat × Nat)) (s : State) : Host.Outcome State Fault Refusal :=
  .next (plainStep (doBar4Write port off data faults waits) s)

/-- HOST_ATOMICOP (R516). -/
def execHostAtomicop (port off op size : Nat) (value : BitVec 64) (s : State) (waits : List (Nat × Nat) := []) : Host.Outcome State Fault Refusal :=
  .next (plainStep (doHostAtomicop port off op size value waits) s)

/-- BAR4_RESIZE (R522). -/
def execBar4Resize (n : Nat) (s : State) : Host.Outcome State Fault Refusal :=
  .next (plainStep (doBar4Resize n) s)

/-- HOST_COMPLETION_RECEIVE (R517). -/
def execHostCompletionReceive (tag status : Nat) (ep : Bool) (data : List Byte) (s : State) (waits : List (Nat × Nat) := []) : Host.Outcome State Fault Refusal :=
  .next (plainStep (doHostCompletionReceive tag status ep data waits) s)

/-- COMPLETION_TIMEOUT (R517). -/
def execCompletionTimeout (tag : Nat) (s : State) : Host.Outcome State Fault Refusal :=
  .next (plainStep (doCompletionTimeout tag) s)

/-- CONFIGURATION_REQUEST (R544). -/
def execConfigurationRequest (port : Nat) (msix : Option (Bool × Bool)) (s : State) : Host.Outcome State Fault Refusal :=
  .next (plainStep (doConfigurationRequest port msix) s)

/-- HOST_LINK_UP (R534). -/
def execHostLinkUp (port speed width : Nat) (flit : Bool) (s : State) : Host.Outcome State Fault Refusal :=
  .next (plainStep (doHostLinkUp port speed width flit) s)

end Sys2Proof.Machine
end

