-- ==== Sys2Proof/Machine/ExecLinks.lean ====
section
/-!
DEFINITION. Sys2Proof/Machine/ExecLinks.lean: what each command of Amiok links (chapter 16) does.
-/
namespace Sys2Proof.Machine

/-- DISABLE (R430). -/
def execDisable (slot : Nat) (s : State) : Host.Outcome State Fault Refusal :=
  .next (plainStep (doDisable slot) s)

/-- ENABLE (R430). -/
def execEnable (slot : Nat) (s : State) : Host.Outcome State Fault Refusal :=
  .next (plainStep (doEnable slot) s)

/-- RETRAIN (R430). -/
def execRetrain (slot : Nat) (s : State) : Host.Outcome State Fault Refusal :=
  .next (plainStep (doRetrain slot) s)

/-- SET_MAX_LANES (R430). -/
def execSetMaxLanes (slot : Nat) (s : State) : Host.Outcome State Fault Refusal :=
  .next (plainStep (doSetMaxLanes slot) s)

/-- PRBS_TEST (R430). -/
def execPrbsTest (slot : Nat) (s : State) : Host.Outcome State Fault Refusal :=
  .next (plainStep (doPrbsTest slot) s)

/-- PRBS_TEST_DONE (R430). -/
def execPrbsTestDone (errs : List Nat) (s : State) : Host.Outcome State Fault Refusal :=
  .next (plainStep (doPrbsTestDone errs) s)

/-- FRAME_SEND (R409). -/
def execFrameSend (link stall : Nat) (s : State) : Host.Outcome State Fault Refusal :=
  .next (plainStep (doFrameSend link stall) s)

/-- FRAME_RECEIVE (R411). -/
def execFrameReceive (link : Nat) (decoded : Bool) (corrected : Nat) (lanes : List (BitVec 5140)) (s : State) : Host.Outcome State Fault Refusal :=
  .next (plainStep (doFrameReceive link decoded corrected lanes) s)

/-- FAST_RETRAIN_DONE (R412). -/
def execFastRetrainDone (link : Nat) (ok : Bool) (stall : Nat) (s : State) : Host.Outcome State Fault Refusal :=
  .next (plainStep (doFastRetrainDone link ok stall) s)

/-- LANE_FAIL (R421). -/
def execLaneFail (link : Nat) (good : BitVec 8) (s : State) : Host.Outcome State Fault Refusal :=
  .next (plainStep (doLaneFail link good) s)

/-- LANE_SWITCH (R421). -/
def execLaneSwitch (link stall : Nat) (s : State) : Host.Outcome State Fault Refusal :=
  .next (plainStep (doLaneSwitch link stall) s)

/-- TRAINING_DONE (R422). -/
def execTrainingDone (link : Nat) (ok : Bool) (lanes : BitVec 8) (s : State) : Host.Outcome State Fault Refusal :=
  .next (plainStep (doTrainingDone link ok lanes) s)

/-- TRAINING_RETRY (R422). -/
def execTrainingRetry (link : Nat) (s : State) : Host.Outcome State Fault Refusal :=
  .next (plainStep (doTrainingRetry link) s)

/-- HELLO (R422). -/
def execHello (link : Nat) (s : State) : Host.Outcome State Fault Refusal :=
  .next (plainStep (doHello link) s)

/-- HELLO_RESEND (R422). -/
def execHelloResend (link : Nat) (s : State) : Host.Outcome State Fault Refusal :=
  .next (plainStep (doHelloResend link) s)

/-- DATA_PACKET_RECEIVE (R415). -/
def execDataPacketReceive (link : Nat) (s : State) (waits : List (Nat × Nat) := []) : Host.Outcome State Fault Refusal :=
  .next (plainStep (doDataPacketReceive link waits) s)

/-- RELEASED_SEND (R415). -/
def execReleasedSend (m : Nat) (s : State) : Host.Outcome State Fault Refusal :=
  .next (plainStep (doReleasedSend m) s)

/-- RELEASED (R428). -/
def execReleased (link : Nat) (s : State) : Host.Outcome State Fault Refusal :=
  .next (plainStep (doReleased link) s)

/-- READ_REQ (R417). -/
def execReadReq (m : Nat) (s : State) (waits : List (Nat × Nat) := []) : Host.Outcome State Fault Refusal :=
  .next (plainStep (doReadReq m waits) s)

/-- READ_RESP (R417). -/
def execReadResp (m : Nat) (s : State) (waits : List (Nat × Nat) := []) : Host.Outcome State Fault Refusal :=
  .next (plainStep (doReadResp m waits) s)

/-- ROUTE_HOLD_EXPIRE (R423). -/
def execRouteHoldExpire (m : Nat) (s : State) : Host.Outcome State Fault Refusal :=
  .next (plainStep (doRouteHoldExpire m) s)

/-- MCAST_RESERVE (R426). -/
def execMcastReserve (link : Nat) (s : State) : Host.Outcome State Fault Refusal :=
  .next (plainStep (doMcastReserve link) s)

/-- MCAST_GRANT (R426). -/
def execMcastGrant (link : Nat) (s : State) : Host.Outcome State Fault Refusal :=
  .next (plainStep (doMcastGrant link) s)

/-- MCAST_RELEASE (R427). -/
def execMcastRelease (link : Nat) (s : State) : Host.Outcome State Fault Refusal :=
  .next (plainStep (doMcastRelease link) s)

/-- MCAST_GRANT_TIMEOUT (R427). -/
def execMcastGrantTimeout (id : BitVec 32) (s : State) : Host.Outcome State Fault Refusal :=
  .next (plainStep (doMcastGrantTimeout id) s)

end Sys2Proof.Machine
end

