-- ==== Sys2Proof/Machine/ExecOps.lean ====
section
/-!
DEFINITION. Sys2Proof/Machine/ExecOps.lean: what each command of operations and graphs (chapters 05 to 08 and 13) does.
-/
namespace Sys2Proof.Machine

/-- LAUNCH_OP (R350). -/
def execLaunchOp (slot : Nat) (s : State) : Host.Outcome State Fault Refusal :=
  .next (plainStep (doLaunchOp slot) s)

/-- LAUNCH_GRAPH (R351). -/
def execLaunchGraph (slot : Nat) (s : State) : Host.Outcome State Fault Refusal :=
  .next (plainStep (doLaunchGraph slot) s)

/-- GRAPH_NODE_DONE (R351). -/
def execGraphNodeDone (slot : Nat) (stalls : Stalls) (sums : List RemoteSum) (s : State) : Host.Outcome State Fault Refusal :=
  .next (plainStep (doGraphNodeDone slot stalls sums) s)

/-- DRAIN (R136). -/
def execDrain (slot : Nat) (s : State) : Host.Outcome State Fault Refusal :=
  .next (plainStep (doDrain slot) s)

/-- OPERATION_START (R144). -/
def execOperationStart (slot : Nat) (s : State) : Host.Outcome State Fault Refusal :=
  .next (plainStep (doOperationStart slot) s)

/-- TIMED_START (R56). -/
def execTimedStart (slot : Nat) (s : State) : Host.Outcome State Fault Refusal :=
  .next (plainStep (doTimedStart slot) s)

/-- ARRAY_OP_DONE (R136). -/
def execArrayOpDone (n : Nat) (stalls : Stalls) (sums : List RemoteSum) (s : State) : Host.Outcome State Fault Refusal :=
  .next (plainStep (doArrayOpDone n stalls sums) s)

/-- VECTOR_OP_DONE (R211). -/
def execVectorOpDone (n : Nat) (stalls : Stalls) (s : State) : Host.Outcome State Fault Refusal :=
  .next (plainStep (doVectorOpDone n stalls) s)

end Sys2Proof.Machine
end

