-- ==== Sys2Proof/Machine/RegWrite.lean ====
section
/-!
DEFINITION. Sys2Proof/Machine/RegWrite.lean: writes of BAR0 registers (R10, R99 to R107, R110, R519, R521, R522, R531), commits and
discards (R103, R104), JTAG's REG_ACCESS (R492), and the host reads that no row gives (R48, R519, R531).
-/
namespace Sys2Proof.Machine

/-! ### Configuration ports (R99, R103, R104, R110) -/

/-- A write waits at the port of an instance that an image commit has snapshotted. -/
def holdWrite (s : State) (i : Inst) (off : Nat) (w : BitVec 64) : State :=
  setInst s { instOf s i with held := (instOf s i).held ++ [(off, w)] }

/-- A configuration register is written: live and frozen fields act by their class, and staged ones go to the shadow, or
wait at a held port. A frozen write is ignored whole (R106). -/
def configWrite (s : State) (off : Nat) (d : RegDesc) (w : BitVec 64) : State :=
  if holdsInst s d.inst ∧ d.staged ≠ 0 ∧ isFrozenWrite s off d w = false then
    holdWrite (if d.live + d.frozen = 0 then s else writeCell s off { d with staged := 0 } w) d.inst off w
  else writeCell s off d w

/-- A write of the commit register of instance i: DISCARD in bit 1, COMMIT in bit 0. -/
def commitWrite (s : State) (i : Inst) (w : BitVec 64) : State :=
  let discards := bitOf w.toNat 1
  if !discards && !bitOf w.toNat 0 then s
  else if holdsInst s i then holdWrite s i ((commitOffset i).getD 0) w
  else if discards then discard s i
  else snapshot s i

/-- BAR0 takes a write here: the module answers, and PERST# does not hold the functions. -/
def hostOpen (s : State) (off : Nat) : Bool := barOpen s off && !s.power.perst

/-- COMMIT to the commit register at off. -/
def doCommit (off : Nat) (s : State) : State :=
  match commitInst s.fuse.grade off with
  | some i => if hostOpen s off then commitWrite s i 1#64 else s
  | none => s

/-- DISCARD to the commit register at off. -/
def doDiscard (off : Nat) (s : State) : State :=
  match commitInst s.fuse.grade off with
  | some i => if hostOpen s off then commitWrite s i 2#64 else s
  | none => s

/-! ### Registers that act (R55, R58, R187, R261, R339, R359, R381, R405, R434, R454, R491, R493, R494, R502, R551, R553) -/

/-- A write-one-to-clear of FROZEN_SEEN (R105). -/
def clearFrozen (s : State) (i : Inst) (w : BitVec 64) : State :=
  if bitOf w.toNat 8 then setInst s { instOf s i with seen := false, lastStatus := 0 } else s

def pwrCtrlWrite (s : State) (w : BitVec 64) : State :=
  match regDesc s 0x2208 with
  | none => s
  | some d =>
    let confirm := BitVec.ofNat 32 (fld w.toNat 63 32)
    if bitOf w.toNat 0 then
      if confirm = offWord then doPowerOff confirm (keepSupply s (applyBoundary (writeCell s 0x2208 d w) .pwr)) else s
    else keepSupply s (writeCell s 0x2208 d w)

def pwrResetWrite (s : State) (w : BitVec 64) : State :=
  if bitOf w.toNat 0 then doPartitionReset (fld w.toNat 21 16) s
  else if bitOf w.toNat 1 then doCoreReset (fld w.toNat 42 32) s
  else s

def queueCtrlWrite (s : State) (q : Nat) (w : BitVec 64) : State :=
  let s1 := doQueueStop q (bitOf w.toNat 0) s
  if bitOf w.toNat 2 then doQueueReset q s1 else s1

def breakWrite (s : State) (off : Nat) (d : RegDesc) (w : BitVec 64) : State :=
  let n := (off - 0xD00800) / 0x10
  let s1 := applyBoundary (writeCell s off d w) .dbg
  if bitOf w.toNat 61 then doStep n s1 else if bitOf w.toNat 62 then doResume n s1 else s1

def perfCtrlWrite (s : State) (w : BitVec 64) : State :=
  let s1 := doFreeze (bitOf w.toNat 0) s
  if bitOf w.toNat 1 then doClear s1 else s1

/-- A new address of the curve record: the run loads it at its next step boundary (R261). -/
def curveWrite (s : State) (n off : Nat) (d : RegDesc) (w : BitVec 64) : State :=
  let s1 := writeCell s off d w
  match (anlOf s1 n).run with
  | some r => setAnl s1 n { anlOf s1 n with run := some { r with newCurve := true } }
  | none => s1

/-- A BAR4 segment's mapping (R522). -/
def segWrite (s : State) (off : Nat) (d : RegDesc) (w : BitVec 64) : State :=
  let base := fld w.toNat 47 0
  if base % segBytes s = 0 ∧ base + segBytes s ≤ 0x020000000000 then writeCell s off d w
  else countErr s errHost catProtocol

/-- The write-one-to-clear fields outside the status registers. -/
def clearWrite (s : State) (off : Nat) (w : BitVec 64) : State :=
  if 0x410000 ≤ off ∧ off < 0x414000 ∧ off % 0x100 = 8 then
    let n := (off - 0x410000) / 0x100
    if bitOf w.toNat 0 then setPart s n { partOf s n with qnt := { (partOf s n).qnt with seen := false } } else s
  else if 0x600000 ≤ off ∧ off < 0x600000 + 0x40 * logicalCores s ∧ off % 0x40 = 0x18 then
    let c := (off - 0x600000) / 0x40
    setBank s c { bankOf s c with failBanks := (bankOf s c).failBanks &&& ~~~(BitVec.ofNat 4 (fld w.toNat 23 20)) }
  else if off = 0xA04008 then { s with net := { s.net with routeLost := s.net.routeLost &&& ~~~w } }
  else s

/-- A write of a register that has no writable configuration field. -/
def actionWrite (s : State) (off : Nat) (w : BitVec 64) : State :=
  match commitInst s.fuse.grade off with
  | some i => commitWrite s i w
  | none =>
    match statusInst s.fuse.grade off with
    | some i => clearFrozen s i w
    | none =>
      if off = 0x0110 then doDevTimeSnap w s
      else if off = 0x2210 then pwrResetWrite s w
      else if off = 0x4208 then doMsgHeadWrite (BitVec.ofNat 32 w.toNat) s
      else if 0x508000 ≤ off ∧ off < 0x509000 ∧ off % 0x40 = 8 then doCqHeadWrite ((off - 0x508000) / 0x40) (BitVec.ofNat 32 w.toNat) s
      else if 0x700000 ≤ off ∧ off < 0x700000 + 0x800 * logicalCores s ∧ off % 0x800 = 0x510 then
        doHostSignal ((off - 0x700000) / 0x800) w s
      else clearWrite s off w

/-- A write of a register other than PWR_CTRL, below the shadow view. -/
def otherWrite (s : State) (off : Nat) (w : BitVec 64) : State :=
  match regDesc s off with
  | none => actionWrite s off w
  | some d =>
    match d.inst with
    | .ent => doEntCtrlWrite w s
    | .anl n => curveWrite s n off d w
    | .fe => if off < 0x508000 ∧ off % 0x40 = 0x18 then queueCtrlWrite s ((off - 0x500000) / 0x40) w else configWrite s off d w
    | .dbg =>
      if off = 0xD00000 then perfCtrlWrite s w
      else if off = 0xD00008 then doPeek w s
      else breakWrite s off d w
    | .hst => if segReg 0 ≤ off ∧ off < segReg 16 then segWrite s off d w else configWrite s off d w
    | _ => configWrite s off d w

/-- A write of the register at BAR0 offset off. -/
def registerWrite (s : State) (off : Nat) (w : BitVec 64) : State :=
  if off = 0x2208 then pwrCtrlWrite s w else keepSupply s (otherWrite s off w)

/-- A write through the shadow view (R102): it acts as at the register, but a frozen one is recorded where it was made
(R105). -/
def shadowWrite (s : State) (off : Nat) (w : BitVec 64) : State :=
  match regDesc s (off - shadowBase) with
  | none => registerWrite s (off - shadowBase) w
  | some d =>
    if isFrozenWrite s (off - shadowBase) d w then keepSupply s (frozenWrite s d.inst off)
    else registerWrite s (off - shadowBase) w

/-- An aligned 8-byte write of BAR0 (R102, R519). -/
def barWrite (s : State) (off : Nat) (w : BitVec 64) : State :=
  if !barOpen s off then s
  else if off < shadowBase then registerWrite s off w
  else if off < 2 * shadowBase then shadowWrite s off w
  else s

/-! ### MSI-X structures (R531) -/

def msixBase : Nat := 0xF80000

/-- The bytes of one table entry as a number, and an entry from them: address, data and vector control. -/
def msixWord (x : MsixEntry) : Nat := put x.addr.toNat 63 0 + put x.data.toNat 95 64 + put (boolBit x.masked) 96 96

/-- A write of 4 or 8 aligned bytes of a function's table; unmasking a vector sends its pending message. -/
def msixWrite (s : State) (port off size : Nat) (data : BitVec 64) : State :=
  let o := off - msixBase
  if 0x8000 ≤ o ∨ ¬ (size = 4 ∨ size = 8) ∨ off % size ≠ 0 then s
  else
    let v := o / 16
    let b := 8 * (o % 16)
    let x := msixOf s port v
    let n := setFld (msixWord x) (b + 8 * size - 1) b data.toNat
    let y := { x with addr := BitVec.ofNat 64 n, data := BitVec.ofNat 32 (fld n 95 64), masked := bitOf n 96 }
    let s1 := setMsix s port v y
    if y.pending ∧ !y.masked then sendVector s1 port v else s1

/-! ### The rows -/

/-- A host write of `size` bytes through port p at BAR0 offset off. -/
def doRegisterWrite (port off size : Nat) (data : BitVec 64) (s : State) : State :=
  if 2 ≤ port ∨ hostOpen s off = false then s
  else if msixBase ≤ off ∧ off < msixBase + 0x8100 then keepSupply s (msixWrite s port off size data)
  else if size ≠ 8 ∨ off % 8 ≠ 0 then keepSupply s (countErr s errHost catProtocol)
  else barWrite s off data

/-- An Update-DR of JTAG's REG_ACCESS: a write, or a read whose data the next capture returns. -/
def doRegAccess (write : Bool) (sel : BitVec 23) (data : BitVec 64) (s : State) : State :=
  let off := 8 * sel.toNat
  if write then barWrite s off data
  else
    let r := barRead s off
    keepSupply s { r.2 with dbg := { r.2.dbg with jtagData := BitVec.ofNat 64 r.1 } }

/-! ### Reads that no row of the command table gives (R48, R519, R531; log entry 13) -/

/-- A read of 4 or 8 aligned bytes of a function's table or pending bits. -/
def msixRead (s : State) (port off size : Nat) : Nat :=
  let o := off - msixBase
  if ¬ (size = 4 ∨ size = 8) ∨ off % size ≠ 0 then 0
  else if o < 0x8000 then fld (msixWord (msixOf s port (o / 16))) (8 * (o % 16 + size) - 1) (8 * (o % 16))
  else (List.range (8 * size)).foldl (fun n b => n + put (boolBit (msixOf s port (8 * (o - 0x8000) + b)).pending) b b) 0

/-- A 4-byte read of BAR0: half of the register, where each half of DEV_SOLSTICE has its own rule. -/
def halfRead (s : State) (off : Nat) : Nat × State :=
  if off = 0x100 ∨ off = 0x104 then solsticeHalf (off == 0x104) s
  else
    let r := barRead s (off - off % 8)
    (fld r.1 (8 * (off % 8) + 31) (8 * (off % 8)), r.2)

/-- A host read of `size` bytes of BAR0 through port p: one of an unserved size or alignment returns zero and counts. -/
def hostRead (s : State) (port off size : Nat) : Nat × State :=
  if 2 ≤ port ∨ hostOpen s (off - off % 8) = false then (0, s)
  else if msixBase ≤ off ∧ off < msixBase + 0x8100 then (msixRead s port off size, s)
  else if size = 8 ∧ off % 8 = 0 then barRead s off
  else if size = 4 ∧ off % 4 = 0 then halfRead s off
  else (0, countErr s errHost catProtocol)

end Sys2Proof.Machine
end

