-- ==== Sys2Proof/Machine/ExecRegs.lean ====
section
/-!
DEFINITION. Sys2Proof/Machine/ExecRegs.lean: what each command of
registers, the image and core banks (chapters 03, 04, 14 and 19) does.
-/
namespace Sys2Proof.Machine

/-- SESSION_ENTRY_LATCH (R308). -/
def execSessionEntryLatch (id : Nat) (s : State) : Host.Outcome State Fault Refusal :=
  .next (plainStep (doSessionEntryLatch id) s)

/-- BANK_STATUS_READ (R381). -/
def execBankStatusRead (c : Nat) (s : State) : Host.Outcome State Fault Refusal :=
  .next (plainStep (doBankStatusRead c) s)

/-- REGISTER_WRITE (R99). -/
def execRegisterWrite (port off size : Nat) (data : BitVec 64) (s : State) : Host.Outcome State Fault Refusal :=
  .next (poweredStep (doRegisterWrite port off size data) s)

/-- COMMIT (R104). -/
def execCommit (off : Nat) (s : State) : Host.Outcome State Fault Refusal :=
  .next (plainStep (doCommit off) s)

/-- DISCARD (R103). -/
def execDiscard (off : Nat) (s : State) : Host.Outcome State Fault Refusal :=
  .next (plainStep (doDiscard off) s)

/-- IMAGE_LOAD (R84). -/
def execImageLoad (slot : Nat) (s : State) : Host.Outcome State Fault Refusal :=
  .next (plainStep (doImageLoad slot) s)

/-- IMAGE_COMMIT (R89). -/
def execImageCommit (slot : Nat) (s : State) : Host.Outcome State Fault Refusal :=
  .next (plainStep (doImageCommit slot) s)

/-- IMAGE_COMMIT_APPLY (R91). -/
def execImageCommitApply (s : State) : Host.Outcome State Fault Refusal :=
  .next (plainStep doImageCommitApply s)

/-- IMAGE_LOAD_DONE (R85). -/
def execImageLoadDone (slot : Nat) (s : State) : Host.Outcome State Fault Refusal :=
  .next (plainStep (doImageLoadDone slot) s)

/-- BANK_HANDOVER (R371). -/
def execBankHandover (c : Nat) (s : State) : Host.Outcome State Fault Refusal :=
  .next (plainStep (doBankHandover c) s)

/-- BANK_TEST_REGION (R377). -/
def execBankTestRegion (c bank : Nat) (fails : Bool) (s : State) : Host.Outcome State Fault Refusal :=
  .next (plainStep (doBankTestRegion c bank fails) s)

/-- REG_ACCESS (R492). -/
def execRegAccess (write : Bool) (sel : BitVec 23) (data : BitVec 64) (s : State) : Host.Outcome State Fault Refusal :=
  .next (poweredStep (doRegAccess write sel data) s)

end Sys2Proof.Machine
end

