-- ==== Sys2Proof/Machine/ExecSessions.lean ====
section
/-!
DEFINITION. Sys2Proof/Machine/ExecSessions.lean: what each command of sessions and decode (chapter 12) does.
-/
namespace Sys2Proof.Machine

/-- SESSION_CREATE (R310). -/
def execSessionCreate (slot : Nat) (s : State) : Host.Outcome State Fault Refusal :=
  .next (plainStep (doSessionCreate slot) s)

/-- SESSION_DESTROY (R312). -/
def execSessionDestroy (slot : Nat) (s : State) : Host.Outcome State Fault Refusal :=
  .next (plainStep (doSessionDestroy slot) s)

/-- SESSION_HOT (R316). -/
def execSessionHot (slot : Nat) (s : State) : Host.Outcome State Fault Refusal :=
  .next (plainStep (doSessionHot slot) s)

/-- SESSION_COLD (R317). -/
def execSessionCold (slot : Nat) (s : State) : Host.Outcome State Fault Refusal :=
  .next (plainStep (doSessionCold slot) s)

/-- SESSION_MOVE_DONE (R318). -/
def execSessionMoveDone (id : Nat) (stalls : Stalls) (s : State) : Host.Outcome State Fault Refusal :=
  .next (plainStep (doSessionMoveDone id stalls) s)

/-- MIGRATE (R327). -/
def execMigrate (slot : Nat) (s : State) : Host.Outcome State Fault Refusal :=
  .next (plainStep (doMigrate slot) s)

/-- DECODE (R321). -/
def execDecode (slot : Nat) (s : State) : Host.Outcome State Fault Refusal :=
  .next (plainStep (doDecode slot) s)

/-- DECODE_DRAIN (R322). -/
def execDecodeDrain (n : Nat) (poisoned : List Nat) (stalls : Stalls) (s : State) : Host.Outcome State Fault Refusal :=
  .next (plainStep (doDecodeDrain n poisoned stalls) s)

end Sys2Proof.Machine
end

