-- ==== Sys2Proof/Machine/ExecSupply.lean ====
section
/-!
DEFINITION. Sys2Proof/Machine/ExecSupply.lean: what each command of
supplies, boot, resets and retirement (chapters 20, 22 and 23) does.
-/
namespace Sys2Proof.Machine

/-- COLD_START (R538). -/
def execColdStart (s : State) : Host.Outcome State Fault Refusal :=
  .next (supplyStep doColdStart s)

/-- MAIN_GOOD (R558). -/
def execMainGood (s : State) : Host.Outcome State Fault Refusal :=
  .next (supplyStep doMainGood s)

/-- STANDBY_POWER_FAIL (R558). -/
def execStandbyPowerFail (s : State) : Host.Outcome State Fault Refusal :=
  .next (supplyStep doStandbyPowerFail s)

/-- MAIN_DIP_TIMEOUT (R540). -/
def execMainDipTimeout (s : State) : Host.Outcome State Fault Refusal :=
  .next (supplyStep doMainDipTimeout s)

/-- MAIN_UNDERVOLTAGE (R557). -/
def execMainUndervoltage (s : State) : Host.Outcome State Fault Refusal :=
  .next (supplyStep doMainUndervoltage s)

/-- POWER_OFF (R551). -/
def execPowerOff (confirm : BitVec 32) (s : State) : Host.Outcome State Fault Refusal :=
  .next (supplyStep (doPowerOff confirm) s)

/-- I3C_WAKE (R561). -/
def execI3cWake (s : State) : Host.Outcome State Fault Refusal :=
  .next (supplyStep doI3cWake s)

/-- I3C_OFF (R561). -/
def execI3cOff (bytes : BitVec 32) (s : State) : Host.Outcome State Fault Refusal :=
  .next (supplyStep (doI3cOff bytes) s)

/-- I3C_READ (R561). -/
def execI3cRead (sel : BitVec 24) (s : State) : Host.Outcome State Fault Refusal :=
  .next (supplyStep (doI3cRead sel) s)

/-- BOOT_STEP_DONE (R542). -/
def execBootStepDone (brings : Boot) (s : State) : Host.Outcome State Fault Refusal :=
  .next (supplyStep (doBootStepDone brings) s)

/-- PERST_ASSERT (R545). -/
def execPerstAssert (s : State) : Host.Outcome State Fault Refusal :=
  .next (supplyStep doPerstAssert s)

/-- PERST_DEASSERT (R549). -/
def execPerstDeassert (s : State) : Host.Outcome State Fault Refusal :=
  .next (supplyStep doPerstDeassert s)

/-- FLR (R550). -/
def execFlr (port : Nat) (s : State) : Host.Outcome State Fault Refusal :=
  .next (supplyStep (doFlr port) s)

/-- PARTITION_RESET (R547). -/
def execPartitionReset (n : Nat) (s : State) : Host.Outcome State Fault Refusal :=
  .next (plainStep (doPartitionReset n) s)

/-- CORE_RESET (R548). -/
def execCoreReset (c : Nat) (s : State) : Host.Outcome State Fault Refusal :=
  .next (plainStep (doCoreReset c) s)

/-- CORE_RETIRE (R510). -/
def execCoreRetire (slot : Option Nat) (core : Nat) (s : State) : Host.Outcome State Fault Refusal :=
  .next (plainStep (doCoreRetire slot core) s)

end Sys2Proof.Machine
end

