-- ==== Sys2Proof/Machine/ExecSync.lean ====
section
/-!
DEFINITION. Sys2Proof/Machine/ExecSync.lean: what each command of Equinox barriers and counters (chapter 15) does.
-/
namespace Sys2Proof.Machine

/-- ARRIVE (R387). -/
def execArrive (ctx m c b : Nat) (announce : Bool) (s : State) : Host.Outcome State Fault Refusal :=
  .next (plainStep (doArrive ctx m c b announce) s)

/-- PRODUCE (R395). -/
def execProduce (m c b n : Nat) (waits : List CtrWait) (s : State) (src : Option Nat := none) : Host.Outcome State Fault Refusal :=
  .next (plainStep (doCount false m c b n src waits) s)

/-- CONSUME (R395). -/
def execConsume (m c b n : Nat) (waits : List CtrWait) (s : State) (src : Option Nat := none) : Host.Outcome State Fault Refusal :=
  .next (plainStep (doCount true m c b n src waits) s)

/-- HOST_SIGNAL (R405). -/
def execHostSignal (c : Nat) (w : BitVec 64) (s : State) : Host.Outcome State Fault Refusal :=
  .next (plainStep (doHostSignal c w) s)

/-- RELEASE_RECEIVE (R388). -/
def execReleaseReceive (at_ m c b : Nat) (sense : Bool) (s : State) : Host.Outcome State Fault Refusal :=
  .next (plainStep (doReleaseReceive at_ m c b sense) s)

/-- REFUSAL_RECEIVE (R390). -/
def execRefusalReceive (ctx m c b : Nat) (s : State) : Host.Outcome State Fault Refusal :=
  .next (plainStep (doRefusalReceive ctx m c b) s)

/-- ANNOUNCE_APPLY (R416). -/
def execAnnounceApply (m : Nat) (s : State) (waits : List (Nat × Nat) := []) : Host.Outcome State Fault Refusal :=
  .next (plainStep (doAnnounceApply m waits) s)

/-- SYNC_FLIT_RECEIVE (R418). -/
def execSyncFlitReceive (link : Nat) (s : State) : Host.Outcome State Fault Refusal :=
  .next (plainStep (doSyncFlitReceive link) s)

end Sys2Proof.Machine
end

