-- ==== Sys2Proof/Machine/ExecTime.lean ====
section
/-!
DEFINITION. Sys2Proof/Machine/ExecTime.lean: what each command of the rate lock and the Solstice count (chapter 02) does.
-/
namespace Sys2Proof.Machine

/-- REFCLK156_LOSS (R562). -/
def execRefclk156Loss (s : State) : Host.Outcome State Fault Refusal :=
  .next (pinStep doRefclk156Loss s)

/-- REFCLK156_RETURN (R562). -/
def execRefclk156Return (s : State) : Host.Outcome State Fault Refusal :=
  .next (pinStep doRefclk156Return s)

/-- REFCLK100_LOSS (R562). -/
def execRefclk100Loss (s : State) : Host.Outcome State Fault Refusal :=
  .next (plainStep doRefclk100Loss s)

/-- RATE_LOCK_WINDOW (R36). -/
def execRateLockWindow (beats : List Nat) (limiting : BitVec 16) (s : State) : Host.Outcome State Fault Refusal :=
  .next (plainStep (doRateLockWindow beats limiting) s)

/-- RATE_SHORTFALL_REPEAT (R42). -/
def execRateShortfallRepeat (die : Nat) (s : State) : Host.Outcome State Fault Refusal :=
  .next (plainStep (doRateShortfallRepeat die) s)

/-- BEACON_SEND (R50). -/
def execBeaconSend (frac : Nat) (s : State) : Host.Outcome State Fault Refusal :=
  .next (plainStep (doBeaconSend frac) s)

/-- BEACON_RECEIVE (R424). -/
def execBeaconReceive (link frac : Nat) (s : State) : Host.Outcome State Fault Refusal :=
  .next (steppingStep (doBeaconReceive link frac) s)

/-- DELAY_REQ_SEND (R50). -/
def execDelayReqSend (link frac : Nat) (s : State) : Host.Outcome State Fault Refusal :=
  .next (plainStep (doDelayReqSend link frac) s)

/-- DELAY_REQ_RECEIVE (R424). -/
def execDelayReqReceive (link frac : Nat) (s : State) : Host.Outcome State Fault Refusal :=
  .next (plainStep (doDelayReqReceive link frac) s)

/-- DELAY_RESP_SEND (R424). -/
def execDelayRespSend (link frac : Nat) (s : State) : Host.Outcome State Fault Refusal :=
  .next (plainStep (doDelayRespSend link frac) s)

/-- DELAY_RESP_RECEIVE (R424). -/
def execDelayRespReceive (link frac : Nat) (s : State) : Host.Outcome State Fault Refusal :=
  .next (plainStep (doDelayRespReceive link frac) s)

/-- BEACON_LOSS (R52). -/
def execBeaconLoss (reachable : BitVec 64) (s : State) : Host.Outcome State Fault Refusal :=
  .next (plainStep (doBeaconLoss reachable) s)

/-- SYNC_OUT_PULSE (R55). -/
def execSyncOutPulse (s : State) : Host.Outcome State Fault Refusal :=
  .next (plainStep doSyncOutPulse s)

/-- SYNC_IN_EDGE (R55). -/
def execSyncInEdge (s : State) : Host.Outcome State Fault Refusal :=
  .next (plainStep doSyncInEdge s)

/-- DEV_TIME_SNAP (R58). -/
def execDevTimeSnap (tag : BitVec 64) (s : State) : Host.Outcome State Fault Refusal :=
  .next (plainStep (doDevTimeSnap tag) s)

/-- SOLSTICE_LOW_READ (R48). -/
def execSolsticeLowRead (s : State) (high : Bool := false) : Host.Outcome State Fault Refusal :=
  .next (plainStep (doSolsticeLowRead high) s)

end Sys2Proof.Machine
end

