-- ==== Sys2Proof/Machine/Dispatch.lean ====
section
/-!
DEFINITION. Sys2Proof/Machine/Dispatch.lean: which meaning a command has.
-/
namespace Sys2Proof.Machine

/-- The effect of command i on everything but the queue. -/
def exec (i : Instr) (s : State) : Host.Outcome State Fault Refusal :=
  match i with
  | .coldStart => Sys2Proof.Machine.execColdStart s
  | .mainGood => Sys2Proof.Machine.execMainGood s
  | .standbyPowerFail => Sys2Proof.Machine.execStandbyPowerFail s
  | .mainDipTimeout => Sys2Proof.Machine.execMainDipTimeout s
  | .mainUndervoltage => Sys2Proof.Machine.execMainUndervoltage s
  | .powerOff confirm => Sys2Proof.Machine.execPowerOff confirm s
  | .i3cWake => Sys2Proof.Machine.execI3cWake s
  | .i3cOff bytes => Sys2Proof.Machine.execI3cOff bytes s
  | .i3cRead sel => Sys2Proof.Machine.execI3cRead sel s
  | .bootStepDone brings => Sys2Proof.Machine.execBootStepDone brings s
  | .perstAssert => Sys2Proof.Machine.execPerstAssert s
  | .perstDeassert => Sys2Proof.Machine.execPerstDeassert s
  | .flr port => Sys2Proof.Machine.execFlr port s
  | .partitionReset n => Sys2Proof.Machine.execPartitionReset n s
  | .coreReset c => Sys2Proof.Machine.execCoreReset c s
  | .refclk156Loss => Sys2Proof.Machine.execRefclk156Loss s
  | .refclk156Return => Sys2Proof.Machine.execRefclk156Return s
  | .refclk100Loss => Sys2Proof.Machine.execRefclk100Loss s
  | .rateLockWindow beats limiting => Sys2Proof.Machine.execRateLockWindow beats limiting s
  | .rateShortfallRepeat die => Sys2Proof.Machine.execRateShortfallRepeat die s
  | .beaconSend frac => Sys2Proof.Machine.execBeaconSend frac s
  | .beaconReceive link frac => Sys2Proof.Machine.execBeaconReceive link frac s
  | .delayReqSend link frac => Sys2Proof.Machine.execDelayReqSend link frac s
  | .delayReqReceive link frac => Sys2Proof.Machine.execDelayReqReceive link frac s
  | .delayRespSend link frac => Sys2Proof.Machine.execDelayRespSend link frac s
  | .delayRespReceive link frac => Sys2Proof.Machine.execDelayRespReceive link frac s
  | .beaconLoss reachable => Sys2Proof.Machine.execBeaconLoss reachable s
  | .syncOutPulse => Sys2Proof.Machine.execSyncOutPulse s
  | .syncInEdge => Sys2Proof.Machine.execSyncInEdge s
  | .devTimeSnap tag => Sys2Proof.Machine.execDevTimeSnap tag s
  | .solsticeLowRead high => Sys2Proof.Machine.execSolsticeLowRead s high
  | .sessionEntryLatch id => Sys2Proof.Machine.execSessionEntryLatch id s
  | .bankStatusRead c => Sys2Proof.Machine.execBankStatusRead c s
  | .registerWrite port off size data => Sys2Proof.Machine.execRegisterWrite port off size data s
  | .commit off => Sys2Proof.Machine.execCommit off s
  | .discard off => Sys2Proof.Machine.execDiscard off s
  | .imageLoad slot => Sys2Proof.Machine.execImageLoad slot s
  | .imageCommit slot => Sys2Proof.Machine.execImageCommit slot s
  | .imageCommitApply => Sys2Proof.Machine.execImageCommitApply s
  | .doorbell q off size value => Sys2Proof.Machine.execDoorbell q off size value s
  | .queueFetch q losses => Sys2Proof.Machine.execQueueFetch q losses s
  | .slotMap => Sys2Proof.Machine.execSlotMap s
  | .slotHead slot => Sys2Proof.Machine.execSlotHead slot s
  | .queueStop q stop => Sys2Proof.Machine.execQueueStop q stop s
  | .queueReset q => Sys2Proof.Machine.execQueueReset q s
  | .nop slot => Sys2Proof.Machine.execNop slot s
  | .eventRecord slot => Sys2Proof.Machine.execEventRecord slot s
  | .eventWait slot => Sys2Proof.Machine.execEventWait slot s
  | .eventWaitTimeout q => Sys2Proof.Machine.execEventWaitTimeout q s
  | .waitGraph => Sys2Proof.Machine.execWaitGraph s
  | .copy slot => Sys2Proof.Machine.execCopy slot s
  | .fill slot => Sys2Proof.Machine.execFill slot s
  | .scrub slot => Sys2Proof.Machine.execScrub slot s
  | .launchOp slot => Sys2Proof.Machine.execLaunchOp slot s
  | .launchGraph slot => Sys2Proof.Machine.execLaunchGraph slot s
  | .graphNodeDone slot stalls sums => Sys2Proof.Machine.execGraphNodeDone slot stalls sums s
  | .drain slot => Sys2Proof.Machine.execDrain slot s
  | .operationStart slot => Sys2Proof.Machine.execOperationStart slot s
  | .timedStart slot => Sys2Proof.Machine.execTimedStart slot s
  | .arrayOpDone n stalls sums => Sys2Proof.Machine.execArrayOpDone n stalls sums s
  | .vectorOpDone n stalls => Sys2Proof.Machine.execVectorOpDone n stalls s
  | .anlLoad slot => Sys2Proof.Machine.execAnlLoad slot s
  | .anlLoadDone n stalls => Sys2Proof.Machine.execAnlLoadDone n stalls s
  | .anlRun slot => Sys2Proof.Machine.execAnlRun slot s
  | .anlStep n stalls => Sys2Proof.Machine.execAnlStep n stalls s
  | .anlPause slot => Sys2Proof.Machine.execAnlPause slot s
  | .anlResume slot => Sys2Proof.Machine.execAnlResume slot s
  | .anlFrost slot => Sys2Proof.Machine.execAnlFrost slot s
  | .anlRead slot => Sys2Proof.Machine.execAnlRead slot s
  | .anlSyncPoint n shares stalls => Sys2Proof.Machine.execAnlSyncPoint n shares stalls s
  | .anlExchTimeout n peer => Sys2Proof.Machine.execAnlExchTimeout n peer s
  | .endNotice link => Sys2Proof.Machine.execEndNotice link s
  | .pauseNotice link => Sys2Proof.Machine.execPauseNotice link s
  | .sessionCreate slot => Sys2Proof.Machine.execSessionCreate slot s
  | .sessionDestroy slot => Sys2Proof.Machine.execSessionDestroy slot s
  | .sessionHot slot => Sys2Proof.Machine.execSessionHot slot s
  | .sessionCold slot => Sys2Proof.Machine.execSessionCold slot s
  | .sessionMoveDone id stalls => Sys2Proof.Machine.execSessionMoveDone id stalls s
  | .migrate slot => Sys2Proof.Machine.execMigrate slot s
  | .decode slot => Sys2Proof.Machine.execDecode slot s
  | .decodeDrain n poisoned stalls => Sys2Proof.Machine.execDecodeDrain n poisoned stalls s
  | .disable slot => Sys2Proof.Machine.execDisable slot s
  | .enable slot => Sys2Proof.Machine.execEnable slot s
  | .retrain slot => Sys2Proof.Machine.execRetrain slot s
  | .setMaxLanes slot => Sys2Proof.Machine.execSetMaxLanes slot s
  | .prbsTest slot => Sys2Proof.Machine.execPrbsTest slot s
  | .arm slot => Sys2Proof.Machine.execArm slot s
  | .armTimeout slot => Sys2Proof.Machine.execArmTimeout slot s
  | .disarm slot => Sys2Proof.Machine.execDisarm slot s
  | .marchWindowEnd n => Sys2Proof.Machine.execMarchWindowEnd n s
  | .marchRecordReceive n window sigs final => Sys2Proof.Machine.execMarchRecordReceive n window sigs final s
  | .marchRecordTimeout n => Sys2Proof.Machine.execMarchRecordTimeout n s
  | .recordLog slot => Sys2Proof.Machine.execRecord slot s
  | .replayStop slot => Sys2Proof.Machine.execReplayStop slot s
  | .exportLog slot => Sys2Proof.Machine.execExport slot s
  | .importLog slot => Sys2Proof.Machine.execImport slot s
  | .playLog slot => Sys2Proof.Machine.execPlay slot s
  | .replayEntryApply n => Sys2Proof.Machine.execReplayEntryApply n s
  | .seed slot => Sys2Proof.Machine.execSeed slot s
  | .retest slot pass => Sys2Proof.Machine.execRetest slot pass s
  | .rawCapture slot => Sys2Proof.Machine.execRawCapture slot s
  | .programSlot slot => Sys2Proof.Machine.execProgramSlot slot s
  | .revokeSlot slot => Sys2Proof.Machine.execRevokeSlot slot s
  | .raiseMinSvn slot => Sys2Proof.Machine.execRaiseMinSvn slot s
  | .coreRetire slot core => Sys2Proof.Machine.execCoreRetire slot core s
  | .watchdogHang slot => Sys2Proof.Machine.execWatchdogHang slot s
  | .cqHeadWrite c value => Sys2Proof.Machine.execCqHeadWrite c value s
  | .msixSend ring => Sys2Proof.Machine.execMsixSend ring s
  | .bankHandover c => Sys2Proof.Machine.execBankHandover c s
  | .bankTestRegion c bank fails => Sys2Proof.Machine.execBankTestRegion c bank fails s
  | .bar4Read port off len faults waits => Sys2Proof.Machine.execBar4Read port off len faults waits s
  | .bar4Write port off data faults waits => Sys2Proof.Machine.execBar4Write port off data faults waits s
  | .hostAtomicop port off op size value waits => Sys2Proof.Machine.execHostAtomicop port off op size value s waits
  | .bar4Resize n => Sys2Proof.Machine.execBar4Resize n s
  | .arrive ctx m c b announce => Sys2Proof.Machine.execArrive ctx m c b announce s
  | .produce m c b n waits src => Sys2Proof.Machine.execProduce m c b n waits s src
  | .consume m c b n waits src => Sys2Proof.Machine.execConsume m c b n waits s src
  | .hostSignal c w => Sys2Proof.Machine.execHostSignal c w s
  | .releaseReceive at_ m c b sense => Sys2Proof.Machine.execReleaseReceive at_ m c b sense s
  | .refusalReceive ctx m c b => Sys2Proof.Machine.execRefusalReceive ctx m c b s
  | .announceApply m waits => Sys2Proof.Machine.execAnnounceApply m s waits
  | .frameSend link stall => Sys2Proof.Machine.execFrameSend link stall s
  | .frameReceive link decoded corrected lanes => Sys2Proof.Machine.execFrameReceive link decoded corrected lanes s
  | .fastRetrainDone link ok stall => Sys2Proof.Machine.execFastRetrainDone link ok stall s
  | .laneFail link good => Sys2Proof.Machine.execLaneFail link good s
  | .laneSwitch link stall => Sys2Proof.Machine.execLaneSwitch link stall s
  | .trainingDone link ok lanes => Sys2Proof.Machine.execTrainingDone link ok lanes s
  | .trainingRetry link => Sys2Proof.Machine.execTrainingRetry link s
  | .hello link => Sys2Proof.Machine.execHello link s
  | .helloResend link => Sys2Proof.Machine.execHelloResend link s
  | .dataPacketReceive link waits => Sys2Proof.Machine.execDataPacketReceive link s waits
  | .releasedSend m => Sys2Proof.Machine.execReleasedSend m s
  | .released link => Sys2Proof.Machine.execReleased link s
  | .readReq m waits => Sys2Proof.Machine.execReadReq m s waits
  | .readResp m waits => Sys2Proof.Machine.execReadResp m s waits
  | .routeHoldExpire m => Sys2Proof.Machine.execRouteHoldExpire m s
  | .mcastReserve link => Sys2Proof.Machine.execMcastReserve link s
  | .mcastGrant link => Sys2Proof.Machine.execMcastGrant link s
  | .mcastRelease link => Sys2Proof.Machine.execMcastRelease link s
  | .mcastGrantTimeout id => Sys2Proof.Machine.execMcastGrantTimeout id s
  | .syncFlitReceive link => Sys2Proof.Machine.execSyncFlitReceive link s
  | .entropyWindow n raw began => Sys2Proof.Machine.execEntropyWindow n raw began s
  | .conditionedBlock n => Sys2Proof.Machine.execConditionedBlock n s
  | .biasTrimCheck n ones => Sys2Proof.Machine.execBiasTrimCheck n ones s
  | .entropyWaitTimeout w => Sys2Proof.Machine.execEntropyWaitTimeout w s
  | .entCtrlWrite value => Sys2Proof.Machine.execEntCtrlWrite value s
  | .balanceWindow counts => Sys2Proof.Machine.execBalanceWindow counts s
  | .msgHeadWrite value => Sys2Proof.Machine.execMsgHeadWrite value s
  | .thresholdSpanEnd level unit cat => Sys2Proof.Machine.execThresholdSpanEnd level unit cat s
  | .sensorPeriodic values => Sys2Proof.Machine.execSensorPeriodic values s
  | .sensorLimit id value => Sys2Proof.Machine.execSensorLimit id value s
  | .heartbeat => Sys2Proof.Machine.execHeartbeat s
  | .dispatcherTakeover ns spare => Sys2Proof.Machine.execDispatcherTakeover ns s spare
  | .peek addr => Sys2Proof.Machine.execPeek addr s
  | .peekDone => Sys2Proof.Machine.execPeekDone s
  | .resume n => Sys2Proof.Machine.execResume n s
  | .step n => Sys2Proof.Machine.execStep n s
  | .clear => Sys2Proof.Machine.execClear s
  | .freeze freeze => Sys2Proof.Machine.execFreeze freeze s
  | .regAccess write sel data => Sys2Proof.Machine.execRegAccess write sel data s
  | .repetitionCountFailure n => Sys2Proof.Machine.execRepetitionCountFailure n s
  | .copyEngineDone slot faults waits => Sys2Proof.Machine.execCopyEngineDone slot faults waits s
  | .imageLoadDone slot => Sys2Proof.Machine.execImageLoadDone slot s
  | .hostCompletionReceive tag status ep data waits => Sys2Proof.Machine.execHostCompletionReceive tag status ep data s waits
  | .completionTimeout tag => Sys2Proof.Machine.execCompletionTimeout tag s
  | .configurationRequest port msix => Sys2Proof.Machine.execConfigurationRequest port msix s
  | .hostLinkUp port speed width flit => Sys2Proof.Machine.execHostLinkUp port speed width flit s
  | .prbsTestDone errs => Sys2Proof.Machine.execPrbsTestDone errs s
  | .rawCaptureDone raw => Sys2Proof.Machine.execRawCaptureDone raw s
  | .marchArmExchange slot key mask parts => Sys2Proof.Machine.execMarchArmExchange slot key mask parts s

end Sys2Proof.Machine
end

