-- ==== Sys2Proof/WellFormed.lean ====
section
/-!
DEFINITION. Sys2Proof/WellFormed.lean: the operands that a command may carry: units that the largest part has, and sizes that an
access may have.
-/
namespace Sys2Proof

/-- Stored bits of the longest codeword are 288, and a stack reports one of three severities (R456, R459). -/
def wfUpset (u : Upset) : Bool := u.flips.all (· < 288) && u.report < 3 && u.addr < 2 ^ 48

/-- The structures of R507. -/
def wfLoss (x : FeLoss) : Bool := 1 ≤ x.code && x.code ≤ 4 && x.id < 65536

def wfWait (w : EntWait) : Bool :=
  match w with
  | .vector n => n < 64
  | .run n => n < 64
  | .decode n => n < 64
  | .key => true

/-- 32 links, 16 stacks, and a flash region of 224 MiB (R542, R543). -/
def wfBoot (b : Boot) : Bool := b.lanes.length == 32 && b.repairs.all (fun r => r.1 < 16) && b.flash.length ≤ 224 * 2 ^ 20

/-- The command carries operands that a module of the largest grade could meet. -/
def Instr.wf (i : Instr) : Bool :=
  match i with
  | .coldStart => true
  | .mainGood => true
  | .standbyPowerFail => true
  | .mainDipTimeout => true
  | .mainUndervoltage => true
  | .powerOff _ => true
  | .i3cWake => true
  | .i3cOff _ => true
  | .i3cRead _ => true
  | .bootStepDone brings => wfBoot brings
  | .perstAssert => true
  | .perstDeassert => true
  | .flr port => port < 2
  | .partitionReset n => n < 64
  | .coreReset c => c < 1408
  | .refclk156Loss => true
  | .refclk156Return => true
  | .refclk100Loss => true
  | .rateLockWindow beats _ => beats.length == 16
  | .rateShortfallRepeat die => die < 16
  | .beaconSend frac => frac < 8
  | .beaconReceive link frac => link < 32 && frac < 8
  | .delayReqSend link frac => link < 32 && frac < 8
  | .delayReqReceive link frac => link < 32 && frac < 8
  | .delayRespSend link frac => link < 32 && frac < 8
  | .delayRespReceive link frac => link < 32 && frac < 8
  | .beaconLoss _ => true
  | .syncOutPulse => true
  | .syncInEdge => true
  | .devTimeSnap _ => true
  | .solsticeLowRead _ => true
  | .sessionEntryLatch id => id < 4096
  | .bankStatusRead c => c < 1408
  | .registerWrite port off size _ => port < 2 && off < 0x4000000 && 1 ≤ size && size ≤ 64
  | .commit off => off < 0x4000000
  | .discard off => off < 0x4000000
  | .imageLoad slot => slot < 32
  | .imageCommit slot => slot < 32
  | .imageCommitApply => true
  | .doorbell q off size _ => q < 512 && off < 4096 && 1 ≤ size && size ≤ 64
  | .queueFetch q losses => q < 512 && losses.all wfLoss
  | .slotMap => true
  | .slotHead slot => slot < 32
  | .queueStop q _ => q < 512
  | .queueReset q => q < 512
  | .nop slot => slot < 32
  | .eventRecord slot => slot < 32
  | .eventWait slot => slot < 32
  | .eventWaitTimeout q => q < 512
  | .waitGraph => true
  | .copy slot => slot < 32
  | .fill slot => slot < 32
  | .scrub slot => slot < 32
  | .launchOp slot => slot < 32
  | .launchGraph slot => slot < 32
  | .graphNodeDone slot _ _ => slot < 32
  | .drain slot => slot < 32
  | .operationStart slot => slot < 32
  | .timedStart slot => slot < 32
  | .arrayOpDone n _ _ => n < 64
  | .vectorOpDone n _ => n < 64
  | .anlLoad slot => slot < 32
  | .anlLoadDone n _ => n < 64
  | .anlRun slot => slot < 32
  | .anlStep n _ => n < 64
  | .anlPause slot => slot < 32
  | .anlResume slot => slot < 32
  | .anlFrost slot => slot < 32
  | .anlRead slot => slot < 32
  | .anlSyncPoint n _ _ => n < 64
  | .anlExchTimeout n peer => n < 64 && peer < 64
  | .endNotice link => link < 32
  | .pauseNotice link => link < 32
  | .sessionCreate slot => slot < 32
  | .sessionDestroy slot => slot < 32
  | .sessionHot slot => slot < 32
  | .sessionCold slot => slot < 32
  | .sessionMoveDone id _ => id < 4096
  | .migrate slot => slot < 32
  | .decode slot => slot < 32
  | .decodeDrain n _ _ => n < 64
  | .disable slot => slot < 32
  | .enable slot => slot < 32
  | .retrain slot => slot < 32
  | .setMaxLanes slot => slot < 32
  | .prbsTest slot => slot < 32
  | .arm slot => slot < 32
  | .armTimeout slot => slot < 32
  | .disarm slot => slot < 32
  | .marchWindowEnd n => n < 64
  | .marchRecordReceive n _ _ _ => n < 64
  | .marchRecordTimeout n => n < 64
  | .recordLog slot => slot < 32
  | .replayStop slot => slot < 32
  | .exportLog slot => slot < 32
  | .importLog slot => slot < 32
  | .playLog slot => slot < 32
  | .replayEntryApply n => n < 64
  | .seed slot => slot < 32
  | .retest slot _ => slot < 32
  | .rawCapture slot => slot < 32
  | .programSlot slot => slot < 32
  | .revokeSlot slot => slot < 32
  | .raiseMinSvn slot => slot < 32
  | .coreRetire slot core => (match slot with | some k => decide (k < 32) | none => true) && core < 1408
  | .watchdogHang slot => slot < 32
  | .cqHeadWrite c _ => c < 64
  | .msixSend ring => ring < 65
  | .bankHandover c => c < 1408
  | .bankTestRegion c bank _ => c < 1408 && bank < 4
  | .bar4Read port off len faults _ => port < 2 && off < 2 ^ 40 && 1 ≤ len && len ≤ 4096 && faults.all wfUpset
  | .bar4Write port off data faults _ => port < 2 && off < 2 ^ 40 && 1 ≤ data.length && faults.all wfUpset
  | .hostAtomicop port off op size _ _ => port < 2 && off < 2 ^ 40 && op < 3 && 1 ≤ size && size ≤ 16
  | .bar4Resize n => n < 5
  | .arrive ctx m c b _ => ctx < 5632 && m < 64 && c < 1408 && b < 32
  | .produce m c b n _ _ => m < 64 && c < 1408 && b < 32 && n < 2 ^ 32
  | .consume m c b n _ _ => m < 64 && c < 1408 && b < 32 && n < 2 ^ 32
  | .hostSignal c _ => c < 1408
  | .releaseReceive at_ m c b _ => at_ < 1408 && m < 64 && c < 1408 && b < 32
  | .refusalReceive ctx m c b => ctx < 5632 && m < 64 && c < 1408 && b < 32
  | .announceApply m _ => m < 64
  | .frameSend link _ => link < 32
  | .frameReceive link _ _ _ => link < 32
  | .fastRetrainDone link _ _ => link < 32
  | .laneFail link _ => link < 32
  | .laneSwitch link _ => link < 32
  | .trainingDone link _ _ => link < 32
  | .trainingRetry link => link < 32
  | .hello link => link < 32
  | .helloResend link => link < 32
  | .dataPacketReceive link _ => link < 32
  | .releasedSend m => m < 64
  | .released link => link < 32
  | .readReq m _ => m < 64
  | .readResp m _ => m < 64
  | .routeHoldExpire m => m < 64
  | .mcastReserve link => link < 32
  | .mcastGrant link => link < 32
  | .mcastRelease link => link < 32
  | .mcastGrantTimeout _ => true
  | .syncFlitReceive link => link < 32
  | .entropyWindow n _ _ => n < 32
  | .conditionedBlock n => n < 32
  | .biasTrimCheck n ones => n < 32 && ones ≤ 65536
  | .entropyWaitTimeout w => wfWait w
  | .entCtrlWrite _ => true
  | .balanceWindow counts => counts.length == 512
  | .msgHeadWrite _ => true
  | .thresholdSpanEnd level unit cat => level < 3 && unit < 1408 && cat < 4
  | .sensorPeriodic values => values.length == 22
  | .sensorLimit id _ => id < 22
  | .heartbeat => true
  | .dispatcherTakeover ns _ => ns ≤ 2000000
  | .peek _ => true
  | .peekDone => true
  | .resume n => n < 64
  | .step n => n < 64
  | .clear => true
  | .freeze _ => true
  | .regAccess _ _ _ => true
  | .repetitionCountFailure n => n < 32
  | .copyEngineDone slot faults _ => slot < 32 && faults.all wfUpset
  | .imageLoadDone slot => slot < 32
  | .hostCompletionReceive _ status _ _ _ => status < 3
  | .completionTimeout _ => true
  | .configurationRequest port _ => port < 2
  | .hostLinkUp port speed width _ => port < 2 && 1 ≤ speed && speed ≤ 6 && [1, 2, 4, 8, 16].contains width
  | .prbsTestDone _ => true
  | .rawCaptureDone _ => true
  | .marchArmExchange slot _ _ parts => slot < 32 && parts.all (fun p => decide (p.1 < 64))

end Sys2Proof
end

