-- ==== Sys2Proof/Safety.lean ====
section
/-!
DEFINITION. Sys2Proof/Safety.lean: what a good state is, in the terms that statements use: the canonical form of sparse
storage, a module in OFF, legal power states, a state in which nothing is left to do, and the end of a command.
-/
namespace Sys2Proof.Machine

/-! ### Canonical storage -/

/-- Keys rise strictly, and no entry equals d, which an unlisted key stands for. -/
abbrev canonical {α : Type} (d : α) (m : AMap α) : Prop :=
  m.Pairwise (fun x y => x.1 < y.1) ∧ ∀ x ∈ m, x.2 ≠ d

/-- The canonical form of memory: an unlisted byte reads as zero (R379, R542). -/
abbrev Memory.wf (m : List Host.Cell) : Prop := canonical 0#8 m

/-! ### Power (R537 to R542) -/

/-- In OFF the compute side holds nothing: memories, image, front end, partitions, sessions, synchronisation, links,
debug state, messages and outstanding reads are as a cold start leaves them (R540). -/
structure Dark (s : State) : Prop where
  mem : s.mem = []
  ecc : s.integ.ecc = []
  force : s.image.force = none
  staged : s.image.pending = []
  loading : s.image.loading = none
  committing : s.image.committing = none
  fe : s.fe = State.reset.fe
  parts : s.parts = []
  longs : s.longs = []
  vec : s.vec = []
  banks : s.banks = []
  ses : s.ses = State.reset.ses
  sync : s.sync = State.reset.sync
  net : s.net = State.reset.net
  dbg : s.dbg = State.reset.dbg
  messages : s.msg.queue = []
  reads : s.host.reads = []

/-- PWR_STATE.STATE and BOOT_STEP as R542 and R552 lay them out, and no power without both supplies (R539, R558). -/
structure PowerLegal (s : State) : Prop where
  state : s.power.state ≤ 3
  off : s.power.state = 0 → s.power.bootStep = 0
  booting : s.power.state = 1 → 1 ≤ s.power.bootStep ∧ s.power.bootStep ≤ 9
  active : s.power.state = 2 → s.power.bootStep = 10
  halted : s.power.state = 3 → s.power.bootStep = 1
  supplies : s.power.state ≠ 0 → s.power.standby = true ∧ s.power.mainGood = true

/-- The commands that a module in OFF takes: its supplies and pins, the management controller, the reference
clock and the sensors (R537). -/
def actsInOff (c : Instr) : Bool :=
  match c with
  | .coldStart | .mainGood | .standbyPowerFail | .mainDipTimeout | .mainUndervoltage | .powerOff _ | .i3cWake | .i3cOff _
  | .i3cRead _ | .bootStepDone _ | .perstAssert | .perstDeassert | .flr _ | .refclk156Loss | .refclk156Return
  | .sensorLimit _ _ => true
  | _ => false

/-! ### What commands may change -/

/-- A command that may take the module into OFF, boot it or reset it, or that is a register access (R537 to R549, R561). -/
def wholeModule (c : Instr) : Bool :=
  match c with
  | .coldStart .. | .standbyPowerFail .. | .mainDipTimeout .. | .mainUndervoltage .. | .powerOff .. | .i3cOff ..
  | .bootStepDone .. | .perstAssert .. | .flr .. | .registerWrite .. | .regAccess .. => true
  | _ => false

/-- A command that may change the rate lock (R38 to R46). -/
def mayChangeRate (c : Instr) : Bool :=
  wholeModule c || match c with
  | .rateLockWindow .. | .imageCommitApply .. | .entropyWaitTimeout .. => true
  | _ => false

/-- A command that may change the image in force, a load or a commit (R84 to R98). -/
def mayChangeImage (c : Instr) : Bool :=
  wholeModule c || match c with
  | .imageLoad .. | .imageCommit .. | .imageCommitApply .. | .readResp .. | .routeHoldExpire ..
  | .entropyWaitTimeout .. | .dispatcherTakeover .. | .imageLoadDone .. | .hostCompletionReceive ..
  | .completionTimeout .. => true
  | _ => false

/-- A command that may change what fuses and manufacture maps hold: image slots, retired rows, the good sources and dispatchers (R20, R83, R348, R439, R507, R509). -/
def mayChangeFuses (c : Instr) : Bool :=
  wholeModule c || match c with
  | .i3cRead .. | .retest .. | .programSlot .. | .revokeSlot .. | .raiseMinSvn .. | .coreRetire .. | .entropyWindow ..
  | .biasTrimCheck .. | .entropyWaitTimeout .. | .dispatcherTakeover .. | .repetitionCountFailure .. => true
  | _ => false

/-- A command that may change the session table and its latch (R307 to R332). -/
def mayChangeSessions (c : Instr) : Bool :=
  wholeModule c || match c with
  | .i3cRead .. | .partitionReset .. | .coreReset .. | .sessionEntryLatch .. | .imageCommitApply .. | .queueFetch ..
  | .sessionCreate .. | .sessionDestroy .. | .sessionHot .. | .sessionCold .. | .sessionMoveDone .. | .migrate ..
  | .decode .. | .decodeDrain .. | .marchWindowEnd .. | .marchRecordReceive .. | .coreRetire .. | .watchdogHang ..
  | .entropyWaitTimeout .. | .resume .. | .step .. => true
  | _ => false

/-- A command that may change a long register (R148). -/
def mayChangeLongs (c : Instr) : Bool :=
  wholeModule c || match c with
  | .partitionReset .. | .coreReset .. | .imageCommitApply .. | .queueFetch .. | .graphNodeDone .. | .arrayOpDone ..
  | .watchdogHang .. | .resume .. | .step .. => true
  | _ => false

/-- A command that may change the vector units (R213). -/
def mayChangeVector (c : Instr) : Bool :=
  wholeModule c || match c with
  | .partitionReset .. | .coreReset .. | .queueFetch .. | .graphNodeDone .. | .vectorOpDone .. | .watchdogHang ..
  | .entropyWaitTimeout .. | .resume .. | .step .. => true
  | _ => false

/-- A command that may change the clock state of the module: counts, latches and alignment (R47 to R58). -/
def mayChangeTime (c : Instr) : Bool :=
  wholeModule c || match c with
  | .i3cRead .. | .refclk156Loss .. | .refclk156Return .. | .beaconReceive .. | .delayRespReceive .. | .beaconLoss ..
  | .syncInEdge .. | .devTimeSnap .. | .solsticeLowRead .. | .imageCommitApply .. | .entropyWaitTimeout .. => true
  | _ => false

/-- A command whose effect stores no byte. -/
def storesNothing (c : Instr) : Bool :=
  match c with
  | .mainGood .. | .i3cWake .. | .i3cRead .. | .perstDeassert .. | .refclk156Loss .. | .refclk156Return ..
  | .refclk100Loss .. | .rateLockWindow .. | .rateShortfallRepeat .. | .beaconSend .. | .beaconReceive ..
  | .delayReqSend .. | .delayReqReceive .. | .delayRespSend .. | .delayRespReceive .. | .beaconLoss ..
  | .syncOutPulse .. | .syncInEdge .. | .devTimeSnap .. | .solsticeLowRead .. | .sessionEntryLatch ..
  | .bankStatusRead .. | .commit .. | .discard .. | .doorbell .. | .slotMap .. | .fill .. | .launchOp ..
  | .pauseNotice .. | .cqHeadWrite .. | .msixSend .. | .bar4Resize ..
  | .arrive .. | .produce .. | .consume .. | .hostSignal .. | .releaseReceive .. | .refusalReceive .. | .frameSend ..
  | .frameReceive .. | .fastRetrainDone .. | .laneFail .. | .laneSwitch .. | .trainingRetry .. | .helloResend ..
  | .releasedSend .. | .released .. | .mcastReserve .. | .mcastRelease .. | .syncFlitReceive .. | .entropyWindow ..
  | .conditionedBlock .. | .biasTrimCheck .. | .entCtrlWrite .. | .balanceWindow .. | .msgHeadWrite ..
  | .thresholdSpanEnd .. | .sensorPeriodic .. | .sensorLimit .. | .heartbeat .. | .peek .. | .clear .. | .freeze ..
  | .repetitionCountFailure .. | .configurationRequest .. | .hostLinkUp .. => true
  | _ => false

/-- A command that changes the links' state alone. -/
def netAlone (c : Instr) : Bool :=
  match c with
  | .beaconSend .. | .delayReqSend .. | .delayReqReceive .. | .delayRespSend .. | .helloResend .. | .releasedSend ..
  | .released .. | .mcastReserve .. | .mcastRelease .. => true
  | _ => false

/-- A command that changes clock state, and at most messages, error counts, the host port, the slots of armed commands (R57), the
free values drawn, and what goes to links or out. -/
def clockAlone (c : Instr) : Bool :=
  match c with
  | .beaconReceive .. | .delayRespReceive .. | .beaconLoss .. | .syncInEdge .. | .devTimeSnap .. | .solsticeLowRead ..
  | .refclk156Loss .. | .refclk156Return .. | .refclk100Loss .. | .rateShortfallRepeat .. | .sensorPeriodic ..
  | .sensorLimit .. => true
  | _ => false

/-- A command that changes links and synchronisation objects, and at most messages, error counts, events, front-end state and outputs. -/
def linkAlone (c : Instr) : Bool :=
  match c with
  | .frameSend .. | .frameReceive .. | .fastRetrainDone .. | .laneFail .. | .laneSwitch .. | .trainingRetry ..
  | .arrive .. | .produce .. | .consume .. | .hostSignal .. | .releaseReceive .. | .refusalReceive ..
  | .syncFlitReceive .. => true
  | _ => false

/-- A command that changes the front end, the host side, register cells and debug state, and at most messages, error counts and outputs. -/
def frontAlone (c : Instr) : Bool :=
  match c with
  | .doorbell .. | .slotMap .. | .fill .. | .launchOp .. | .heartbeat .. | .cqHeadWrite .. | .msgHeadWrite ..
  | .thresholdSpanEnd .. | .msixSend .. | .bar4Resize .. | .configurationRequest .. | .hostLinkUp .. | .clear ..
  | .freeze .. | .peek .. | .commit .. | .discard .. | .syncOutPulse .. => true
  | _ => false

/-- A command that changes entropy sources and the pool, and at most which sources are good, messages and error counts. -/
def sourceAlone (c : Instr) : Bool :=
  match c with
  | .entropyWindow .. | .conditionedBlock .. | .biasTrimCheck .. | .repetitionCountFailure .. => true
  | _ => false

/-! ### A state in which a step leaves nothing to do -/

/-- No reset waits, no field and no commit waits for a boundary that has come, no message, no record and no signal write
waits, and no queue stands at a command boundary that it has to meet. -/
structure Quiet (s : State) : Prop where
  resets : s.power.waiting = []
  cells : dueCells s = []
  commits : endedCommits s = []
  messages : s.msg.queue = []
  records : s.fe.holds = []
  signals : s.fe.dueEvents = []
  queues : ∀ x ∈ s.fe.queues, boundaryStep s x.1 = s

/-! ### The end of a command (R357, R359, R360) -/

/-- Slot k runs command c of queue q, which has opcode op, and nothing has been marked against it. -/
structure Running (s : State) (k q op : Nat) (c : Fetched) : Prop where
  cmd : (slotOf s k).cmd = some c
  queue : (slotOf s k).queue = some q
  state : (slotOf s k).state = 5
  flags : (slotOf s k).flags = []
  opcode : opcodeOf c.bits = op

/-- A record of c can be written at once: a dispatcher is left, no message waits, and the completion ring has space. -/
structure RecordFits (s : State) (c : Fetched) : Prop where
  dispatcher : noDispatcher s = false
  messages : s.msg.queue = []
  space : cqFull s c.cq = false

/-- Command c of queue q in slot k ends: the registers that keep its end note it, its record goes into its ring, unless it
is SILENT and OK, the signal write follows, and then the slot is free for the queue's next command. -/
def ended (s : State) (k q : Nat) (c : Fetched) (d : Done) : State :=
  let s1 := noteEnd s k (opcodeOf c.bits) d.status
  clearSlot (signalWrite
    (if isSilent c.bits ∧ d.status = stOk then s1 else writeRecord s1 c.cq (recordOf q c (slotOf s1 k) d)) (signalOf c)) k

/-- The command in slot k, of queue q with opcode op, is next to take partition n, which is free and not halted, and nothing has been
marked against it (R343, R489, R493). -/
structure MayTake (s : State) (k n q op : Nat) (c : Fetched) : Prop where
  cmd : (slotOf s k).cmd = some c
  queue : (slotOf s k).queue = some q
  state : (slotOf s k).state = 3
  flags : (slotOf s k).flags = []
  opcode : opcodeOf c.bits = op
  part : slotPart s k = n
  turn : turnOf s n = some k
  free : (partOf s n).holder = none
  launching : (partOf s n).launching = true
  runs : haltCause s n = 0
  noBreak : breakBefore s n q c = false

/-! ### Safe steps -/

/-- A step is safe when it answers a next state. -/
def SafeStep (s : State) : Prop := ∃ t, step s = .next t

end Sys2Proof.Machine
end

