-- ==== Sys2Proof/Certificates/Slice0/Obligations.lean ====
section
/-!
DEFINITION. Sys2Proof/Certificates/Slice0/Obligations.lean: what the model is claimed to do, one proposition for each claim. A
claim of a command's effect says that `exec` answers `next (stepEnd t)` and what t holds: `stepEnd` is what ends every command's
step (StepEndIsQuiet says when it leaves t as it is).
-/
open Sys2Proof Sys2Proof.Machine

/-! ### Steps (chapters 00 and 20) -/

/-- A step runs the command at the front of the queue on the state with the queue's rest; with no command one ns of the
module's reference passes while standby power is good: the Solstice count advances by one, and by none or two where the
steering has added up to a whole ns; nothing else changes but that sum (R47, R50; the tick is the model's choice, log
entry 3). -/
def Obligations.StepRunsFrontCommand : Prop :=
  (∀ (c : Instr) (rest : List Instr) (s : State), step { s with pending := c :: rest } = exec c { s with pending := rest }) ∧
  ∀ s : State, s.pending = [] →
    (s.power.standby = true → ∃ (n : Nat) (acc : Int), n ≤ 2 ∧
      step s = .next { s with time := { s.time with count := s.time.count + BitVec.ofNat 64 n, steerAcc := acc } } ∧
      acc + 1000000 * ((n : Int) - 1) = s.time.steerAcc + s.time.steer ∧
      (-1000000 < s.time.steerAcc + s.time.steer → s.time.steerAcc + s.time.steer < 1000000 → n = 1)) ∧
    (s.power.standby = false → step s = .next s)

/-- What ends a step changes nothing where nothing waits for it: no reset, no boundary, no message, no record, no queue.
-/
def Obligations.StepEndIsQuiet : Prop := ∀ t : State, Quiet t → stepEnd t = t

/-- Every command answers a next state, whatever the state: the device does not stop itself (R496). It leaves the queue
of commands, the grade, the stepping and the manufacture maps alone (R2, R3, R25, R26). -/
def Obligations.EveryCommandCompletes : Prop :=
  ∀ (c : Instr) (s : State), ∃ t, exec c s = .next t ∧ t.pending = s.pending ∧ t.fuse.grade = s.fuse.grade ∧
    t.fuse.stepping = s.fuse.stepping ∧ t.fuse.entFused = s.fuse.entFused ∧ t.fuse.dispFused = s.fuse.dispFused

/-! ### The counts (R47, R49, R51) -/

/-- The boot counter is incremented by a cold start alone and never falls (R49); no command but a cold start and the
join step of a beacon changes the Solstice count (R47, R51). -/
def Obligations.CountsChangeOnlyWhereLaidDown : Prop :=
  ∀ (c : Instr) (s t : State), exec c s = .next t →
    (c ≠ .coldStart → t.time.boots = s.time.boots ∧ t.time.exhausted = s.time.exhausted) ∧
    (c = .coldStart → s.time.boots.toNat ≤ t.time.boots.toNat) ∧
    (c ≠ .coldStart → (∀ l f, c ≠ .beaconReceive l f) → t.time.count = s.time.count)

/-! ### Power states (R537 to R540, R542) -/

/-- In OFF nothing runs but the management side: any other command changes nothing (R537). Only a cold start, the rise
of main-good and the I3C WAKE command leave OFF, and they leave it for BOOTING at the ROM step, with both supplies good
(R539, R542). -/
def Obligations.OffIsLeftOnlyByWaking : Prop :=
  (
  ∀ (c : Instr) (s : State), s.power.state = 0 → actsInOff c = false → exec c s = .next s) ∧ (
  ∀ (c : Instr) (s t : State), s.power.state = 0 → exec c s = .next t → t.power.state ≠ 0 →
    (c = .coldStart ∨ c = .mainGood ∨ c = .i3cWake) ∧ t.power.state = 1 ∧ t.power.bootStep = 1 ∧ t.power.standby = true ∧
      t.power.mainGood = true)

/-- The invariant of OFF: the compute side holds nothing there (R540). Every step keeps it. -/
def Obligations.OffIsDarkForever : Prop :=
  ∀ s t : State, (s.power.state = 0 → Dark s) → step s = .next t → t.power.state = 0 → Dark t

/-- The invariant of PWR_STATE: a legal state and step, and no power without both supplies (R537, R542, R552). Every
step keeps it. -/
def Obligations.PowerStaysLegal : Prop := ∀ s t : State, PowerLegal s → step s = .next t → PowerLegal t

/-- Both invariants hold right after a cold start, and so does the canonical form of memory. Right after a cold start:
count 0, AUTO_WAKE set, TRIM 0x30 of every die, RELOCKING, no image in force, every queue, slot and event empty, bank b
of every core owned by requester b (R38, R39, R47, R96, R352, R369, R538, R551). -/
def Obligations.ResetState : Prop :=
  (
  State.reset.power.state = 0 ∧ Dark State.reset ∧ PowerLegal State.reset ∧ Memory.wf State.reset.mem ∧ State.reset.pending = []) ∧ (
  State.reset.time.count = 0#64 ∧ autoWake State.reset = true ∧ State.reset.rate.relocking = true ∧
  State.reset.rate.rate = 0 ∧ State.reset.image.force = none ∧ State.reset.power.lastReset = 0 ∧ State.reset.power.lastOff = 0 ∧
  (∀ q, (queueOf State.reset q).readIndex = 0#32 ∧ (queueOf State.reset q).writeIndex = 0#32) ∧
  (∀ k, (slotOf State.reset k).cmd = none) ∧ (∀ e, eventOf State.reset e = 0#64) ∧
  (∀ d, (dieRateOf State.reset d).trim = 0x30) ∧ (∀ c b, b < 4 → bankOwner State.reset c b = b) ∧ (∀ a, memByte State.reset a = 0#8))

/-- A cold start: the boot counter is incremented, or holds its last value and sets EXHAUSTED after 1,048,576; the count
starts from zero, AUTO_WAKE is set, and the module enters OFF, which it leaves at once where the main input is good
(R49, R538, R539). A wake: main-good rising with AUTO_WAKE set, or the I3C WAKE command, leaves OFF for BOOTING; the
count and the boot counter keep, and the HPPR step will be skipped after an earlier boot (R539). In any other state I3C
WAKE is ignored (R561). Says of mainGood, coldStart, i3cWake that exec answers a next state, and which. -/
def Obligations.ColdStartsAndWakes : Prop :=
  (
  (∀ s : State, s.power.state = 0 → s.power.standby = false →
    exec .mainGood s = .next (stepEnd { s with power := { s.power with mainGood := true } })) ∧
  ∀ s : State, ∃ t, exec .coldStart s = .next (stepEnd t) ∧ t.time.count = 0#64 ∧ autoWake t = true ∧ t.power.standby = true ∧
    (s.time.boots.toNat < 1048576 → t.time.boots = s.time.boots + 1#32 ∧ t.time.exhausted = false) ∧
    (1048576 ≤ s.time.boots.toNat → t.time.boots = s.time.boots ∧ t.time.exhausted = true) ∧
    t.mem = [] ∧ t.image.force = none ∧ t.fe = State.reset.fe ∧
    (s.power.mainGood = false → t.power.state = 0) ∧
    (s.power.mainGood = true → t.power.state = 1 ∧ t.power.bootStep = 1 ∧ t.power.lastReset = 0)) ∧ (
  (∀ s : State, s.power.state = 0 → s.power.standby = true → s.power.mainGood = false → autoWake s = true →
    ∃ t, exec .mainGood s = .next (stepEnd t) ∧ t.power.state = 1 ∧ t.power.bootStep = 1 ∧ t.power.mainGood = true ∧
      t.power.coldBoot = s.power.coldBoot ∧ t.time = s.time ∧
      (s.power.coldBoot = false → t.power.lastReset = 1 ∧ t.power.wakes = satTo 16 (s.power.wakes + 1))) ∧
  (∀ s : State, s.power.state = 0 → s.power.standby = true → s.power.mainGood = true →
    ∃ t, exec .i3cWake s = .next (stepEnd t) ∧ t.power.state = 1 ∧ t.power.bootStep = 1 ∧ t.time = s.time ∧
      (s.power.coldBoot = false → t.power.lastReset = 1 ∧ t.power.wakes = satTo 16 (s.power.wakes + 1))) ∧
  (∀ s : State, s.power.state ≠ 0 → exec .i3cWake s = .next (stepEnd s)) ∧
  (∀ s : State, s.power.state = 0 → autoWake s = false →
    exec .mainGood s = .next (stepEnd { s with power := { s.power with mainGood := true } })))

/-- Entry to OFF: a fall of either supply, POWER_OFF with "POFF" and I3C OFF with the bytes "POFF" enter OFF at once,
everything of the compute side is lost, and LAST_OFF names the cause; another CONFIRM, or other bytes, are ignored
(R540, R551, R557, R558, R561). Says of standbyPowerFail, mainDipTimeout, mainUndervoltage, powerOff, i3cOff that exec
answers a next state, and which. -/
def Obligations.OffIsEnteredAtOnce : Prop :=
  (∀ s : State, s.power.state ≠ 0 →
    (∃ t, exec .standbyPowerFail s = .next t ∧ t.power.state = 0 ∧ Dark t ∧ t.power.standby = false ∧ t.time.count = s.time.count) ∧
    (∃ t, exec .mainDipTimeout s = .next t ∧ t.power.state = 0 ∧ Dark t ∧ t.power.lastOff = 1 ∧ t.time.count = s.time.count) ∧
    (∃ t, exec .mainUndervoltage s = .next t ∧ t.power.state = 0 ∧ Dark t ∧ t.power.lastOff = 1 ∧ t.time.count = s.time.count) ∧
    (∃ t, exec (.powerOff 0x46464F50#32) s = .next t ∧ t.power.state = 0 ∧ Dark t ∧ t.power.lastOff = 2 ∧
      t.time.count = s.time.count) ∧
    (s.power.standby = true → ∃ t, exec (.i3cOff 0x46464F50#32) s = .next t ∧ t.power.state = 0 ∧ Dark t ∧ t.power.lastOff = 3)) ∧
  (∀ (w : BitVec 32) (s : State), w ≠ 0x46464F50#32 →
    exec (.powerOff w) s = .next (stepEnd s) ∧ exec (.i3cOff w) s = .next (stepEnd s))

/-- The boot sequence: each step's end starts the next one, HPPR is left out after a wake, CLEAR empties every memory,
both boot firmware copies failing end in HALTED, and IMAGE without an image in flash ends in ACTIVE with the count
recorded (R542). Says of bootStepDone that exec answers a next state, and which. -/
def Obligations.BootRunsItsSteps : Prop :=
  ∀ (b : Boot) (s : State), s.power.state = 1 → ∃ t, exec (.bootStepDone b) s = .next (stepEnd t) ∧
    (s.power.bootStep = 1 → b.failsA = true → b.failsB = true → t.power.state = 3 ∧ t.power.bootStep = 1) ∧
    (s.power.bootStep = 1 → ¬(b.failsA = true ∧ b.failsB = true) →
      t.power.state = 1 ∧ t.power.bootStep = 2 ∧ t.power.romCopy = b.failsA) ∧
    (s.power.bootStep = 2 → t.power.bootStep = 3) ∧
    (s.power.bootStep = 3 → t.power.bootStep = if s.power.coldBoot then 4 else 5) ∧
    (s.power.bootStep = 4 → t.power.bootStep = 5) ∧
    (s.power.bootStep = 5 → t.power.bootStep = 6 ∧ t.mem = [] ∧ t.integ.ecc = []) ∧
    (s.power.bootStep = 6 → t.power.bootStep = 7 ∧ t.ent.thaw = true ∧ t.fuse.entGood = s.fuse.entFused) ∧
    (s.power.bootStep = 7 → t.power.bootStep = 8) ∧
    (s.power.bootStep = 8 → t.power.bootStep = 9) ∧
    (s.power.bootStep = 9 → s.power.perst = true → t = s) ∧
    (s.power.bootStep = 9 → s.power.perst = false → s.image.loading = none → s.image.committing = none → b.flash = [] →
      t.power.state = 2 ∧ t.power.bootStep = 10 ∧ t.power.bootTime = s.time.count)

/-! ### Resets (R545 to R550, R553) -/

/-- A warm reset and a function-level reset of an ACTIVE module reset queues, slots, events, sessions, synchronisation
objects and every partition, and keep memory, the image in force, fault captures and the count (R546). PERST# holds the
module in the IMAGE step until it is deasserted (R545, R549). Says of perstAssert, perstDeassert, flr that exec answers
a next state, and which. -/
def Obligations.DeviceResetsKeepMemory : Prop :=
  (∀ s : State, s.power.state = 2 → s.power.perst = false → ∃ t, exec .perstAssert s = .next (stepEnd t) ∧
    t.power.perst = true ∧ t.power.state = 1 ∧ t.power.bootStep = 9 ∧ t.power.lastReset = 2 ∧ t.mem = s.mem ∧
    t.image.force = s.image.force ∧ t.image.pending = [] ∧ t.fe.queues = [] ∧ t.fe.slots = [] ∧ t.fe.events = [] ∧
    t.fe.captures = s.fe.captures ∧ t.ses = State.reset.ses ∧ t.sync = State.reset.sync ∧ t.parts = [] ∧ t.longs = [] ∧
    t.time = s.time) ∧
  (∀ s : State, exec .perstDeassert s = .next (stepEnd { s with power := { s.power with perst := false } })) ∧
  (∀ (port : Nat) (s : State), port < 2 → s.power.state = 2 → s.power.perst = false → s.image.committing = none →
    ∃ t, exec (.flr port) s = .next (stepEnd t) ∧ t.power.state = 2 ∧ t.power.lastReset = 3 + port ∧ t.mem = s.mem ∧
      t.image.force = s.image.force ∧ t.image.pending = s.image.pending ∧ t.fe.queues = [] ∧ t.fe.slots = [] ∧ t.fe.events = [] ∧
      t.fe.captures = s.fe.captures ∧ t.ses = State.reset.ses ∧ t.sync = State.reset.sync ∧ t.parts = [] ∧ t.longs = [] ∧
      t.time = s.time)

/-- A partition reset that nothing holds up leaves the partition without a holder, with the reset values of its array,
scale and annealer registers, no problem loaded and no halt (R547); its bank contents stay. A core reset of a core in no
partition resets the core's bank counters and clears its long registers. A request that names no declared partition, or
no core, is ignored and counted in PROTOCOL of the CONFIG counter (R553). Says of partitionReset, coreReset that exec
answers a next state, and which. -/
def Obligations.PartitionAndCoreResets : Prop :=
  (∀ (n : Nat) (s : State), s.power.state ≠ 0 → s.power.waiting = [] → (partImg s n).isSome = true → structural s n = false →
    ∃ t, exec (.partitionReset n) s = .next (stepEnd t) ∧ (partOf t n).holder = none ∧ (partOf t n).op = none ∧
      (partOf t n).arr = part0.arr ∧ (partOf t n).qnt = part0.qnt ∧ (anlOf t n).prob = none ∧ (anlOf t n).run = none ∧
      haltCause t n = 0) ∧
  (∀ (c : Nat) (s : State), s.power.state ≠ 0 → s.power.waiting = [] → c < logicalCores s → partOfCore s c = none →
    ∃ t, exec (.coreReset c) s = .next (stepEnd t) ∧ bankOf t c = bank0 ∧ (∀ x ∈ t.longs, x.1 / 64 ≠ c) ∧ t.mem = s.mem) ∧
  (∀ (n : Nat) (s : State), s.power.state ≠ 0 → s.power.waiting = [] → partImg s n = none →
    exec (.partitionReset n) s = .next (stepEnd (keepSupply s (countErr s errConfig catProtocol)))) ∧
  (∀ (c : Nat) (s : State), s.power.state ≠ 0 → s.power.waiting = [] → logicalCores s ≤ c →
    exec (.coreReset c) s = .next (stepEnd (keepSupply s (countErr s errConfig catProtocol))))

/-! ### Time, alignment and the rate lock (chapter 02) -/

/-- DEV_TIME_SNAP captures the count and the tag (R58); a 4-byte read of the low half of DEV_SOLSTICE returns it and
latches the high half, which a 4-byte read of the high half returns once, and the live value without it (R48); a read of
word 0 of a session entry latches the whole entry (R308); a read of BANK_STATUS returns it and then clears DMA_WAIT_MAX
(R381). Nothing else changes. Says of devTimeSnap, solsticeLowRead, sessionEntryLatch, bankStatusRead that exec answers
a next state, and which. -/
def Obligations.LatchedReads : Prop :=
  ∀ s : State, s.power.state ≠ 0 →
    (∀ tag : BitVec 64, exec (.devTimeSnap tag) s =
      .next (stepEnd { s with time := { s.time with snapVal := s.time.count, snapTag := tag } })) ∧
    (exec (.solsticeLowRead true) s = .next (stepEnd { s with
      time := { s.time with lowLatch := none }
      out := .readData (clean (leBytes 4 (match s.time.lowLatch with
        | some h => h.toNat
        | none => s.time.count.toNat / 2 ^ 32))) :: s.out })) ∧
    (exec (.solsticeLowRead false) s = .next (stepEnd { s with
      time := { s.time with lowLatch := some (BitVec.ofNat 32 (s.time.count.toNat / 2 ^ 32)) }
      out := .readData (clean (leBytes 4 s.time.count.toNat)) :: s.out })) ∧
    (∀ id : Nat, id < 4096 → exec (.sessionEntryLatch id) s = .next (stepEnd { s with
      ses := { s.ses with latch := some (id, sessWords s id) }
      out := .readData (clean (leBytes 8 (nth 0#64 (sessWords s id) 0).toNat)) :: s.out })) ∧
    (∀ c : Nat, c < logicalCores s → exec (.bankStatusRead c) s = .next (stepEnd { s with
      banks := mput bank0 s.banks c { bankOf s c with dmaWaitMax := 0 }
      out := .readData (clean (leBytes 8 (bankStatus s c))) :: s.out }))

/-- In output mode SYNC_OUT rises at every multiple of 2^20 ns, and pending fields of DEV_SYNC_CTRL take effect there; a
SYNC_IN edge is captured less CABLE_DELAY in the input modes. In mode 0x3 a follower counts one that lies more than 8 ns
from the expected time, and in HOLDOVER steers against the error within 100 ppm (R55). Says of syncOutPulse, syncInEdge
that exec answers a next state, and which. -/
def Obligations.SyncPins : Prop :=
  ∀ s : State, s.power.state ≠ 0 →
    (s.time.count.toNat % 2 ^ 20 ≠ 0 ∨ mfind s.cfg 0x140 = none → exec .syncOutPulse s = .next (stepEnd s)) ∧
    (∀ c : CfgCell, s.time.count.toNat % 2 ^ 20 = 0 → mfind s.cfg 0x140 = some c → ∃ t, exec .syncOutPulse s = .next (stepEnd t) ∧
      regActive t 0x140 0 = c.last.toNat ∧
      t.out = if c.last.toNat % 4 = 1 then .syncPulse s.time.count :: s.out else s.out) ∧
    (regActive s 0x140 0 % 4 < 2 → exec .syncInEdge s = .next (stepEnd s)) ∧
    (regActive s 0x140 0 % 4 = 2 → exec .syncInEdge s = .next (stepEnd { s with
      time := { s.time with capture := s.time.count - BitVec.ofNat 64 (fld (regActive s 0x140 0) 47 32) } })) ∧
    (regActive s 0x140 0 % 4 = 3 → ∃ t, exec .syncInEdge s = .next (stepEnd t) ∧
      t.time.capture = s.time.count - BitVec.ofNat 64 (fld (regActive s 0x140 0) 47 32) ∧
      t.time.disagree = (if isFollower s = true ∧ (8 < pulseError t.time.capture ∨ pulseError t.time.capture < -8) then
        satTo 16 (s.time.disagree + 1) else s.time.disagree) ∧
      (s.time.align ≠ 3 ∨ pulseError t.time.capture = 0 → t.time.steer = s.time.steer) ∧
      (s.time.align = 3 → 0 < pulseError t.time.capture → -100 ≤ t.time.steer ∧ t.time.steer < 0) ∧
      (s.time.align = 3 → pulseError t.time.capture < 0 → 0 < t.time.steer ∧ t.time.steer ≤ 100))

/-- At the end of a window every die's loop that is not at its ceiling adds the window's beats less the programmed ones
to E and moves TRIM by at most one step: up when E < −4 beats, to 120 at most, down when E > 4 beats (R36). E is kept in
units of 1/20 beat. The governor admits no more beats than the rate in force plus 0.05 % over any 65,536 ns (R37). Every
2^30 ns while a die stays at its ceiling one RATE_SHORTFALL message names it again; otherwise nothing happens (R42,
R502). Says of rateLockWindow, rateShortfallRepeat that exec answers a next state, and which. -/
def Obligations.RateLockMovesTrim : Prop :=
  (
  ∀ (beats : List Nat) (limiting : BitVec 16) (s : State), s.power.state = 2 → ∃ t, exec (.rateLockWindow beats limiting) s = .next (stepEnd t) ∧
    ∀ d, d < 16 → (dieRateOf s d).ceiling = false → (dieRateOf s d).shortRun < 3 →
      (dieRateOf t d).err = (dieRateOf s d).err + 20 * ((min (nth 0 beats d) (governed s.rate.rate (dieRateOf s d)) : Nat) : Int) -
        (rateUnits s.rate.rate * 1024 : Nat) ∧
      (dieRateOf t d).trim = (if (dieRateOf t d).err < -80 then min 120 ((dieRateOf s d).trim + 1)
        else if 80 < (dieRateOf t d).err then (dieRateOf s d).trim - 1 else (dieRateOf s d).trim) ∧
      (63 ≤ (dieRateOf s d).age →
        40000 * ((dieRateOf s d).history.take 63).foldl (· + ·) 0 ≤ rateUnits s.rate.rate * 65536 * 2001 →
        40000 * dieBeats (dieRateOf t d) ≤ rateUnits s.rate.rate * 65536 * 2001)) ∧ (
  ∀ (die : Nat) (s : State), s.power.state ≠ 0 →
    (die < 16 → (dieRateOf s die).ceiling = true → sinceCount s (dieRateOf s die).entered % 2 ^ 30 = 0 →
      (dieRateOf s die).entered ≠ s.time.count → s.msg.queue.length < 64 → ∃ r : Rec,
      exec (.rateShortfallRepeat die) s = .next (stepEnd { s with
        msg := { s.msg with queue := s.msg.queue ++ [r], seq := s.msg.seq + 1#32 } }) ∧
      fld r.toNat 7 0 = 3 ∧ fld r.toNat 15 8 = 2 ∧ fld r.toNat 31 24 = die ∧ fld r.toNat 127 64 = s.time.count.toNat) ∧
    ((dieRateOf s die).ceiling = false ∨ sinceCount s (dieRateOf s die).entered % 2 ^ 30 ≠ 0 →
      exec (.rateShortfallRepeat die) s = .next (stepEnd s)))

/-- The time leader puts a BEACON at the head of the sync queue of every link of its tree, or of every up link after
leadership changed; a DELAY_REQ, its arrival, the DELAY_RESP at least 200 ns later, and the one-way delay, half of the
round trip less 200 ns and EXCESS, in eighths of a ns (R50, R53, R424). A link longer than 5,000 ns goes down (R563).
Says of beaconSend, delayReqSend, delayReqReceive, delayRespSend, delayRespReceive that exec answers a next state, and
which. -/
def Obligations.BeaconsAndDelays : Prop :=
  ∀ s : State, s.power.state ≠ 0 →
    (∀ frac, s.time.align = 4 → ∃ t, exec (.beaconSend frac) s = .next (stepEnd t) ∧ ∀ l,
      (l < 32 → isUp s l = true → (s.time.reRooted = true ∨ (linkTopo s l).tree = true) → ∃ f,
        linkOf t l = { linkOf s l with txSync := f :: (linkOf s l).txSync } ∧ flitByte f 0 0 = 0x18 ∧
        flitByte f 8 15 = s.time.count.toNat) ∧
      (l < 32 → isUp s l = false → linkOf t l = linkOf s l)) ∧
    (∀ frac, s.time.align ≠ 4 → exec (.beaconSend frac) s = .next (stepEnd s)) ∧
    (∀ l frac, l < 32 → isUp s l = true → s.time.reRooted = false → (linkTopo s l).tree = true → ∃ t f,
      exec (.delayReqSend l frac) s = .next (stepEnd t) ∧ linkOf t l = { linkOf s l with
        txSync := f :: (linkOf s l).txSync, reqOut := some (s.time.count, frac % 8) } ∧ flitByte f 0 0 = 0x19 ∧
      ∀ k, k ≠ l → linkOf t k = linkOf s k) ∧
    (∀ l frac f rest, (linkOf s l).rxSync = f :: rest → flitByte f 0 0 = 0x19 → ∃ t,
      exec (.delayReqReceive l frac) s = .next (stepEnd t) ∧ (linkOf t l).rxSync = rest ∧
      (linkOf t l).reqIn = (linkOf s l).reqIn ++ [(s.time.count, frac % 8)] ∧ t.mem = s.mem) ∧
    (∀ l frac at_ atFrac rest, (linkOf s l).reqIn = (at_, atFrac) :: rest →
      (8 * (s.time.count - at_).toNat + frac % 8 - atFrac < 1600 → exec (.delayRespSend l frac) s = .next (stepEnd s)) ∧
      (1600 ≤ 8 * (s.time.count - at_).toNat + frac % 8 - atFrac → ∃ t f, exec (.delayRespSend l frac) s = .next (stepEnd t) ∧
        linkOf t l = { linkOf s l with txSync := f :: (linkOf s l).txSync, reqIn := rest } ∧ flitByte f 0 0 = 0x1A)) ∧
    (∀ l frac f rest out outFrac, (linkOf s l).rxSync = f :: rest → flitByte f 0 0 = 0x1A →
      (linkOf s l).reqOut = some (out, outFrac) → ∃ t, exec (.delayRespReceive l frac) s = .next (stepEnd t) ∧
      (linkOf t l).rxSync = rest ∧ (linkOf t l).reqOut = none ∧
      (linkOf t l).delay = (8 * (s.time.count - out).toNat + frac % 8 - outFrac - (1600 + flitByte f 27 28)) / 2 % 2 ^ 32 ∧
      (40000 < (8 * (s.time.count - out).toNat + frac % 8 - outFrac - (1600 + flitByte f 27 28)) / 2 → (linkOf t l).state = 1))

/-- A FREE module passes a beacon over. A module that waits in ACQUIRING for the join step takes it at a beacon of its
leader on its measured parent link: its count steps to the leader's value, STEPS advances, and it is in ACQUIRING no
longer (R51). A beacon of a leader with a lower id than its own makes a module join that segment (R52). An aligned
follower keeps its count and steers against the offset within 100 ppm, and HOPS counts its own hop (R50, R53, R54).
After 1 ms without beacons a follower enters HOLDOVER, and leads when no reachable module has a lower id (R52). When
HOLDOVER ends, and that a large offset does not end ALIGNED, are the model's choices (log entry 35). Says of
beaconReceive, beaconLoss that exec answers a next state, and which. -/
def Obligations.FollowersAlign : Prop :=
  ∀ s : State, s.power.state ≠ 0 →
    (∀ l frac f rest, (linkOf s l).rxSync = f :: rest → flitByte f 0 0 = 0x18 → s.time.align = 0 →
      exec (.beaconReceive l frac) s = .next (stepEnd (setLink s l { linkOf s l with
        rxSync := rest, freedSync := (linkOf s l).freedSync + 1 }))) ∧
    (∀ l frac f rest (value : Int), (linkOf s l).rxSync = f :: rest → flitByte f 0 0 = 0x18 → s.time.leader = flitByte f 17 17 % 64 →
      s.time.leader ≠ moduleId s → s.time.reRooted = false → s.time.leader = imageLeader s → beaconParent s = some l →
      s.time.parent = some l → s.time.parentFresh = true →
      value = 8 * (flitByte f 8 15 : Int) + (flitByte f 16 16 % 8 : Nat) + (linkOf s l).delay →
      (s.time.align = 1 → s.time.goodBeacons = 0 → ∃ t, exec (.beaconReceive l frac) s = .next (stepEnd t) ∧
        t.time.count = BitVec.ofInt 64 ((value + 4) / 8) ∧ t.time.steps = satTo 16 (s.time.steps + 1) ∧
        t.time.stepSize = t.time.count - s.time.count ∧ t.time.align = 2 ∧ t.time.hops = min 15 (flitByte f 3 3 + 1) ∧
        t.time.leader = s.time.leader) ∧
      (s.time.align = 2 → s.time.goodBeacons ≠ 0 → ∃ (t : State) (off : Int), exec (.beaconReceive l frac) s = .next (stepEnd t) ∧
        off = 8 * s.time.count.toNat + (frac % 8 : Nat) - value ∧ t.time.count = s.time.count ∧ t.time.align = 2 ∧
        t.time.offset = BitVec.ofInt 24 off ∧ t.time.hops = min 15 (flitByte f 3 3 + 1) ∧
        (off = 0 → t.time.steer = s.time.steer) ∧ (0 < off → -100 ≤ t.time.steer ∧ t.time.steer < 0) ∧
        (off < 0 → 0 < t.time.steer ∧ t.time.steer ≤ 100))) ∧
    (∀ l frac f rest, (linkOf s l).rxSync = f :: rest → flitByte f 0 0 = 0x18 → s.time.align ≠ 0 →
      flitByte f 17 17 % 64 ≠ moduleId s → flitByte f 17 17 % 64 < s.time.leader → s.time.parentFresh = false → ∃ t,
      exec (.beaconReceive l frac) s = .next (stepEnd t) ∧ t.time.align = 1 ∧ t.time.leader = flitByte f 17 17 % 64 ∧
      t.time.goodBeacons = 0 ∧ t.time.count = s.time.count) ∧
    (∀ reachable : BitVec 64, follows s = true → 1000000 ≤ sinceCount s s.time.lastBeacon → ∃ t,
      exec (.beaconLoss reachable) s = .next (stepEnd t) ∧ t.time.count = s.time.count ∧
      (s.time.goodBeacons ≠ 0 → (∀ m, m < 64 → reachable.getLsbD m = true → moduleId s ≤ m) →
        t.time.align = 4 ∧ t.time.leader = moduleId s) ∧
      (s.time.goodBeacons ≠ 0 → (∃ m, m < 64 ∧ reachable.getLsbD m = true ∧ m < moduleId s) →
        t.time.align = 3 ∧ t.time.leader < moduleId s) ∧
      (s.time.goodBeacons = 0 → t.time.align = 3)) ∧
    (∀ reachable : BitVec 64, follows s = false ∨ sinceCount s s.time.lastBeacon < 1000000 →
      exec (.beaconLoss reachable) s = .next (stepEnd s))

/-- When REFCLK156 is lost, alignment enters HOLDOVER, or stays FREE, and no link stays up; when it returns, every link
that was taken down retrains. When REFCLK100 is lost, no host link stays up (R562). Says of refclk156Loss,
refclk156Return, refclk100Loss that exec answers a next state, and which. -/
def Obligations.ReferenceClocks : Prop :=
  ∀ s : State, s.power.state ≠ 0 →
    (s.time.refclk156 = true → ∃ t, exec .refclk156Loss s = .next (stepEnd t) ∧ t.time.refclk156 = false ∧
      t.time.align = (if s.time.align = 0 then 0 else 3) ∧ ∀ l, l < 32 → isUp t l = false) ∧
    (s.time.refclk156 = false → ∃ t, exec .refclk156Return s = .next (stepEnd t) ∧ t.time.refclk156 = true ∧
      ∀ l, l < 32 → (linkOf s l).state = 1 → (linkOf s l).everUp = true → (linkOf t l).state = 2) ∧
    (∃ t, exec .refclk100Loss s = .next (stepEnd t) ∧ ∀ p, p < 2 → (portOf t p).up = false)

/-! ### The command front end (chapter 13) -/

/-- A doorbell of 4 bytes at offset 0 whose value lies within the ring sets WRITE_INDEX and PENDING; one that would make
more entries outstanding than the ring has, or of a disabled queue, counts an overrun, which saturates at 255 (R334,
R335). Before READY a doorbell is lost without a count (R544), and a write at another offset or of another size is
ignored; a read of a doorbell page returns zero (R334). A batch of a queue that holds a slot and whose ring lies in HBM:
READ_INDEX and FETCH_INDEX advance by the commands fetched, at most eight, one for each entry where the launch commands
take no constant buffer; PENDING clears, and the queue stays busy while the indices differ (R335, R336). Nothing is
fetched for a queue without a slot, for a stopped one, or with no dispatcher left (R339, R508). Says of doorbell,
queueFetch that exec answers a next state, and which. -/
def Obligations.DoorbellsAndBatches : Prop :=
  (
  ∀ (q off size : Nat) (value : BitVec 32) (s : State), s.power.state ≠ 0 →
    (s.power.state = 2 → q < 512 → off = 0 → size = 4 → queuePart s q ≠ 0xFF → replays s (queuePart s q) = false →
      (value - (queueOf s q).readIndex).toNat ≤ ringEntries (queueRing s q) →
      ∃ t, exec (.doorbell q off size (some value)) s = .next (stepEnd t) ∧ (queueOf t q).writeIndex = value ∧ (queueOf t q).pending = true ∧
        (queueOf t q).readIndex = (queueOf s q).readIndex ∧ (queueOf t q).overruns = (queueOf s q).overruns ∧
        (∀ p, p ≠ q → queueOf t p = queueOf s p) ∧ t.mem = s.mem ∧ t.fe.slots = s.fe.slots ∧ t.fe.events = s.fe.events) ∧
    (s.power.state = 2 → q < 512 → off = 0 → size = 4 → (queuePart s q = 0xFF ∨ (replays s (queuePart s q) = false ∧
      ringEntries (queueRing s q) < (value - (queueOf s q).readIndex).toNat)) →
      exec (.doorbell q off size (some value)) s = .next (stepEnd { s with fe := { s.fe with
        queues := mput queue0 s.fe.queues q { queueOf s q with overruns := satTo 8 ((queueOf s q).overruns + 1) } } })) ∧
    (s.power.state ≠ 2 ∨ 512 ≤ q ∨ off ≠ 0 ∨ size ≠ 4 → exec (.doorbell q off size (some value)) s = .next (stepEnd s)) ∧
    exec (.doorbell q off size none) s = .next (stepEnd { s with out := .readData (clean (List.replicate size 0#8)) :: s.out })) ∧ (
  ∀ (q : Nat) (s : State), s.power.state ≠ 0 →
    ((queueOf s q).slot.isSome = true → isStopped s q = false → (queueOf s q).resetDue = false → (queueOf s q).reading = none →
      noDispatcher s = false → replays s (queuePart s q) = false → region s.fuse.grade (ringBase (queueRing s q)) = .hbm →
      region s.fuse.grade (entryAddr s q 0) = .hbm → largePart s q = false → ∃ t, exec (.queueFetch q []) s = .next (stepEnd t) ∧
        (queueOf t q).readIndex = (queueOf s q).readIndex + BitVec.ofNat 32 (min 8 (unfetched (queueOf s q))) ∧
        (queueOf t q).fetchIndex = (queueOf s q).fetchIndex + BitVec.ofNat 64 (min 8 (unfetched (queueOf s q))) ∧
        (queueOf t q).fetched.length = (queueOf s q).fetched.length + min 8 (unfetched (queueOf s q)) ∧
        (queueOf t q).writeIndex = (queueOf s q).writeIndex ∧ (queueOf t q).pending = false ∧
        ((queueOf t q).busy = true ↔ (queueOf t q).readIndex ≠ (queueOf t q).writeIndex) ∧
        (∀ p, p ≠ q → queueOf t p = queueOf s p) ∧ t.fe.slots = s.fe.slots) ∧
    ((queueOf s q).slot = none ∨ isStopped s q = true ∨ (queueOf s q).resetDue = true ∨ noDispatcher s = true →
      exec (.queueFetch q []) s = .next (stepEnd s)))

/-- SLOT_MAP: the one queue that is ready takes its own slot where it is pinned, and else the lowest empty slot that it
may hold (R341, R343). A queue keeps its slot while its command runs there, and no slot changes but in its queue (R341).
A pinned queue that is ready takes its slot when that is free. With no dispatcher left no queue takes a slot (R508).
Says of slotMap that exec answers a next state, and which. -/
def Obligations.MappingLeavesRunningSlots : Prop :=
  ∀ s : State, s.power.state ≠ 0 → ∃ t, exec .slotMap s = .next (stepEnd t) ∧ t.mem = s.mem ∧ t.fe.events = s.fe.events ∧
    t.fe.cqs = s.fe.cqs ∧ (∀ k, (slotOf s k).cmd.isSome = true → (slotOf s k).queue.isSome = true → (slotOf s k).state ≠ 6 → slotOf t k = slotOf s k) ∧
    (noDispatcher s = true → t.fe.slots = s.fe.slots) ∧
    (∀ q k, noDispatcher s = false → isReady s q = true → (queuePol s q).residency = some k → (slotOf s k).queue = none →
      (slotOf t k).queue.isSome = true) ∧
    (∀ q x k, noDispatcher s = false → s.fe.queues = [(q, x)] → isReady s q = true → x.readySince.isSome = true → (slotOf s k).queue = none →
      ((queuePol s q).residency = some k ∨ ((queuePol s q).residency = none ∧ k < 32 ∧ mayHold s q k = true ∧
        ∀ j, j < k → (slotOf s j).queue.isSome = true ∨ mayHold s q j = false)) →
      exec .slotMap s = .next (stepEnd { s with fe := { s.fe with
        queues := mput queue0 s.fe.queues q { x with slot := some k, readySince := none, woken := false }
        slots := mput slot0 s.fe.slots k { slot0 with queue := some q, hangs := (slotOf s k).hangs, progress := (slotOf s k).progress } } }))

/-- Slot k takes its queue's next command. A command that fails a check ends with the status that the check names:
FORMAT or PRIVILEGE, is counted in REJECTED, and does not run; one that is read as poison ends with a fault capture; a
command that names a partition to hold waits for it; any other runs (R343, R347, R349). The first check of R349 that
fails names the result: an opcode that is not assigned is FORMAT with reason 0x01, a kernel command from a user queue
PRIVILEGE with 0x03; before any image queue 0 runs only the commands of R96, FORMAT with 0x08; a command that needs a
partition ends with FORMAT and 0x04 where its queue has none. Says of slotHead that exec answers a next state, and
which. -/
def Obligations.HeadsAreCheckedInOrder : Prop :=
  (
  ∀ (k q : Nat) (c : Fetched) (rest : List Fetched) (s : State), s.power.state ≠ 0 → (slotOf s k).queue = some q → (slotOf s k).cmd = none →
    (slotOf s k).state ≠ 7 → isStopped s q = false → (queueOf s q).resetDue = false → noDispatcher s = false → (queueOf s q).fetched = c :: rest →
    (c.poison = false → c.ringBad = false → fetchCheck s q c = none → reservedAction c.bits = false →
      exec (.slotHead k) s = .next (stepEnd { s with fe := { s.fe with
        stamp := s.fe.stamp + 1
        queues := mput queue0 s.fe.queues q { queueOf s q with fetched := rest }
        slots := mput slot0 (mput slot0 s.fe.slots k { slot0 with
            queue := some q, reached := s.fe.stamp, cmd := some c, state := 2, hangs := (slotOf s k).hangs, progress := (slotOf s k).progress }) k
          { slot0 with
            queue := some q, reached := s.fe.stamp, cmd := some c, hangs := (slotOf s k).hangs, progress := s.time.count, since := s.time.count
            started := s.time.count, state := if opcodeOf c.bits = 0x20 then 2 else if holdsPartition (opcodeOf c.bits) = true then 3 else 5 } } })) ∧
    (∀ st reason, c.poison = false → c.ringBad = false → fetchCheck s q c = some (st, reason) →
      (st = 7 ∨ st = 8) ∧ ∃ t, exec (.slotHead k) s = .next (stepEnd t) ∧ t.fe.rejected = satTo 16 (s.fe.rejected + 1) ∧
        t.fe.captureCount = satTo 32 (s.fe.captureCount + 1) ∧ t.fe.lastQueue = q ∧ (slotOf t k).state ≠ 5) ∧
    (c.poison = true → ∃ t, exec (.slotHead k) s = .next (stepEnd t) ∧ t.fe.rejected = s.fe.rejected ∧
      t.fe.captureCount = satTo 32 (s.fe.captureCount + 1) ∧ (slotOf t k).state ≠ 5)) ∧ (
  ∀ (q : Nat) (c : Fetched) (s : State),
    (knownOpcodes.contains (opcodeOf c.bits) = false → fetchCheck s q c = some (0x08, 0x01)) ∧
    (knownOpcodes.contains (opcodeOf c.bits) = true → kernelOnly (opcodeOf c.bits) = true → (queuePol s q).kernel = false →
      fetchCheck s q c = some (0x07, 0x03)) ∧
    (knownOpcodes.contains (opcodeOf c.bits) = true → (kernelOnly (opcodeOf c.bits) = true → (queuePol s q).kernel = true) → s.image.force = none →
      bootOpcode (opcodeOf c.bits) = false → fetchCheck s q c = some (0x08, 0x08)) ∧
    (s.image.force.isSome = true → needsPartition (opcodeOf c.bits) = true → partImg s (queuePart s q) = none →
      fetchCheck s q c = some (0x08, 0x04)))

/-- STOP and RESET of a queue. Clearing STOP, or a stop of a queue that runs no command, changes that queue alone; RESET
drops the queue's commands, unfetched and fetched, counts them in DROPPED and leaves nothing to run (R339, R355). Says
of queueStop, queueReset that exec answers a next state, and which. -/
def Obligations.QueuesStopAndReset : Prop :=
  ∀ (q : Nat) (s : State), s.power.state ≠ 0 → q < 512 →
    (∀ stop, isStopped s q = stop → exec (.queueStop q stop) s = .next (stepEnd s)) ∧
    (∀ k, isStopped s q = false → (queueOf s q).slot = some k → (slotOf s k).state ≠ 6 → ∃ t, exec (.queueStop q true) s = .next (stepEnd t) ∧
      isStopped t q = true ∧ t.fe = s.fe ∧ t.mem = s.mem) ∧
    (isStopped s q = true → ∃ t, exec (.queueStop q false) s = .next (stepEnd t) ∧ isStopped t q = false ∧ t.fe.slots = s.fe.slots ∧
      t.fe.waits = s.fe.waits ∧ (∀ p, p ≠ q → queueOf t p = queueOf s p) ∧ t.mem = s.mem) ∧
    (∃ t, exec (.queueReset q) s = .next (stepEnd t) ∧ (queueOf t q).fetched = [] ∧
      (queueOf t q).dropped = satTo 8 ((queueOf s q).dropped + (unfetched (queueOf s q) + (queueOf s q).fetched.length)) ∧
      (queueOf t q).resetDue = true ∧ (queueOf t q).writeIndex = (queueOf s q).readIndex ∧ mfind t.fe.waits q = none)

/-- Commands that end at once: NOP; EVENT_RECORD with MAX, SET or ADD, whose record's DETAIL is the event's new value;
EVENT_WAIT whose event has reached its target (R346, R352, R353, R357). An EVENT_WAIT whose target is not reached waits
in its slot, with its deadline if it has one; the deadline ends it with TIMEOUT (R353). At a multiple of 1,000,000 ns a
cycle of two waits ends with DEADLOCK for the higher-numbered queue; at another count, and without a cycle, nothing
happens (R356). Says of nop, eventRecord, eventWait, eventWaitTimeout, waitGraph that exec answers a next state, and
which. -/
def Obligations.EventCommandsAndWaits : Prop :=
  (
  ∀ (k q : Nat) (c : Fetched) (s : State), s.power.state ≠ 0 → RecordFits s c →
    (Running s k q 1 c → exec (.nop k) s = .next (stepEnd (keepSupply s (ended s k q c (doneWith 0 0))))) ∧
    (Running s k q 2 c → c.cancelled = false → (∀ x ∈ s.fe.waits, x.2.event ≠ cmdFld c.bits 16 17) →
      ∀ old arg new : BitVec 64, eventOf s (cmdFld c.bits 16 17) = old → BitVec.ofNat 64 (cmdFld c.bits 24 31) = arg →
        (cmdFld c.bits 18 18 = 0 → new = if old.toNat < arg.toNat then arg else old) → (cmdFld c.bits 18 18 = 1 → new = arg) →
        (1 < cmdFld c.bits 18 18 → new = old + arg) →
        exec (.eventRecord k) s = .next (stepEnd (keepSupply s
          (ended { s with fe := { s.fe with events := mput 0#64 s.fe.events (cmdFld c.bits 16 17) new } } k q c (doneWith 0 new.toNat))))) ∧
    (Running s k q 3 c → cmdFld c.bits 24 31 ≤ (eventOf s (cmdFld c.bits 16 17)).toNat →
      exec (.eventWait k) s = .next (stepEnd (keepSupply s (ended s k q c (doneWith 0 (eventOf s (cmdFld c.bits 16 17)).toNat)))))) ∧ (
  ∀ s : State, s.power.state ≠ 0 →
    (∀ k q c, Running s k q 3 c → (eventOf s (cmdFld c.bits 16 17)).toNat < cmdFld c.bits 24 31 → isStopped s q = false → (queueOf s q).resetDue = false → ∃ t, exec (.eventWait k) s = .next (stepEnd t) ∧
      (slotOf t k).state = 6 ∧ t.mem = s.mem ∧ t.fe.events = s.fe.events ∧ mfind t.fe.waits q = some {
        event := cmdFld c.bits 16 17
        target := BitVec.ofNat 64 (cmdFld c.bits 24 31), seen := eventOf s (cmdFld c.bits 16 17), slot := some k, cmd := c
        deadline := if cmdFld c.bits 20 23 = 0 then none else some (s.time.count + BitVec.ofNat 64 (1000 * cmdFld c.bits 20 23)) }) ∧
    (∀ q w d, mfind s.fe.waits q = some w → w.deadline = some d → countReached s d = true → RecordFits s w.cmd → (∀ k, w.slot = some k → (slotOf s k).queue = some q) → ∃ t, exec (.eventWaitTimeout q) s = .next (stepEnd t) ∧
      mfind t.fe.waits q = none ∧ (cqOf t w.cmd.cq).tail = (cqOf s w.cmd.cq).tail + 1#32 ∧ (∀ k, w.slot = some k → (slotOf t k).cmd = none ∧ (slotOf t k).queue = some q)) ∧
    (∀ q, (∀ w d, mfind s.fe.waits q = some w → w.deadline = some d → countReached s d = false) → exec (.eventWaitTimeout q) s = .next (stepEnd s)) ∧
    (∀ a b wa wb, s.time.count.toNat % 1000000 = 0 → b < a → s.fe.waits = [(b, wb), (a, wa)] → waitEdge s a = some b → waitEdge s b = some a → ∃ t, exec .waitGraph s = .next (stepEnd t) ∧
      mfind t.fe.waits a = none ∧ mfind t.fe.waits b = some wb ∧ t.fe.deadlocks = satTo 16 (s.fe.deadlocks + 1)) ∧
    (s.time.count.toNat % 1000000 ≠ 0 ∨ waitCycles s = [] → exec .waitGraph s = .next (stepEnd s)))

/-- FILL writes PATTERN byte by byte and nothing else: a chunk of 64 KiB that is not the last of a FILL into HBM stores
byte a of the range as byte a mod 8 of PATTERN, every other byte reads as before, and the command goes on with the next
chunk (R347, R362). COPY, FILL and SCRUB begin with the range their command names; a SCRUB of another range than R469
allows ends with FORMAT. A chunk of a FILL into HBM: its bytes and nothing else (R347, R362). Says of copy, fill, scrub,
copyEngineDone that exec answers a next state, and which. -/
def Obligations.CopyEnginesRun : Prop :=
  (
  ∀ (k q : Nat) (c : Fetched) (s : State), s.power.state ≠ 0 → (copyOf s k).total = 0 →
    (Running s k q 4 c → farSource s (cmdFld c.bits 24 31) = false → exec (.copy k) s = .next (stepEnd (setCopy s k
      { copy0 with src := cmdFld c.bits 24 31, dst := cmdFld c.bits 32 39, total := cmdFld c.bits 40 47 }))) ∧
    (Running s k q 5 c → exec (.fill k) s = .next (stepEnd (setCopy s k
      { copy0 with dst := cmdFld c.bits 24 31, total := cmdFld c.bits 32 39, pattern := BitVec.ofNat 64 (cmdFld c.bits 40 47) }))) ∧
    (Running s k q 6 c → scrubRange s (cmdFld c.bits 24 31) (cmdFld c.bits 32 39) = true → exec (.scrub k) s = .next (stepEnd (setCopy s k
      { copy0 with src := cmdFld c.bits 24 31, dst := cmdFld c.bits 40 47, total := cmdFld c.bits 32 39 }))) ∧
    (Running s k q 6 c → RecordFits s c → scrubRange s (cmdFld c.bits 24 31) (cmdFld c.bits 32 39) = false →
      exec (.scrub k) s = .next (stepEnd (keepSupply s (ended s k q c (doneWith 8 0)))))) ∧ (
  ∀ (k q : Nat) (c : Fetched) (s : State), s.power.state ≠ 0 → Running s k q 5 c → s.integ.ecc = [] → regActive s 0xC00010 0 < 2 ^ 62 →
    region s.fuse.grade ((copyOf s k).dst + (copyOf s k).done) = .hbm → readsOf s k = false → chunkHeld s (copyOf s k) = false →
    (copyOf s k).done + 65536 < (copyOf s k).total → ∃ t, exec (.copyEngineDone k [] []) s = .next (stepEnd t) ∧
      (copyOf t k).done = (copyOf s k).done + 65536 ∧ (slotOf t k).progress = s.time.count ∧ (slotOf t k).cmd = some c ∧
      ∀ a, memByte t a = if (copyOf s k).dst + (copyOf s k).done ≤ a ∧ a < (copyOf s k).dst + (copyOf s k).done + 65536
        then BitVec.ofNat 8 ((copyOf s k).pattern.toNat / 2 ^ (8 * ((a - (copyOf s k).dst) % 8))) else memByte s a)

/-- The fuse commands: PROGRAM_SLOT programs an unprogrammed slot with the digest it reads, REVOKE_SLOT revokes a live
slot that is not the last one, RAISE_MIN_SVN raises MIN_SVN; with another CONFIRM than "FUSE" each ends with FORMAT and
changes no fuse (R348). Says of programSlot, revokeSlot, raiseMinSvn that exec answers a next state, and which. -/
def Obligations.FuseCommandsNeedConfirm : Prop :=
  ∀ (k q : Nat) (c : Fetched) (s : State), s.power.state ≠ 0 → Running s k q 0x76 c → RecordFits s c →
    (cmdFld c.bits 20 23 ≠ 0x45535546 →
      (cmdFld c.bits 16 16 = 1 → exec (.programSlot k) s = .next (stepEnd (keepSupply s (ended s k q c (doneWith 8 0))))) ∧
      (cmdFld c.bits 16 16 = 2 → exec (.revokeSlot k) s = .next (stepEnd (keepSupply s (ended s k q c (doneWith 8 0))))) ∧
      (cmdFld c.bits 16 16 = 3 → exec (.raiseMinSvn k) s = .next (stepEnd (keepSupply s (ended s k q c (doneWith 8 0)))))) ∧
    (cmdFld c.bits 20 23 = 0x45535546 →
      (∀ b u, cmdFld c.bits 16 16 = 1 → 1 ≤ cmdFld c.bits 17 17 → cmdFld c.bits 17 17 ≤ 3 → (keySlotOf s (cmdFld c.bits 17 17)).programmed = false →
        (keySlotOf s (cmdFld c.bits 17 17)).revoked = false → blockRead s k (cmdFld c.bits 24 31) 48 = .bytes b u → ∃ t, exec (.programSlot k) s = .next (stepEnd t) ∧
        ∀ i, keySlotOf t i = if i = cmdFld c.bits 17 17 then { programmed := true, revoked := false, hash := BitVec.ofNat 384 (ofBe b) } else keySlotOf s i) ∧
      (cmdFld c.bits 16 16 = 2 → (liveSlots s).contains (cmdFld c.bits 17 17) = true → 1 < (liveSlots s).length → exec (.revokeSlot k) s =
        .next (stepEnd (keepSupply s (ended (setKeySlot s (cmdFld c.bits 17 17) { keySlotOf s (cmdFld c.bits 17 17) with revoked := true }) k q c (doneWith 0 0))))) ∧
      (cmdFld c.bits 16 16 = 3 → cmdFld c.bits 18 18 ≤ 63 → s.fuse.minSvn < cmdFld c.bits 18 18 → exec (.raiseMinSvn k) s =
        .next (stepEnd (keepSupply s (ended { s with fuse := { s.fuse with minSvn := cmdFld c.bits 18 18 } } k q c (doneWith 0 0))))))

/-- The watchdog of a slot that runs a copy counts a hang, makes a fault capture and ends the command; of any slot that
it does not watch it does nothing (R362, R363). A write of a ring's HEAD is taken when it leaves no more records than
the ring holds, else counted in PROTOCOL (R359). A ring whose message is due, and that has sent none in the last 1 µs,
sends its vector's address and data, or sets its pending bit while the vector is masked (R360, R531). Says of
watchdogHang, cqHeadWrite, msixSend that exec answers a next state, and which. -/
def Obligations.WatchdogAndRings : Prop :=
  ∀ s : State, s.power.state ≠ 0 →
    (∀ k, isWatched s k = false → exec (.watchdogHang k) s = .next (stepEnd s)) ∧
    (∀ k q c, isWatched s k = true → (slotOf s k).cmd = some c → (slotOf s k).queue = some q → holdsPartition (opcodeOf c.bits) = false → noDispatcher s = false →
      ∃ t, exec (.watchdogHang k) s = .next (stepEnd t) ∧ t.fe.captureCount = satTo 32 (s.fe.captureCount + 1) ∧
        (slotOf t k).hangs = satTo 16 ((slotOf s k).hangs + 1) ∧ (slotOf t k).state ≠ 5 ∧ (slotOf t k).queue = some q) ∧
    (∀ (c : Nat) (v : BitVec 32), c < 64 → ((cqOf s c).tail - v).toNat ≤ ringEntries (cqRing s c) →
      exec (.cqHeadWrite c v) s = .next (stepEnd { s with fe := { s.fe with cqs := mput cq0 s.fe.cqs c { cqOf s c with head := v } } })) ∧
    (∀ (c : Nat) (v : BitVec 32), c < 64 → ringEntries (cqRing s c) < ((cqOf s c).tail - v).toNat →
      exec (.cqHeadWrite c v) s = .next (stepEnd (keepSupply s (countErr s errConfig catProtocol)))) ∧
    (∀ r, msixIsDue s r = false ∨ msixFree s r = false → exec (.msixSend r) s = .next (stepEnd s)) ∧
    (∀ r, r < 64 → (cqOf s r).msixDue = true → msixFree s r = true → region s.fuse.grade (ringBase (cqRing s r)) = .hbm → ∃ t, exec (.msixSend r) s = .next (stepEnd t) ∧
      (cqOf t r).msixDue = false ∧ (cqOf t r).tail = (cqOf s r).tail ∧ t.mem = s.mem ∧
      (s.host.msixEnable.toNat.testBit (msixPort s) = true → s.host.msixMask.toNat.testBit (msixPort s) = false → (msixOf s (msixPort s) (msixVector s r)).masked = false →
        t.out = .msix (msixPort s) (msixOf s (msixPort s) (msixVector s r)).addr (msixOf s (msixPort s) (msixVector s r)).data :: s.out) ∧
      ((msixOf s (msixPort s) (msixVector s r)).masked = true → t.out = s.out ∧ (msixOf t (msixPort s) (msixVector s r)).pending = true))

/-! ### Registers, images and banks (chapters 03, 04, 14 and 19) -/

/-- The classes of fields. A staged field takes a write in its shadow alone; a commit snapshots the shadow, a discard
gives it the active value again; a write that would change a frozen field of a busy instance changes nothing and is
counted (R99, R103, R104, R106). A write of BAR0 that is not 8 aligned bytes is counted in PROTOCOL of the HOST counter
(R519). Says of registerWrite that exec answers a next state, and which. -/
def Obligations.FieldClasses : Prop :=
  ∀ (port off : Nat) (data : BitVec 64) (d : RegDesc) (s : State), s.power.state = 2 → s.power.perst = false → port < 2 → off < 0xF80000 →
    (∀ size, size ≠ 8 ∨ off % 8 ≠ 0 → exec (.registerWrite port off size data) s = .next (stepEnd (keepSupply s (countErr s errHost catProtocol)))) ∧
    ((∃ n, d.inst = .bank n ∨ d.inst = .qnt n ∨ d.inst = .ses n) → regDesc s off = some d → d.live = 0 → d.frozen = 0 → holdsInst s d.inst = false →
      legalWrite d.inst off (cellOf s off d).active.toNat (cellOf s off d).shadow.toNat data.toNat = data.toNat →
      ∃ t, exec (.registerWrite port off 8 data) s = .next (stepEnd t) ∧ cellOf t off d = { cellOf s off d with shadow := mergeBits d.staged (cellOf s off d).shadow data } ∧
        (∀ o, o ≠ off → mfind t.cfg o = mfind s.cfg o) ∧ t.err = s.err ∧ t.mem = s.mem) ∧
    (∀ n, d.inst = .sync n → regDesc s off = some d → busyFor s d.inst off = true → (BitVec.ofNat 64 (legalWrite d.inst off (mergeBits d.live (cellOf s off d).active (cellOf s off d).last).toNat (cellOf s off d).shadow.toNat data.toNat)
        ^^^ (cellOf s off d).active) &&& BitVec.ofNat 64 d.frozen ≠ 0#64 → holdsInst s d.inst = false →
      ∃ t, exec (.registerWrite port off 8 data) s = .next (stepEnd t) ∧ t.cfg = s.cfg ∧ (instOf t d.inst).frozenWrites = satTo 16 ((instOf s d.inst).frozenWrites + 1) ∧
        (instOf t d.inst).seen = true ∧ (errCtrOf t (errCore n)).protocol = satTo 16 ((errCtrOf s (errCore n)).protocol + 1))

/-- A commit of an instance snapshots its shadow and sets COMMIT_PENDING; a discard copies the active value into the
shadow and clears COMMIT_PENDING (R103, R104). JTAG's REG_ACCESS writes as a host write does and reads into its data
register (R492). JTAG's REG_ACCESS: a write acts as an 8-byte write of the host at the same offset does, and a read
answers the register's value (R492). Says of commit, discard, regAccess, registerWrite that exec answers a next state,
and which. -/
def Obligations.RegistersCommit : Prop :=
  (
  ∀ (off o : Nat) (i : Inst) (d : RegDesc) (c : CfgCell) (s : State), s.power.state = 2 → s.power.perst = false → commitInst s.fuse.grade off = some i →
    holdsInst s i = false → instCells s i = [(o, d, c)] → mfind s.cfg o = some c → d.staged ≠ 0 →
    (∃ t, exec (.commit off) s = .next (stepEnd t) ∧ cellOf t o d = { c with snap := some c.shadow } ∧ (instOf t i).commitPending = true ∧ t.mem = s.mem) ∧
    (∃ t, exec (.discard off) s = .next (stepEnd t) ∧ cellOf t o d = { c with shadow := mergeBits d.staged c.shadow c.active, snap := none } ∧
      (instOf t i).commitPending = false ∧ t.mem = s.mem)) ∧ (
  ∀ (sel : BitVec 23) (data : BitVec 64) (s : State), s.power.state ≠ 0 → s.power.perst = false →
    (8 * sel.toNat < 0xF80000 ∨ 0xF88100 ≤ 8 * sel.toNat → exec (.regAccess true sel data) s = exec (.registerWrite 0 (8 * sel.toNat) 8 data) s) ∧
    (∃ t, exec (.regAccess false sel data) s = .next (stepEnd t) ∧ t.dbg.jtagData = BitVec.ofNat 64 (barRead s (8 * sel.toNat)).1))

/-- An image load waits its turn, and copies its header first (R84, R94). Its stages run in their order when the copy
completes: the load ends with the first that fails, whose code and section the registers show, or it becomes pending and
replaces the loads that it supersedes (R84, R86, R88, R95). IMAGE_COMMIT with a mask that takes part of a pending load's
scope ends with FORMAT; otherwise its partitions launch nothing further, and the image in force stays until they are
drained (R89 to R91). When nothing is left to drain and RATE stays, the committed loads are in force and no longer
pending; the command completes once the instances it covers have taken their staged values (R110). Says of imageLoad,
imageLoadDone, imageCommit, imageCommitApply that exec answers a next state, and which. -/
def Obligations.ImagesLoadAndTakeEffect : Prop :=
  (
  ∀ (k : Nat) (s : State), s.power.state ≠ 0 →
    (structuralTurn s k = false → exec (.imageLoad k) s = .next (stepEnd s)) ∧
    (∀ q c, Running s k q 0x70 c → structuralTurn s k = true → region s.fuse.grade (cmdFld c.bits 24 31) = .hbm → 0 < cmdFld c.bits 32 39 →
      dmaHeld s (cmdFld c.bits 24 31) (min 128 (cmdFld c.bits 32 39)) = false → ∃ t, exec (.imageLoad k) s = .next (stepEnd t) ∧ t.image.force = s.image.force ∧
      t.image.pending = s.image.pending ∧
      ((t.image.loading = none ∧ t.image.lastStage = 1 ∧ t.image.lastStatus = 8 ∧ t.image.fails = satTo 16 (s.image.fails + 1)) ∨
        ∃ l, t.image.loading = some l ∧ l.slot = k ∧ l.source = cmdFld c.bits 24 31 ∧ l.length = cmdFld c.bits 32 39 ∧ l.data.length = min 128 l.length)) ∧
    (∀ l f, s.image.loading = some l → l.slot = k → fromWindow s l = false → l.data.length = loadGoal l → headBytes l ≤ l.data.length → keyUnderWay s = false →
      checkStages s (loadHeader l) l.data = some f → ∃ t, exec (.imageLoadDone k) s = .next (stepEnd t) ∧ t.image.loading = none ∧ t.image.force = s.image.force ∧
        t.image.pending = s.image.pending ∧ t.image.lastStage = f.stage ∧ t.image.lastSection = f.sect ∧ t.image.lastStatus = f.status ∧
        t.image.fails = satTo 16 (s.image.fails + 1)) ∧
    (∀ l cs, s.image.loading = some l → l.slot = k → fromWindow s l = false → l.data.length = loadGoal l → headBytes l ≤ l.data.length → keyUnderWay s = false →
      cs = (stagedSections (loadHeader l) (dataOf l.data)).1 → checkStages s (loadHeader l) l.data = none → needsKey s (loadHeader l) cs = false →
      stagingFits s (pendingOfImage (loadHeader l) cs none).whole (pendingOfImage (loadHeader l) cs none).tag (loadHeader l).length = true → (slotOf s k).flags = [] →
      ∃ t, exec (.imageLoadDone k) s = .next (stepEnd t) ∧ t.image.loading = none ∧ t.image.force = s.image.force ∧ t.image.lastStage = 0 ∧ t.image.lastStatus = 0 ∧
        t.image.pending = s.image.pending.filter (fun p => !discards (pendingOfImage (loadHeader l) cs none).whole (pendingOfImage (loadHeader l) cs none).tag p) ++
          [pendingOfImage (loadHeader l) cs none])) ∧ (
  ∀ (k q : Nat) (s : State), s.power.state ≠ 0 →
    (∀ c, Running s k q 0x71 c → RecordFits s c → structuralTurn s k = true → (∃ p ∈ s.image.pending, p.tag &&& BitVec.ofNat 64 (cmdFld c.bits 24 31) ≠ 0#64 ∧
      p.tag &&& BitVec.ofNat 64 (cmdFld c.bits 24 31) ≠ p.tag) →
      exec (.imageCommit k) s = .next (stepEnd (keepSupply s (ended { s with image := { s.image with lastStatus := 8 } } k q c (doneWith 8 0))))) ∧
    (∀ c, Running s k q 0x71 c → structuralTurn s k = true → (∀ p ∈ s.image.pending, p.tag &&& BitVec.ofNat 64 (cmdFld c.bits 24 31) = 0#64 ∨
      p.tag &&& BitVec.ofNat 64 (cmdFld c.bits 24 31) = p.tag) → ∃ t x, exec (.imageCommit k) s = .next (stepEnd t) ∧ t.image = { s.image with committing := some x } ∧
      x.slot = some k ∧ x.mask = BitVec.ofNat 64 (cmdFld c.bits 24 31) ∧ x.drains = drainedParts s (BitVec.ofNat 64 (cmdFld c.bits 24 31)) ∧
      (∀ n ∈ x.drains, (partOf t n).launching = false) ∧ (∀ n, n ∉ x.drains → partOf t n = partOf s n) ∧ t.mem = s.mem) ∧
    (s.image.committing = none → exec .imageCommitApply s = .next (stepEnd s)) ∧
    (∀ x, s.image.committing = some x → x.slot = some k → x.drains = [] → x.rateChange = false → x.relockWait = false → x.applied = false →
      ∃ t, exec .imageCommitApply s = .next (stepEnd t) ∧ t.image.force = committedForce s x.mask ∧
      t.image.pending = s.image.pending.filter (fun p => !inMask x.mask p) ∧
      (t.image.committing = none ∨ ∃ y, t.image.committing = some y ∧ y.applied = true ∧ y.slot = some k) ∧
      (commitLoads s x.mask = [] → (∀ i ∈ coveredInsts s x, instCells s i = []) → (slotOf s k).flags = [] →
        t.image.committing = none ∧ t.image.lastStatus = 0 ∧ t.image.commits = satTo 16 (s.image.commits + 1))))

/-- A bank changes its owner when its owner is at rest: the committed word is active and HELD is clear; until then
nothing changes (R371). The background test moves its bank on by one region, wraps after 4,095, counts a failed region
in the core's HARD counter and leaves the bank's contents alone (R377, R378, R382). Says of bankHandover, bankTestRegion
that exec answers a next state, and which. -/
def Obligations.BanksChangeHandsAndAreTested : Prop :=
  ∀ (c : Nat) (s : State), s.power.state ≠ 0 → c < logicalCores s →
    ((instOf s (.bank c)).commitPending = true → holdsSnap s (.bank c) = false → (heldBanks s c).all (ownerRests s c) = false →
      exec (.bankHandover c) s = .next (stepEnd s)) ∧
    (∀ v cell d, (instOf s (.bank c)).commitPending = true → holdsSnap s (.bank c) = false → (heldBanks s c).all (ownerRests s c) = true →
      regDesc s (bankReg c) = some d → instCells s (.bank c) = [(bankReg c, d, cell)] → mfind s.cfg (bankReg c) = some cell → cell.snap = some v → s.net.rx = [] →
      ∃ t, exec (.bankHandover c) s = .next (stepEnd t) ∧ bankWord t c = (mergeBits d.staged cell.active v).toNat ∧ heldBanks t c = [] ∧
        (instOf t (.bank c)).commitPending = false ∧ t.mem = s.mem) ∧
    (∀ bank, bank < 4 → (bankOf s c).region.length = 4 → bankTestOn s c = true → s.integ.ecc = [] → ∃ t, exec (.bankTestRegion c bank false) s = .next (stepEnd t) ∧
      t.mem = s.mem ∧ t.err = s.err ∧ (∀ e, e ≠ c → bankOf t e = bankOf s e) ∧
      nth 0 (bankOf t c).region bank = (if nth 0 (bankOf s c).region bank = 4095 then 0 else nth 0 (bankOf s c).region bank + 1) ∧
      (bankOf t c).testFails = (bankOf s c).testFails) ∧
    (∀ bank, bank < 4 → bankTestOn s c = true → s.integ.ecc = [] → ∃ t, exec (.bankTestRegion c bank true) s = .next (stepEnd t) ∧ t.mem = s.mem ∧
      (bankOf t c).testFails = satTo 8 ((bankOf s c).testFails + 1) ∧ (bankOf t c).failBanks.toNat.testBit bank = true ∧
      (errCtrOf t (errCore c)).hard = satTo 16 ((errCtrOf s (errCore c)).hard + 1)) ∧
    (∀ bank fails, bankTestOn s c = false → exec (.bankTestRegion c bank fails) s = .next (stepEnd s))

/-! ### The host interface (chapter 21) -/

/-- BAR4 reaches device memory through its segments: a read of HBM answers the bytes there, a write stores its bytes and
leaves every other byte alone, an access to a hole reads zero, writes nothing and is counted (R522, R523). Before READY
reads return zero and writes are lost (R544). Says of bar4Read, bar4Write that exec answers a next state, and which. -/
def Obligations.Bar4ReachesMemory : Prop :=
  ∀ (port off a : Nat) (s : State), s.power.state ≠ 0 → port < 2 → s.integ.ecc = [] → s.integ.badCheckers = [] → regActive s 0xC00010 0 < 2 ^ 62 →
    (∀ len, s.power.state = 2 → barRanges 18 s off len = [(some a, len)] → (∀ i, i < len → region s.fuse.grade (a + i) = .hbm) → 0 < len → exec (.bar4Read port off len [] []) s =
      .next (stepEnd { s with out := .readData ((List.range len).map (fun i => (memByte s (a + i), false))) :: s.out })) ∧
    (∀ data : List PByte, s.power.state = 2 → barRanges 18 s off data.length = [(some a, data.length)] → region s.fuse.grade a = .hbm → (∀ b ∈ data, b.2 = false) → data ≠ [] →
      ∃ t, exec (.bar4Write port off data [] []) s = .next (stepEnd t) ∧ t.out = s.out ∧ t.host = s.host ∧ t.integ.ecc = [] ∧
        ∀ x, memByte t x = if a ≤ x ∧ x < a + data.length then (nth (0#8, false) data (x - a)).1 else memByte s x) ∧
    (∀ len, s.power.state = 2 → barRanges 18 s off len = [(none, len)] → exec (.bar4Read port off len [] []) s =
      .next (stepEnd (keepSupply s (emit (countErr (setPort s port { portOf s port with holes := satTo 16 ((portOf s port).holes + 1) }) errHost catProtocol)
        (.readData (List.replicate len (0#8, false))))))) ∧
    (∀ data : List PByte, s.power.state = 2 → barRanges 18 s off data.length = [(none, data.length)] → exec (.bar4Write port off data [] []) s =
      .next (stepEnd (keepSupply s (countErr (setPort s port { portOf s port with holes := satTo 16 ((portOf s port).holes + 1) }) errHost catProtocol)))) ∧
    (∀ len us ws, s.power.state ≠ 2 → exec (.bar4Read port off len us ws) s = .next (stepEnd { s with out := .readData (List.replicate len (0#8, false)) :: s.out })) ∧
    (∀ data us ws, s.power.state ≠ 2 → exec (.bar4Write port off data us ws) s = .next (stepEnd s))

/-- A host AtomicOp acts in a scratchpad that admits the DMA engine: FetchAdd and Swap of 4 or 8 aligned bytes return
the old value and store the new one, and every other byte reads as before; a misaligned one is answered Unsupported
Request and counted at the bank, at its core and at the port; CompareAndSwap, other sizes and other memory are answered
Unsupported Request and counted at the port (R374, R516). Says of hostAtomicop that exec answers a next state, and
which. -/
def Obligations.AtomicsActInScratchpads : Prop :=
  ∀ (port off op size a : Nat) (value : BitVec 64) (s : State), s.power.state = 2 → port < 2 → barRanges 2 s off size = [(some a, size)] →
    (∀ c o, region s.fuse.grade a = .scratch c o → (size = 4 ∨ size = 8) → off % size = 0 → op < 2 → o % 2 ^ 20 + size ≤ 2 ^ 20 → dmaHeld s a size = false → bankAdmits s 3 c (o / 2 ^ 20) = true →
      (∀ i, i < size → region s.fuse.grade (a + i) = .scratch c (o + i)) →
      s.integ.ecc = [] → s.integ.badCheckers = [] → regActive s 0xC00010 0 < 2 ^ 62 → ∀ waits, ∃ t, exec (.hostAtomicop port off op size value waits) s = .next (stepEnd t) ∧
        t.out = .readData ((List.range size).map (fun i => (memByte s (a + i), false))) :: s.out ∧
        ∀ x, memByte t x = if a ≤ x ∧ x < a + size then BitVec.ofNat 8 ((if op = 0 then ofLe ((List.range size).map (fun i => memByte s (a + i))) + value.toNat else value.toNat) / 2 ^ (8 * (x - a)))
          else memByte s x) ∧
    (∀ c o, region s.fuse.grade a = .scratch c o → (size = 4 ∨ size = 8) → off % size ≠ 0 → op < 2 → ∃ t, exec (.hostAtomicop port off op size value []) s = .next (stepEnd t) ∧
      t.out = .unsupported port :: s.out ∧ (bankOf t c).refused = satTo 16 ((bankOf s c).refused + 1) ∧
      (errCtrOf t (errCore c)).protocol = satTo 16 ((errCtrOf s (errCore c)).protocol + 1) ∧ t.mem = s.mem) ∧
    (2 ≤ op ∨ region s.fuse.grade a = .hbm ∨ (size ≠ 4 ∧ size ≠ 8) → exec (.hostAtomicop port off op size value []) s =
      .next (stepEnd (keepSupply s (emit (countErr (setPort s port { portOf s port with urSent := satTo 16 ((portOf s port).urSent + 1) }) errHost catProtocol) (.unsupported port)))))

/-- The ports. A configuration request is answered with Request Retry Status until the CHECKER step has ended, then
completed (R544). A link that has trained shows its speed and width (R534). A resize of BAR4 changes its size code and
returns the segments to their reset mapping (R522). Device reads through host windows. The bytes of a completion go to
the command that asked for them; an unsuccessful completion, or none in time, is counted and delivers poison; a
completion that no read waits for changes nothing (R517). Says of configurationRequest, hostLinkUp, bar4Resize,
hostCompletionReceive, completionTimeout that exec answers a next state, and which. -/
def Obligations.PortsAndCompletions : Prop :=
  (
  ∀ (port : Nat) (s : State), s.power.state ≠ 0 → port < 2 →
    (s.power.perst = false → s.power.state ≠ 2 → s.power.bootStep ≤ 3 → ∀ m, exec (.configurationRequest port m) s =
      .next (stepEnd { s with out := .configRetry port :: s.out })) ∧
    (s.power.perst = false → (s.power.state = 2 ∨ 3 < s.power.bootStep) → s.host.msix = [] → ∃ t, exec (.configurationRequest port none) s = .next (stepEnd t) ∧
      t = { s with out := .configDone port :: s.out }) ∧
    (s.power.perst = false → (s.power.state = 2 ∨ 3 < s.power.bootStep) → s.host.msix = [] → ∀ en mk, ∃ t, exec (.configurationRequest port (some (en, mk))) s = .next (stepEnd t) ∧
      t.host.msixEnable.toNat.testBit port = en ∧ t.host.msixMask.toNat.testBit port = mk ∧ t.mem = s.mem) ∧
    (∀ speed width flit, s.power.perst = false → 1 ≤ speed → speed ≤ 6 → width ∈ [1, 2, 4, 8, 16] → exec (.hostLinkUp port speed width flit) s =
      .next (stepEnd { s with host := { s.host with ports := mput port0 s.host.ports port { portOf s port with speed := speed, width := width, flit := flit, up := true } } })) ∧
    (∀ n, n ≤ 4 → ∃ t, exec (.bar4Resize n) s = .next (stepEnd t) ∧ t.host = { s.host with barSize := n } ∧ t.mem = s.mem ∧ ∀ k, k < 16 → segWord t k = 2 ^ 63 + k * 2 ^ (32 + n)) ∧
    (∀ n, 4 < n → exec (.bar4Resize n) s = .next (stepEnd s))) ∧ (
  ∀ (tag : Nat) (s : State), s.power.state ≠ 0 →
    (windowReadOf s tag = none → (∀ st ep data, exec (.hostCompletionReceive tag st ep data []) s = .next (stepEnd s)) ∧
      exec (.completionTimeout tag) s = .next (stepEnd s)) ∧
    (∀ r k (data : List Byte), windowReadOf s tag = some r → r.tag = tag → r.why = .param k → (slotOf s k).paramDue = true → r.got = [] → data.length = r.bytes →
      records s (slotPart s k) 8 = false → ∀ waits, ∃ t, exec (.hostCompletionReceive tag 0 false data waits) s = .next (stepEnd t) ∧ (slotOf t k).param = some (data.map (fun b => (b, false))) ∧
        (slotOf t k).paramDue = false ∧ (∀ x ∈ t.host.reads, x.tag ≠ tag) ∧ (∀ j, j ≠ k → slotOf t j = slotOf s j) ∧ t.mem = s.mem ∧ t.err = s.err) ∧
    (∀ r k st ep (data : List Byte), windowReadOf s tag = some r → r.tag = tag → r.why = .param k → (slotOf s k).paramDue = true → r.got = [] → st ≠ 0 → records s (slotPart s k) 8 = false →
      ∃ t, exec (.hostCompletionReceive tag st ep data []) s = .next (stepEnd t) ∧ exec (.completionTimeout tag) s = .next (stepEnd t) ∧
        (slotOf t k).param = some (List.replicate r.bytes (0#8, true)) ∧ (portOf t r.port).cplErrors = satTo 16 ((portOf s r.port).cplErrors + 1) ∧
        (errCtrOf t errHost).uncorrectable = satTo 16 ((errCtrOf s errHost).uncorrectable + 1) ∧ t.mem = s.mem))

/-! ### Errors, messages and availability (chapters 20 and 22) -/

/-- One fault adds 1 to one field of one counter, which saturates at 65,535; every other counter stays. Where the new
value is a multiple of the category's threshold and no span is open, one CROSSING message goes out and opens the span
(R500, R501). -/
def Obligations.FaultsAreCountedOnce : Prop :=
  ∀ (key cat : Nat) (s : State), cat < 4 →
    catField (errCtrOf (countErr s key cat) key) cat = satTo 16 (catField (errCtrOf s key) cat + 1) ∧
    (∀ c, c < 4 → c ≠ cat → catField (errCtrOf (countErr s key cat) key) c = catField (errCtrOf s key) c) ∧
    (∀ k, k ≠ key → errCtrOf (countErr s key cat) k = errCtrOf s k) ∧ (countErr s key cat).mem = s.mem ∧
    (catField (errCtrOf s key) cat < 65535 → threshold s cat ≠ 0 → (catField (errCtrOf s key) cat + 1) % threshold s cat = 0 → mfind s.err.crossings (4 * key + cat) = none →
      s.msg.queue.length < 64 → ∃ r : Rec, (countErr s key cat).msg.queue = s.msg.queue ++ [r] ∧ fld r.toNat 7 0 = 1 ∧ fld r.toNat 15 8 = 1 ∧
        (mfind (countErr s key cat).err.crossings (4 * key + cat)).isSome = true) ∧
    (threshold s cat = 0 ∨ (catField (errCtrOf s key) cat + 1) % threshold s cat ≠ 0 → (countErr s key cat).msg = s.msg)

/-- Messages and the module's health. A span that held crossings back sends them in one message once its 2^20 ns are
over (R501); DEV_MSG_HEAD moves when it leaves no more records than the ring holds (R502); every sensor reports at its
period, whose multiples the time count reaches, and one that leaves its limits is reported and asserts ALERT# (R505,
R560). The I3C READ command answers the power, identity and count registers in every state (R561). Says of
thresholdSpanEnd, msgHeadWrite, sensorPeriodic, sensorLimit, i3cRead that exec answers a next state, and which. -/
def Obligations.MessagesAndSensors : Prop :=
  ∀ s : State,
    (∀ level unit cat x, s.power.state ≠ 0 → level ≤ 2 → unit < 4096 → cat ≤ 3 → mfind s.err.crossings (4 * (level * 4096 + unit) + cat) = some x →
      (x.suppressed = 0 → exec (.thresholdSpanEnd level unit cat) s = .next (stepEnd s)) ∧
      (sinceCount s x.at_ < 2 ^ 20 → exec (.thresholdSpanEnd level unit cat) s = .next (stepEnd s)) ∧
      (x.suppressed ≠ 0 → 2 ^ 20 ≤ sinceCount s x.at_ → s.msg.queue.length < 64 → ∃ t r, exec (.thresholdSpanEnd level unit cat) s = .next (stepEnd t) ∧ t.msg.queue = s.msg.queue ++ [r] ∧ fld r.toNat 7 0 = 1 ∧
        mfind t.err.crossings (4 * (level * 4096 + unit) + cat) = some { at_ := s.time.count, suppressed := 0 } ∧ t.err.counters = s.err.counters)) ∧
    (∀ v : BitVec 32, s.power.state ≠ 0 → (s.msg.tail - v).toNat ≤ ringEntries (msgRing s) → exec (.msgHeadWrite v) s = .next (stepEnd { s with msg := { s.msg with head := v } })) ∧
    (∀ v : BitVec 32, s.power.state ≠ 0 → ringEntries (msgRing s) < (s.msg.tail - v).toNat → exec (.msgHeadWrite v) s = .next (stepEnd (keepSupply s (countErr s errConfig catProtocol)))) ∧
    (∀ vs, s.power.state ≠ 0 → (sensorPeriod s = 0 ∨ s.time.count.toNat % (sensorPeriod s * 2 ^ 30) ≠ 0) → exec (.sensorPeriodic vs) s = .next (stepEnd s)) ∧
    (∀ vs, s.power.state ≠ 0 → sensorPeriod s ≠ 0 → s.time.count.toNat % (sensorPeriod s * 2 ^ 30) = 0 → s.msg.queue = [] → ∃ t, exec (.sensorPeriodic vs) s = .next (stepEnd t) ∧ t.msg.queue.length = 22 ∧ t.msg.seq = s.msg.seq + 22#32 ∧
      t.mem = s.mem ∧ t.fe = s.fe ∧ t.err = s.err) ∧
    (∀ id v, id < 22 → sensorZone s.rate.rate id v ≠ 0 → sensorZone s.rate.rate id v ≠ mget 0 s.err.sensorOut id → ∃ t, exec (.sensorLimit id v) s = .next (stepEnd t) ∧
      alertAsserted t = true ∧ t.mem = s.mem ∧ t.power = s.power ∧ (s.power.state = 0 → t.msg = s.msg) ∧
      (s.power.state ≠ 0 → mfind s.err.sensorAt id = none → s.msg.queue.length < 64 → ∃ r : Rec, t.msg.queue = s.msg.queue ++ [r] ∧ fld r.toNat 7 0 = 8 ∧
        fld r.toNat 15 8 = sensorZone s.rate.rate id v + 1 ∧ fld r.toNat 31 24 = id)) ∧
    (∀ sel : BitVec 24, s.power.standby = true → s.power.state ≠ 2 → (8 * sel.toNat = 0 ∨ 8 * sel.toNat = 0x100 ∨ 8 * sel.toNat = 0x108 ∨ (0x2000 ≤ 8 * sel.toNat ∧ 8 * sel.toNat < 0x3000)) →
      exec (.i3cRead sel) s = .next (stepEnd { s with out := .i3cData (BitVec.ofNat 64 (regValue s (8 * sel.toNat))) :: s.out }))

/-- The active dispatcher's heartbeat is noted; when it fails the spare takes over and the failure is counted in HARD,
and with none left nothing more is fetched or completed; a spare that fails leaves service (R25, R26, R508). The balance
monitor keeps its window's ratio, and counts an imbalance that reaches its threshold (R473, R478). Says of heartbeat,
dispatcherTakeover, balanceWindow that exec answers a next state, and which. -/
def Obligations.DispatchersAndBalance : Prop :=
  ∀ s : State, s.power.state = 2 →
    (noDispatcher s = false → exec .heartbeat s = .next (stepEnd { s with fe := { s.fe with heartbeat := s.time.count } })) ∧
    (noDispatcher s = true → exec .heartbeat s = .next (stepEnd s) ∧ ∀ ns spare, exec (.dispatcherTakeover ns spare) s = .next (stepEnd s)) ∧
    (∀ ns, s.fuse.dispGood = 3#2 → ∃ t, exec (.dispatcherTakeover ns false) s = .next (stepEnd t) ∧ t.fuse.dispGood = 2#2 ∧ t.err.takeovers = satTo 16 (s.err.takeovers + 1) ∧
      t.fe.heartbeat = s.time.count ∧ t.fe.watchFrom = some s.time.count ∧ t.fe.events = s.fe.events) ∧
    (∀ ns, s.fuse.dispGood = 1#2 ∨ s.fuse.dispGood = 2#2 → ∃ t, exec (.dispatcherTakeover ns false) s = .next (stepEnd t) ∧ noDispatcher t = true ∧ t.mem = s.mem ∧ t.fe = s.fe) ∧
    (∀ ns, s.fuse.dispGood = 3#2 → exec (.dispatcherTakeover ns true) s = .next (stepEnd (keepSupply s (countErr { s with fuse := { s.fuse with dispGood := 1#2 } } errFe catHard)))) ∧
    (∀ ns, s.fuse.dispGood = 1#2 ∨ s.fuse.dispGood = 2#2 → exec (.dispatcherTakeover ns true) s = .next (stepEnd s)) ∧
    (∀ counts, counts.length = 512 → counts.foldl (· + ·) 0 ≠ 0 → ∃ t, exec (.balanceWindow counts) s = .next (stepEnd t) ∧
      t.integ.maxRatio = counts.foldl max 0 * 16 * 512 / counts.foldl (· + ·) 0 ∧ nth 0 counts t.integ.hotChannel = counts.foldl max 0 ∧ t.mem = s.mem ∧
      t.integ.imbalance = (if 65536 ≤ counts.foldl (· + ·) 0 ∧ balanceThreshold s ≤ counts.foldl max 0 * 16 * 512 / counts.foldl (· + ·) 0 then satTo 16 (s.integ.imbalance + 1) else s.integ.imbalance))

/-- MIGRATE with KIND 0x1 retires a core: FORMAT for a core beyond the grade or a row without a spare, which is counted;
otherwise the row's spare takes its place once the row is quiet, the rest of the row moving by one physical core, and
CORE_RETIRED goes out (R21, R23, R509, R510). With RETIRE_AUTO the device retires a core whose HARD count has reached
its threshold by itself (R509). Says of coreRetire that exec answers a next state, and which. -/
def Obligations.CoresRetire : Prop :=
  ∀ (k q : Nat) (c : Fetched) (other : Nat) (s : State), s.power.state ≠ 0 → Running s k q 0x77 c → RecordFits s c → cmdFld c.bits 16 16 = 1 → structuralTurn s k = true →
    (logicalCores s ≤ cmdFld c.bits 20 21 → exec (.coreRetire (some k) other) s = .next (stepEnd (keepSupply s (ended s k q c (doneWith 8 0))))) ∧
    (cmdFld c.bits 20 21 < logicalCores s → hasSpare s (rowNo s (cmdFld c.bits 20 21)) = false → ∃ t, exec (.coreRetire (some k) other) s = .next (stepEnd t) ∧
      t.err.noSpare = satTo 16 (s.err.noSpare + 1) ∧ t.err.retire = none ∧ t.fuse = s.fuse) ∧
    (cmdFld c.bits 20 21 < logicalCores s → hasSpare s (rowNo s (cmdFld c.bits 20 21)) = true → retireQuiet s (rowNo s (cmdFld c.bits 20 21)) = true →
      ∃ t, exec (.coreRetire (some k) other) s = .next (stepEnd t) ∧ t.err.retire = none ∧ t.err.retirements = satTo 16 (s.err.retirements + 1) ∧
        (rowMapOf t (rowNo s (cmdFld c.bits 20 21))).retired.length = (rowMapOf s (rowNo s (cmdFld c.bits 20 21))).retired.length + 1) ∧
    (cmdFld c.bits 20 21 < logicalCores s → hasSpare s (rowNo s (cmdFld c.bits 20 21)) = true → retireQuiet s (rowNo s (cmdFld c.bits 20 21)) = false →
      ∃ t x, exec (.coreRetire (some k) other) s = .next (stepEnd t) ∧ t.err.retire = some x ∧ x.slot = some k ∧ x.core = cmdFld c.bits 20 21 ∧ t.fuse = s.fuse ∧ t.mem = s.mem) ∧
    (∀ core, structuralFree s = true → s.power.state = 2 →
      (retiresItself s core = false → exec (.coreRetire none core) s = .next (stepEnd s)) ∧
      (retiresItself s core = true → hasSpare s (rowNo s core) = true → retireQuiet s (rowNo s core) = true → ∃ t, exec (.coreRetire none core) s = .next (stepEnd t) ∧ t.err.retire = none ∧
        t.err.retirements = satTo 16 (s.err.retirements + 1) ∧ (rowMapOf t (rowNo s core)).retired.length = (rowMapOf s (rowNo s core)).retired.length + 1))

/-! ### Links (chapter 16) -/

/-- A link sends one frame at a time, as one codeword per lane (R408), keeps it until it is acknowledged, holds at most
64, and sends kept frames again during a replay (R409, R412). A frame that does not decode, or whose CRC fails, is
counted and answered with NAK; one with another sequence number is dropped, one with the next sequence number is taken,
and its ACK_SEQ frees the frames it covers (R411). A fast retrain that ends well sends every kept frame again; one that
fails starts full training (R412). A receiver that loses lanes asks for six, then for four, and with fewer the link
fails, and a packet that waits on it is held where its route has no other up link (R423); at SWITCH_SEQ both sides
change lane set, and the delay is measured again (R421, R50). Says of frameSend, frameReceive, fastRetrainDone,
laneFail, laneSwitch that exec answers a next state, and which. -/
def Obligations.FramesAndLanes : Prop :=
  (
  ∀ (l : Nat) (s : State), s.power.state ≠ 0 → l < 32 → sendsFrames (linkOf s l) = true →
    (∀ stall, (linkOf s l).resend = [] → (linkOf s l).unacked.length < 64 → ¬ ((linkOf s l).switchOurs = true ∧ (linkOf s l).switchAt.map Prod.fst = some (linkOf s l).txSeq) → ∃ t f, exec (.frameSend l stall) s = .next (stepEnd t) ∧ t.out = .linkFrame l (laneCodewords f) :: s.out ∧
      (linkOf t l).unacked = (linkOf s l).unacked ++ [((linkOf s l).txSeq, f)] ∧ (linkOf t l).txSeq = (linkOf s l).txSeq + 1#32 ∧ (linkOf t l).nakDue = false ∧
      (linkOf t l).freedData = 0 ∧ (∀ k, k ≠ l → linkOf t k = linkOf s k) ∧ t.mem = s.mem) ∧
    (∀ stall f rest, (linkOf s l).resend = f :: rest → ∃ t, exec (.frameSend l stall) s = .next (stepEnd t) ∧ t.out = .linkFrame l (laneCodewords f) :: s.out ∧ (linkOf t l).resend = rest ∧
      (linkOf t l).unacked = (linkOf s l).unacked ∧ (linkOf t l).txSeq = (linkOf s l).txSeq ∧ ∀ k, k ≠ l → linkOf t k = linkOf s k) ∧
    ((linkOf s l).resend = [] → 64 ≤ (linkOf s l).unacked.length ∨ ((linkOf s l).switchOurs = true ∧ (linkOf s l).switchAt.map Prod.fst = some (linkOf s l).txSeq) → exec (.frameSend l 0) s = .next (stepEnd s)) ∧
    (∀ n ms, exec (.frameReceive l false n ms) s = .next (stepEnd (setLink s l { linkOf s l with
      fec := BitVec.ofNat 64 (satTo 64 ((linkOf s l).fec.toNat + n)), fecUnc := satTo 16 ((linkOf s l).fecUnc + 1), nakDue := true }))) ∧
    (∀ n (ms : List (BitVec 5140)) bytes size at_, bytes = frameOfLanes ms → at_ = codeLength ms.length + 64 * (10 * ms.length - 1) →
      size = codeLength ms.length + 64 * (10 * ms.length) →
      (takesLanes (linkOf s l) ms.length = false ∨ crc64 (bytes.take (size - 8)) ≠ ofLe ((bytes.drop (size - 8)).take 8) → ∃ t, exec (.frameReceive l true n ms) s = .next (stepEnd t) ∧ (linkOf t l).crcFails = satTo 16 ((linkOf s l).crcFails + 1) ∧
        (linkOf t l).nakDue = true ∧ (linkOf t l).rxSeq = (linkOf s l).rxSeq ∧ (linkOf t l).rxData = (linkOf s l).rxData ∧ t.mem = s.mem ∧
        (errCtrOf t errLink).corrected = satTo 16 ((errCtrOf s errLink).corrected + 1)) ∧
      (takesLanes (linkOf s l) ms.length = true → crc64 (bytes.take (size - 8)) = ofLe ((bytes.drop (size - 8)).take 8) →
        BitVec.ofNat 32 (ofLe ((bytes.drop at_).take 4)) ≠ (linkOf s l).rxSeq + 1#32 → exec (.frameReceive l true n ms) s = .next (stepEnd (setLink s l { linkOf s l with
          fec := BitVec.ofNat 64 (satTo 64 ((linkOf s l).fec.toNat + n)) }))) ∧
      (takesLanes (linkOf s l) ms.length = true → crc64 (bytes.take (size - 8)) = ofLe ((bytes.drop (size - 8)).take 8) →
        BitVec.ofNat 32 (ofLe ((bytes.drop at_).take 4)) = (linkOf s l).rxSeq + 1#32 → ∃ t, exec (.frameReceive l true n ms) s = .next (stepEnd t) ∧
        (linkOf t l).rxSeq = (linkOf s l).rxSeq + 1#32 ∧ (linkOf t l).nakDue = false ∧ (linkOf t l).crcFails = (linkOf s l).crcFails ∧ t.mem = s.mem ∧
        (linkOf t l).unacked = keptAfter (BitVec.ofNat 32 (ofLe ((bytes.drop (at_ + 4)).take 4))) (linkOf s l).unacked))) ∧ (
  ∀ (l : Nat) (s : State), s.power.state ≠ 0 → l < 32 →
    ((linkOf s l).state = 5 →
      (∀ stall, ∃ t, exec (.fastRetrainDone l true stall) s = .next (stepEnd t) ∧ (linkOf t l).state = 3 ∧ (linkOf t l).resends = (linkOf s l).unacked.map (fun _ => 0) ∧
        (linkOf t l).resend = (linkOf s l).unacked.map Prod.snd ∧ (linkOf t l).unacked = (linkOf s l).unacked ∧ t.mem = s.mem) ∧
      (∀ stall, ∃ t, exec (.fastRetrainDone l false stall) s = .next (stepEnd t) ∧ (linkOf t l).state = 2 ∧ (linkOf t l).trained = false ∧ t.mem = s.mem)) ∧
    (∀ (good : BitVec 8) m, (linkOf s l).state = 3 → good.toNat &&& (linkOf s l).laneMask = m → m ≠ (linkOf s l).laneMask →
      (6 ≤ popUpTo 8 m → exec (.laneFail l good) s = .next (stepEnd (setLink s l { linkOf s l with degradeReq := some (lowestLanes 6 m) }))) ∧
      (4 ≤ popUpTo 8 m → popUpTo 8 m < 6 → exec (.laneFail l good) s = .next (stepEnd (setLink s l { linkOf s l with degradeReq := some (lowestLanes 4 m) }))) ∧
      (popUpTo 8 m < 4 → ∃ t, exec (.laneFail l good) s = .next (stepEnd t) ∧ (linkOf t l).state = 2 ∧ (linkOf t l).trained = false ∧ (linkOf t l).laneMask = 0 ∧
        (errCtrOf t errLink).hard = satTo 16 ((errCtrOf s errLink).hard + 1) ∧ t.mem = s.mem) ∧
      (∀ fs p rest, popUpTo 8 m < 4 → (linkOf s l).txData = [fs] → (linkOf s l).txResp = [] → packetHead fs = some (p, rest) → upRoute s p.dst = [l] → ∃ t, exec (.laneFail l good) s = .next (stepEnd t) ∧
        (linkOf t l).txData = [] ∧ t.net.held = s.net.held ++ [{ pkt := { p with slot := slotOfPacket s p }, since := s.time.count, via := none }])) ∧
    (∀ w, (linkOf s l).switchAt = some w → switchReached (linkOf s l) w = false → exec (.laneSwitch l 0) s = .next (stepEnd s)) ∧
    (∀ stall w, (linkOf s l).switchAt = some w → switchReached (linkOf s l) w = true → ∃ t f, exec (.laneSwitch l stall) s = .next (stepEnd t) ∧ (linkOf t l).laneMask = w.2 ∧ (linkOf t l).switchAt = none ∧
      (linkOf t l).degradeReq = none ∧ (linkOf t l).degrades = satTo 8 ((linkOf s l).degrades + 1) ∧ (linkOf t l).reqOut = some (s.time.count, 0) ∧
      (linkOf t l).txSync = f :: (linkOf s l).txSync ∧ flitByte f 0 0 = 0x19 ∧ (errCtrOf t errLink).hard = satTo 16 ((errCtrOf s errLink).hard + 1)))

/-- Training leaves a link with full credits and a new sequence, and sends HELLO; the peer's HELLO brings the link up
where it agrees with LINK_TOPOLOGY, else the link is MISWIRED and sends HELLO again. A link that fails and was up trains
again (R413, R422). DISABLE, ENABLE and RETRAIN change the links they name; ENABLE waits in its slot until they are up,
and a link without a peer ends it with FORMAT (R430). Says of trainingDone, trainingRetry, hello, helloResend, disable,
enable, retrain that exec answers a next state, and which. -/
def Obligations.LinksTrainAndComeUp : Prop :=
  ∀ s : State, s.power.state ≠ 0 →
    (∀ l, l < 32 → (linkOf s l).state = 2 → (linkOf s l).trained = false →
      (∀ mask : BitVec 8, popUpTo 8 mask.toNat ∈ [8, 6, 4] → popUpTo 8 mask.toNat ≤ maxLanes s l → ∃ t f, exec (.trainingDone l true mask) s = .next (stepEnd t) ∧
        linkOf t l = { freshLink (linkOf s l) mask.toNat with txMgmt := (linkOf s l).txMgmt ++ [f] } ∧ flitByte f 0 0 = 0x20 ∧ (∀ k, k ≠ l → linkOf t k = linkOf s k) ∧ t.mem = s.mem) ∧
      (∀ mask, (linkOf s l).trainers = [] → ∃ t, exec (.trainingDone l false mask) s = .next (stepEnd t) ∧ (linkOf t l).state = 1 ∧ (linkOf t l).everUp = (linkOf s l).everUp ∧
        (∀ k, k ≠ l → linkOf t k = linkOf s k) ∧ t.mem = s.mem)) ∧
    (∀ l, l < 32 → (linkOf s l).state = 1 → (linkOf s l).everUp = true → ∃ t, exec (.trainingRetry l) s = .next (stepEnd t) ∧ (linkOf t l).state = 2 ∧ (linkOf t l).trained = false ∧
      (∀ k, k ≠ l → linkOf t k = linkOf s k) ∧ t.mem = s.mem) ∧
    (∀ l f rest fo, (linkOf s l).rxMgmt = f :: rest → flitByte f 0 0 = 0x20 → s.image.force = some fo → ((linkOf s l).state = 2 ∧ (linkOf s l).trained = true ∨ (linkOf s l).state = 4) →
      (linkOf s l).trainers = [] →
      (flitByte f 2 2 = (linkTopo s l).peer → flitByte f 4 4 = (linkTopo s l).peerLink → flitByte f 5 5 = domainSize s → flitByte f 6 6 = fo.leader →
        ∃ t, exec (.hello l) s = .next (stepEnd t) ∧ (linkOf t l).state = 3 ∧ (linkOf t l).everUp = true ∧ (linkOf t l).rxMgmt = rest ∧ t.mem = s.mem) ∧
      (flitByte f 2 2 ≠ (linkTopo s l).peer ∨ flitByte f 4 4 ≠ (linkTopo s l).peerLink ∨ flitByte f 5 5 ≠ domainSize s ∨ flitByte f 6 6 ≠ fo.leader →
        ∃ t, exec (.hello l) s = .next (stepEnd t) ∧ (linkOf t l).state = 4 ∧ (linkOf t l).rxMgmt = rest ∧ t.mem = s.mem)) ∧
    (∀ l, (linkOf s l).state = 4 → ∃ f, exec (.helloResend l) s = .next (stepEnd (setLink s l { linkOf s l with txMgmt := (linkOf s l).txMgmt ++ [f] })) ∧ flitByte f 0 0 = 0x20) ∧
    (∀ k q c, Running s k q 0x72 c → RecordFits s c →
      (cmdFld c.bits 16 16 = 1 → (∀ l, (linkOf s l).trainers = []) → ∃ t, exec (.disable k) s = .next (stepEnd t) ∧ (slotOf t k).cmd = none ∧
        ∀ l, (linkOf t l).state = if (linksNamed c).contains l then 0 else (linkOf s l).state) ∧
      ((linksNamed c).any (unused s) = false → waitsForLinks s k = false → linksNamed c ≠ [] →
        (cmdFld c.bits 16 16 = 2 → (∀ l ∈ linksNamed c, (linkOf s l).state ≤ 1) → ∃ t, exec (.enable k) s = .next (stepEnd t) ∧ slotOf t k = slotOf s k ∧
          ∀ l, (linkOf t l).state = if (linksNamed c).contains l then 2 else (linkOf s l).state) ∧
        (cmdFld c.bits 16 16 = 2 → (∀ l ∈ linksNamed c, (linkOf s l).state = 3) → exec (.enable k) s = .next (stepEnd (keepSupply s (ended s k q c (doneWith 0 0))))) ∧
        (cmdFld c.bits 16 16 = 3 → ∃ t, exec (.retrain k) s = .next (stepEnd t) ∧ slotOf t k = slotOf s k ∧ (∀ l ∈ linksNamed c, k ∈ (linkOf t l).trainers) ∧
          ∀ l, (linkOf t l).state = if (linksNamed c).contains l then 2 else (linkOf s l).state)) ∧
      ((linksNamed c).any (unused s) = true → waitsForLinks s k = false →
        (cmdFld c.bits 16 16 = 2 → exec (.enable k) s = .next (stepEnd (keepSupply s (ended s k q c (doneWith 8 0))))) ∧
        (cmdFld c.bits 16 16 = 3 → exec (.retrain k) s = .next (stepEnd (keepSupply s (ended s k q c (doneWith 8 0)))))))

/-- SET_MAX_LANES writes the lane count 8, 6 or 4 of disabled links, and ends with FROZEN where one is not disabled;
PRBS_TEST runs on disabled links for 1 µs to 1 s and then stores the errors of each lane, eight bytes each, behind its
block (R430). RELEASED counts go back to their source and free the pair there (R415). A multicast member grants at most
16 buffers and forgets what is released; the source sends once every member has granted, and when the wait for grants
ends it sends all the same and counts the late members (R426, R427). Says of setMaxLanes, prbsTest, prbsTestDone,
releasedSend, released, mcastReserve, mcastRelease, mcastGrant, mcastGrantTimeout that exec answers a next state, and
which. -/
def Obligations.LinkSettingsAndMulticast : Prop :=
  ∀ s : State, s.power.state ≠ 0 →
    (∀ k q c b u, Running s k q 0x72 c → cmdFld c.bits 16 16 = 4 → blockRead s k (cmdFld c.bits 24 31) 64 = .bytes b u → blkFld b 0 0 ∈ [8, 6, 4] →
      ((linksNamed c).all (disabled u) = true → ∃ t, exec (.setMaxLanes k) s = .next (stepEnd t) ∧ ∀ l ∈ linksNamed c, maxLanes t l = blkFld b 0 0) ∧
      (∀ l, (linksNamed c).find? (fun l => !disabled u l) = some l → Running u k q 0x72 c → RecordFits (frozenWrite u .lnk (lanesReg l)) c → exec (.setMaxLanes k) s =
        .next (stepEnd (keepSupply s (ended (frozenWrite u .lnk (lanesReg l)) k q c (doneWith 11 0)))))) ∧
    (∀ k q c b u, Running s k q 0x72 c → cmdFld c.bits 16 16 = 5 → s.net.prbs = none → blockRead s k (cmdFld c.bits 24 31) 64 = .bytes b u →
      1 ≤ blkFld b 0 3 → blkFld b 0 3 ≤ 1000000 → (∀ l ∈ linksNamed c, unused u l = false ∧ disabled u l = true) → exec (.prbsTest k) s =
        .next (stepEnd (keepSupply s { u with net := { u.net with prbs := some { slot := k, links := linksNamed c, dest := cmdFld c.bits 24 31 + 64 } } }))) ∧
    (∀ errs k q c p, s.net.prbs = some p → p.slot = k → Running s k q 0x72 c → cmdFld c.bits 16 16 = 5 → RecordFits s c → s.integ.ecc = [] → s.integ.badCheckers = [] → regActive s 0xC00010 0 < 2 ^ 62 →
      (∀ i, i < 64 * p.links.length → region s.fuse.grade (p.dest + i) = .hbm) → p.links ≠ [] →
      ∃ u, exec (.prbsTestDone errs) s = .next (stepEnd (keepSupply s (ended u k q c (doneWith 0 0)))) ∧ u.net.prbs = none ∧
        ∀ x, memByte u x = if p.dest ≤ x ∧ x < p.dest + 64 * p.links.length then BitVec.ofNat 8 (nth 0 errs ((x - p.dest) / 8) / 2 ^ (8 * ((x - p.dest) % 8))) else memByte s x) ∧
    (∀ m l ls, (pairRxOf s m).unreported ≠ 0 → upRoute s m = l :: ls → ∃ t f, exec (.releasedSend m) s = .next (stepEnd t) ∧ (pairRxOf t m).unreported = 0 ∧
      linkOf t l = { linkOf s l with txMgmt := (linkOf s l).txMgmt ++ [f] } ∧ flitByte f 0 0 = 0x21 ∧ flitByte f 4 7 = (pairRxOf s m).unreported % 2 ^ 32) ∧
    (∀ m, (pairRxOf s m).unreported = 0 ∨ upRoute s m = [] → exec (.releasedSend m) s = .next (stepEnd s)) ∧
    (∀ l f rest, (linkOf s l).rxMgmt = f :: rest → flitByte f 0 0 = 0x21 → (pairTxOf s (flitByte f 2 2)).waiting = [] → ∃ t, exec (.released l) s = .next (stepEnd t) ∧
      (linkOf t l).rxMgmt = rest ∧ (pairTxOf t (flitByte f 2 2)).unreleased = (pairTxOf s (flitByte f 2 2)).unreleased - flitByte f 4 7 ∧ t.mem = s.mem) ∧
    (∀ l f rest, (linkOf s l).rxMgmt = f :: rest → flitByte f 0 0 = 0x22 → s.net.reserves = [] → ∃ t, exec (.mcastReserve l) s = .next (stepEnd t) ∧ t.mem = s.mem ∧
      (s.net.buffers.length < 16 → t.net.reserves = [] ∧ t.net.buffers = s.net.buffers ++ [(flitByte f 2 2, BitVec.ofNat 32 (flitByte f 4 7), flitByte f 8 11)]) ∧
      (16 ≤ s.net.buffers.length → t.net.buffers = s.net.buffers ∧ t.net.reserves = [(flitByte f 2 2, BitVec.ofNat 32 (flitByte f 4 7), flitByte f 8 11)])) ∧
    (∀ l f rest, (linkOf s l).rxMgmt = f :: rest → flitByte f 0 0 = 0x24 → s.net.reserves = [] → ∃ t, exec (.mcastRelease l) s = .next (stepEnd t) ∧ t.mem = s.mem ∧
      t.net.buffers = s.net.buffers.filter (fun r => !(r.1 == flitByte f 2 2 && r.2.1 == BitVec.ofNat 32 (flitByte f 4 7)))) ∧
    (∀ l f rest x, (linkOf s l).rxMgmt = f :: rest → flitByte f 0 0 = 0x23 → s.net.mcast = [x] → x.id = BitVec.ofNat 32 (flitByte f 4 7) → ∃ t, exec (.mcastGrant l) s = .next (stepEnd t) ∧
      (x.members &&& ~~~(x.granted ||| BitVec.ofNat 64 (2 ^ flitByte f 2 2)) ≠ 0#64 → t.mem = s.mem ∧
        t.net.mcast = [{ x with granted := x.granted ||| BitVec.ofNat 64 (2 ^ flitByte f 2 2) }]) ∧
      (x.members &&& ~~~(x.granted ||| BitVec.ofNat 64 (2 ^ flitByte f 2 2)) = 0#64 → t.net.mcast = [] ∧
        (mcastCtrOf t x.group).transfers = satTo 32 ((mcastCtrOf s x.group).transfers + 1))) ∧
    (∀ x, s.net.mcast = [x] → x.members &&& ~~~x.granted ≠ 0#64 → ∃ t, exec (.mcastGrantTimeout x.id) s = .next (stepEnd t) ∧ t.net.mcast = [] ∧
      (mcastCtrOf t x.group).transfers = satTo 32 ((mcastCtrOf s x.group).transfers + 1) ∧
      (mcastCtrOf t x.group).retried = satTo 16 ((mcastCtrOf s x.group).retried + popUpTo 64 (x.members &&& ~~~x.granted).toNat))

/-- The data channel at its receiver: a packet in pair order is released: a WRITE stores its bytes and no others, an
announce or a read waits for its own row; one ahead of its turn waits in the reorder window; one for another module is
held where no link of its route is up (R415, R416, R423). A READ_REQ is answered with the bytes of local memory, and the
answer's bytes reach the command that asked (R417). An announce to an event raises it to the announced value (R416). A
packet that no route took in time is dropped: the route is lost, and the command that sent it is marked LINK_DOWN
(R423). Says of dataPacketReceive, readReq, readResp, announceApply, routeHoldExpire that exec answers a next state, and
which. -/
def Obligations.PacketsLandInPairOrder : Prop :=
  ∀ s : State, s.power.state ≠ 0 →
    (∀ l p rest, packetHead (linkOf s l).rxData = some (p, rest) → p.dst = moduleId s → BitVec.ofNat 16 p.seq = (pairRxOf s p.src).next → (pairRxOf s p.src).window = [] →
      (p.typ = 1 → (∀ i, i < p.data.length → region s.fuse.grade (p.addr + i) = .hbm) → p.data ≠ [] → (∀ b ∈ p.data, b.2 = false) → (replayOf s).ranges = [] → s.integ.ecc = [] →
        s.integ.badCheckers = [] → regActive s 0xC00010 0 < 2 ^ 62 → ∀ waits, ∃ t, exec (.dataPacketReceive l waits) s = .next (stepEnd t) ∧ (linkOf t l).rxData = rest ∧
        (pairRxOf t p.src).next = (pairRxOf s p.src).next + 1#16 ∧ (pairRxOf t p.src).unreported = (pairRxOf s p.src).unreported + 1 ∧
        ∀ x, memByte t x = if p.addr ≤ x ∧ x < p.addr + p.data.length then (nth (0#8, false) p.data (x - p.addr)).1 else memByte s x) ∧
      (p.typ ∈ [2, 3, 4] → ∃ t, exec (.dataPacketReceive l []) s = .next (stepEnd t) ∧ (linkOf t l).rxData = rest ∧ t.mem = s.mem ∧
        pairRxOf t p.src = { next := (pairRxOf s p.src).next + 1#16, window := [], announce := (pairRxOf s p.src).announce ++ [p], unreported := (pairRxOf s p.src).unreported + 1 })) ∧
    (∀ l p rest, packetHead (linkOf s l).rxData = some (p, rest) → p.dst = moduleId s → BitVec.ofNat 16 p.seq ≠ (pairRxOf s p.src).next → (pairRxOf s p.src).window = [] →
      (BitVec.ofNat 16 p.seq - (pairRxOf s p.src).next).toNat < 1024 → ∃ t, exec (.dataPacketReceive l []) s = .next (stepEnd t) ∧ t.mem = s.mem ∧
      pairRxOf t p.src = { pairRxOf s p.src with window := [p] }) ∧
    (∀ l p rest, packetHead (linkOf s l).rxData = some (p, rest) → p.dst ≠ moduleId s → upRoute s p.dst = [] → ∃ t, exec (.dataPacketReceive l []) s = .next (stepEnd t) ∧ t.mem = s.mem ∧
      t.net.rx = s.net.rx ∧ t.net.held = s.net.held ++ [{ pkt := p, since := s.time.count, via := some l }]) ∧
    (∀ m p u l, takePending s m 3 = some (p, u) → bestLink s (upRoute s p.src) = some l → (pairTxOf s p.src).unreleased < 1024 → (∀ i, i < p.len → region s.fuse.grade (p.addr + i) = .hbm) → 0 < p.len →
      s.integ.ecc = [] → s.integ.badCheckers = [] → regActive s 0xC00010 0 < 2 ^ 62 → ∀ waits, ∃ t r, exec (.readReq m waits) s = .next (stepEnd t) ∧ t.mem = s.mem ∧
      (linkOf t l).txResp = (linkOf s l).txResp ++ [packetFlits r] ∧ r.typ = 4 ∧ r.dst = p.src ∧ r.tag = p.tag ∧ r.seq = (pairTxOf s p.src).next.toNat ∧
      r.data = (List.range p.len).map (fun i => (memByte s (p.addr + i), false))) ∧
    (∀ m p u r k, takePending s m 4 = some (p, u) → peerReadOf s p.tag = some r → r.why = .param k → (slotOf s k).paramDue = true → r.got = [] → p.data.length = r.bytes →
      ∀ waits, ∃ t, exec (.readResp m waits) s = .next (stepEnd t) ∧ (slotOf t k).param = some p.data ∧ (slotOf t k).paramDue = false ∧ (∀ j, j ≠ k → slotOf t j = slotOf s j) ∧ t.mem = s.mem) ∧
    (∀ m p u, takePending s m 2 = some (p, u) → region s.fuse.grade p.addr = .events → p.addr % 8 = 0 →
      (∀ w ∈ s.fe.waits, w.2.event ≠ (p.addr - eventBase) / 8) → ∃ t, exec (.announceApply m []) s = .next (stepEnd t) ∧
      eventOf t ((p.addr - eventBase) / 8) = (if (eventOf s ((p.addr - eventBase) / 8)).toNat < p.inline.toNat then p.inline else eventOf s ((p.addr - eventBase) / 8)) ∧
      (∀ e, e ≠ (p.addr - eventBase) / 8 → eventOf t e = eventOf s e) ∧ t.mem = s.mem) ∧
    (∀ m h, s.net.held.find? (fun h => h.pkt.dst == m) = some h → upRoute s m = [] → m < 64 → marchWith s m = [] → h.pkt.typ ≠ 3 → 1000 * holdUs s ≤ sinceCount s h.since → ∃ t, exec (.routeHoldExpire m) s = .next (stepEnd t) ∧
      t.net.routeLost.getLsbD m = true ∧ (errCtrOf t errLink).uncorrectable = satTo 16 ((errCtrOf s errLink).uncorrectable + 1) ∧
      t.net.held = s.net.held.erase h ∧ t.mem = s.mem ∧ (∀ k, h.pkt.typ = 1 → h.pkt.slot = some k → 14 ∈ (slotOf t k).flags)) ∧
    (∀ m, upRoute s m ≠ [] ∨ (∀ h, s.net.held.find? (fun h => h.pkt.dst == m) = some h → sinceCount s h.since < 1000 * holdUs s) → exec (.routeHoldExpire m) s = .next (stepEnd s))

/-! ### Synchronisation (chapter 15) -/

/-- Barriers. An arrival, by a context, by the host or by a sync flit, counts where its sense is the one the round still
waits for; the last one completes the round: the sense inverts, ARRIVED is 0 and ROUND advances (R386, R387, R405,
R418). Another arrival is refused and counted (R390), and an announced one is held while the core's writes are not
accepted (R393). A release wakes each context of its core that waits with its sense, the last one or one still on its
way, and a refusal restores the local sense (R388, R390). Signals to another module leave as sync flits (R392).
Counters. PRODUCE and CONSUME add their units, 1 to 65,535, to the counter and nothing else changes while the fill level
stays from 0 to SLACK and no context waits; a level outside is counted as a fault; a context whose wait is met is woken
(R395, R396). A counter of another module is reached by an announce write (R392); an announced count is held while the
core's writes are not accepted (R393). Says of arrive, hostSignal, releaseReceive, refusalReceive, syncFlitReceive,
produce, consume that exec answers a next state, and which. -/
def Obligations.SynchronisationObjectsCount : Prop :=
  (
  ∀ s : State, s.power.state ≠ 0 →
    (∀ k c b announce sense, k < 4 * logicalCores s → c < logicalCores s → b < 32 → (ctxOf s k).wait = none → sense = !senseOf (ctxOf s k) (barName (moduleId s) c b) →
      (announce = true → writesOut s (k / 4) = false) →
      (sense ≠ (barOf s c b).sense → barCount s c b ≠ 0 → (barOf s c b).arrived + 1 ≠ barCount s c b → exec (.arrive k (moduleId s) c b announce) s = .next (stepEnd
        (setBar (setCtx s k { flipSense (ctxOf s k) (barName (moduleId s) c b) with wait := some (.bar (moduleId s * 2048 + c) b sense), mark := 0, owed := false, held := false }) c b
          { barOf s c b with arrived := (barOf s c b).arrived + 1 }))) ∧
      (sense ≠ (barOf s c b).sense → (barOf s c b).arrived + 1 = barCount s c b → ∃ t, exec (.arrive k (moduleId s) c b announce) s = .next (stepEnd t) ∧
        (barOf t c b).sense = sense ∧ (barOf t c b).arrived = 0 ∧ (barOf t c b).round = ((barOf s c b).round + 1) % 2 ^ 16 ∧
        (ctxOf t k).wait = some (.bar (moduleId s * 2048 + c) b sense) ∧ (ctxOf t k).owed = true ∧ t.mem = s.mem ∧ t.fe = s.fe) ∧
      (sense = (barOf s c b).sense ∨ barCount s c b = 0 → ∃ t, exec (.arrive k (moduleId s) c b announce) s = .next (stepEnd t) ∧ (ctxOf t k).mark = 4 ∧
        barOf t c b = { barOf s c b with overs := satTo 8 ((barOf s c b).overs + 1) } ∧ (syncStatusOf t c).overs = satTo 16 ((syncStatusOf s c).overs + 1))) ∧
    (∀ k c b, k < 4 * logicalCores s → c < logicalCores s → b < 32 → (ctxOf s k).wait = none → writesOut s (k / 4) = true → exec (.arrive k (moduleId s) c b true) s = .next (stepEnd
      (setCtx s k { flipSense (ctxOf s k) (barName (moduleId s) c b) with
        wait := some (.bar (moduleId s * 2048 + c) b (!senseOf (ctxOf s k) (barName (moduleId s) c b))), mark := 0, owed := false, held := true }))) ∧
    (∀ k m c b l ls, k < 4 * logicalCores s → b < 32 → (ctxOf s k).wait = none → m ≠ moduleId s → upRoute s m = l :: ls → ∃ t f, exec (.arrive k m c b false) s = .next (stepEnd t) ∧
      linkOf t l = { linkOf s l with txSync := (linkOf s l).txSync ++ [f] } ∧ flitByte f 0 0 = 0x10 ∧ flitByte f 8 15 = arriveWord (!senseOf (ctxOf s k) (barName m c b)) ∧
      (ctxOf t k).wait = some (.bar (m * 2048 + c) b (!senseOf (ctxOf s k) (barName m c b))) ∧ t.sync.bars = s.sync.bars) ∧
    (∀ c (w : BitVec 64), c < logicalCores s → sigOk true w.toNat = true → sigKind w.toNat = 0 → sigSense w.toNat ≠ (barOf s c (fld w.toNat 4 0)).sense →
      (barOf s c (fld w.toNat 4 0)).arrived + 1 < barCount s c (fld w.toNat 4 0) → exec (.hostSignal c w) s = .next (stepEnd (setBar s c (fld w.toNat 4 0)
        { barOf s c (fld w.toNat 4 0) with arrived := (barOf s c (fld w.toNat 4 0)).arrived + 1, hostArrivals := (barOf s c (fld w.toNat 4 0)).hostArrivals + 1 }))) ∧
    (∀ c (w : BitVec 64), c < logicalCores s → sigOk true w.toNat = false → exec (.hostSignal c w) s = .next (stepEnd (keepSupply s (syncRefused s c)))) ∧
    (∀ c (w : BitVec 64), logicalCores s ≤ c → exec (.hostSignal c w) s = .next (stepEnd s)) ∧
    (∀ core c b sense k, (barOf s c b).sense = sense ∨ (ctxOf s k).owed = true → (ctxOf s k).held = false → k / 4 = core → (ctxOf s k).wait = some (.bar (moduleId s * 2048 + c) b sense) → b < 32 → ∃ t,
      exec (.releaseReceive core (moduleId s) c b sense) s = .next (stepEnd t) ∧
      ctxOf t k = { ctxOf s k with wait := none, mark := if (ctxOf s k).mark = 4 then 5 else 1, owed := false } ∧ (∀ j, j / 4 ≠ core → ctxOf t j = ctxOf s j) ∧ t.sync.bars = s.sync.bars ∧ t.mem = s.mem) ∧
    (∀ core c b sense, (barOf s c b).sense ≠ sense → (∀ k, (ctxOf s k).owed = false) → exec (.releaseReceive core (moduleId s) c b sense) s = .next (stepEnd s)) ∧
    (∀ k m c b x, (ctxOf s k).mark = 4 → (ctxOf s k).wait = some (.bar (m * 2048 + c) b x) → ∃ t, exec (.refusalReceive k m c b) s = .next (stepEnd t) ∧
      ctxOf t k = flipSense { ctxOf s k with wait := none, mark := 2, owed := false } (barName m c b) ∧ (∀ j, j ≠ k → ctxOf t j = ctxOf s j) ∧ t.mem = s.mem) ∧
    (∀ k m c b, (ctxOf s k).mark ≠ 4 → (ctxOf s k).mark ≠ 5 → exec (.refusalReceive k m c b) s = .next (stepEnd s)) ∧
    (∀ l f rest, (linkOf s l).rxSync = f :: rest →
      (flitByte f 0 0 = 0x11 → flitByte f 1 1 = moduleId s → ∃ t, exec (.syncFlitReceive l) s = .next (stepEnd t) ∧ (linkOf t l).rxSync = rest ∧
        (barName (flitByte f 2 2) (fld (flitByte f 4 7) 10 0) (fld (flitByte f 4 7) 15 11), bitOf (flitByte f 8 15) 0) ∈ t.sync.remoteReleases ∧ t.sync.bars = s.sync.bars ∧ t.mem = s.mem) ∧
      (∀ c b sense, flitByte f 0 0 = 0x10 → flitByte f 1 1 = moduleId s → c = fld (flitByte f 4 7) 10 0 → b = fld (flitByte f 4 7) 15 11 → c < logicalCores s → partOfCore s c = none →
        bitOf (flitByte f 4 7) 16 = false → flitByte f 8 15 = arriveWord sense → sense ≠ (barOf s c b).sense → (barOf s c b).arrived + 1 < barCount s c b → ∃ t,
        exec (.syncFlitReceive l) s = .next (stepEnd t) ∧ (linkOf t l).rxSync = rest ∧ barOf t c b = { barOf s c b with arrived := (barOf s c b).arrived + 1 } ∧ t.mem = s.mem) ∧
      (0x1A < flitByte f 0 0 → ∃ t, exec (.syncFlitReceive l) s = .next (stepEnd t) ∧ (linkOf t l).rxSync = rest ∧ (linkOf t l).formatDrops = satTo 32 ((linkOf s l).formatDrops + 1) ∧ t.sync = s.sync))) ∧ (
  ∀ (c b n : Nat) (s : State), s.power.state ≠ 0 → c < logicalCores s → b < 32 → 1 ≤ n → n < 65536 →
    (ctrWaiters s c b = [] → 0 ≤ fillOf { ctrOf s c b with produced := (ctrOf s c b).produced + BitVec.ofNat 32 n } →
      fillOf { ctrOf s c b with produced := (ctrOf s c b).produced + BitVec.ofNat 32 n } ≤ ctrSlack s c b →
      exec (.produce (moduleId s) c b n [] none) s = .next (stepEnd (setCtr s c b { ctrOf s c b with produced := (ctrOf s c b).produced + BitVec.ofNat 32 n }))) ∧
    (ctrWaiters s c b = [] → 0 ≤ fillOf { ctrOf s c b with consumed := (ctrOf s c b).consumed + BitVec.ofNat 32 n } →
      fillOf { ctrOf s c b with consumed := (ctrOf s c b).consumed + BitVec.ofNat 32 n } ≤ ctrSlack s c b →
      exec (.consume (moduleId s) c b n [] none) s = .next (stepEnd (setCtr s c b { ctrOf s c b with consumed := (ctrOf s c b).consumed + BitVec.ofNat 32 n }))) ∧
    (ctrSlack s c b < fillOf { ctrOf s c b with produced := (ctrOf s c b).produced + BitVec.ofNat 32 n } → ∃ t, exec (.produce (moduleId s) c b n [] none) s = .next (stepEnd t) ∧
      ctrOf t c b = { ctrOf s c b with produced := (ctrOf s c b).produced + BitVec.ofNat 32 n } ∧ (syncStatusOf t c).faults = satTo 12 ((syncStatusOf s c).faults + 1) ∧
      (errCtrOf t (errCore c)).protocol = satTo 16 ((errCtrOf s (errCore c)).protocol + 1)) ∧
    (∀ k m, ctrWaiters s c b = [k] → (ctxOf s k).wait = some (.data b m) → (m : Int) ≤ fillOf { ctrOf s c b with produced := (ctrOf s c b).produced + BitVec.ofNat 32 n } → ∃ t,
      exec (.produce (moduleId s) c b n [] none) s = .next (stepEnd t) ∧ ctxOf t k = { ctxOf s k with wait := none, mark := 1 } ∧ (∀ j, j ≠ k → ctxOf t j = ctxOf s j)) ∧
    (∀ m l, m ≠ moduleId s → bestLink s (upRoute s m) = some l → (pairTxOf s m).unreleased < 1024 → ∃ t p, exec (.produce m c b n [] none) s = .next (stepEnd t) ∧
      (linkOf t l).txData = (linkOf s l).txData ++ [packetFlits p] ∧ p.typ = 2 ∧ p.dst = m ∧ p.inline.toNat = countWord false n ∧ t.sync = s.sync) ∧
    (∀ d waits, waits = [] → writesOut s d = true → exec (.produce (moduleId s) c b n waits (some d)) s = .next (stepEnd s) ∧ exec (.consume (moduleId s) c b n waits (some d)) s = .next (stepEnd s)) ∧
    (∀ w src, exec (.produce (moduleId s) c b 0 [w] src) s = .next (stepEnd (makeWait c b s w)) ∧ exec (.consume (moduleId s) c b 0 [w] src) s = .next (stepEnd (makeWait c b s w))))

/-! ### Sessions and decode (chapter 12) -/

/-- Sessions. SESSION_CREATE makes a cold session with the model's numbers; SESSION_DESTROY frees its entry; SESSION_HOT
and SESSION_COLD start a move, which leaves the session hot or cold when it ends; a move to where the session is ends at
once (R310 to R317). MIGRATE gives the session its new partition and the next epoch (R327). A session that is not there
ends the command with FORMAT, and a queue that may not use it with PRIVILEGE (R310, R312, R313). Says of sessionCreate,
sessionDestroy, sessionHot, sessionCold, migrate that exec answers a next state, and which. -/
def Obligations.SessionsLiveAndMove : Prop :=
  ∀ (k q : Nat) (c : Fetched) (id : Nat) (s : State), s.power.state ≠ 0 → s.ses.moves = [] → id < 4096 →
    (∀ sd, Running s k q 0x60 c → cmdFld c.bits 16 17 = id → (sessOf s id).state = 0 → (partImg s (cmdFld c.bits 19 19)).isSome = true → (recRead s (cmdFld c.bits 24 31) 64).poison = false →
      modelOk s (modelOf (recRead s (cmdFld c.bits 24 31) 64).bytes) = true → bitOf (cmdFld c.bits 18 18) 1 = sd →
      (sd = true → cmdFld c.bits 40 47 ≠ 0 ∧ cmdFld c.bits 40 47 % 32 = 0 ∧ (recRead (recRead s (cmdFld c.bits 24 31) 64).s (cmdFld c.bits 40 47) 32).poison = false) →
      coldOk (cmdFld c.bits 32 39) (modelOf (recRead s (cmdFld c.bits 24 31) 64).bytes).ctxMax (modelOf (recRead s (cmdFld c.bits 24 31) 64).bytes).perToken = true →
      ∃ t, exec (.sessionCreate k) s = .next (stepEnd t) ∧ (∀ j, j ≠ id → sessOf t j = sessOf s j) ∧ sessOf t id = { sess0 with
        state := 1, priv := bitOf (cmdFld c.bits 18 18) 0, seeded := sd, part := cmdFld c.bits 19 19, modelAddr := BitVec.ofNat 64 (cmdFld c.bits 24 31), coldAddr := BitVec.ofNat 64 (cmdFld c.bits 32 39)
        ctxMax := (modelOf (recRead s (cmdFld c.bits 24 31) 64).bytes).ctxMax, perToken := (modelOf (recRead s (cmdFld c.bits 24 31) 64).bytes).perToken
        lastToken := 0xFFFFFFFF, userTag := BitVec.ofNat 64 (cmdFld c.bits 56 63) }) ∧
    (Running s k q 0x61 c → cmdFld c.bits 16 17 = id → (sessOf s id).state ≠ 0 → inFlight s id = false → ∃ t, exec (.sessionDestroy k) s = .next (stepEnd t) ∧
      ∀ j, sessOf t j = if j = id then sess0 else sessOf s j) ∧
    (Running s k q 0x61 c → RecordFits s c → cmdFld c.bits 16 17 = id → (sessOf s id).state = 0 → exec (.sessionDestroy k) s = .next (stepEnd (keepSupply s (ended s k q c (doneWith 8 0))))) ∧
    (Running s k q 0x62 c → RecordFits s c → cmdFld c.bits 16 17 = id →
      ((sessOf s id).state = 0 → exec (.sessionHot k) s = .next (stepEnd (keepSupply s (ended s k q c (doneWith 8 0))))) ∧
      ((sessOf s id).state ≠ 0 → sessionAdmits s k (sessOf s id) = false → exec (.sessionHot k) s = .next (stepEnd (keepSupply s (ended s k q c (doneWith 7 0))))) ∧
      ((sessOf s id).state = 2 → sessionAdmits s k (sessOf s id) = true → exec (.sessionHot k) s = .next (stepEnd (keepSupply s (ended s k q c (doneWith 0 0))))) ∧
      (∀ h, (sessOf s id).state = 1 → sessionAdmits s k (sessOf s id) = true → (instOf s (.ses (sessOf s id).part)).pairFailed = false → hotCount s < 48 →
        fitsSlot s (sessOf s id).part (sessOf s id).ctxMax (sessOf s id).perToken = true → freeHotSlot s (sessOf s id).part = some h → ∃ t m, exec (.sessionHot k) s = .next (stepEnd t) ∧
        (∀ j, sessOf t j = if j = id then { sessOf s id with state := 3, hotSlot := h } else sessOf s j) ∧ t.ses.moves = [m] ∧ m.copying = true ∧ m.session = id ∧ m.toSlot = h ∧
        slotOf t k = slotOf s k ∧ t.mem = s.mem)) ∧
    (Running s k q 0x63 c → RecordFits s c → cmdFld c.bits 16 17 = id → sessionAdmits s k (sessOf s id) = true →
      ((sessOf s id).state = 1 → exec (.sessionCold k) s = .next (stepEnd (keepSupply s (ended s k q c (doneWith 0 0))))) ∧
      ((sessOf s id).state = 2 → inFlight s id = false → ∃ t m, exec (.sessionCold k) s = .next (stepEnd t) ∧ t.ses.moves = [m] ∧ m.copying = true ∧ m.session = id ∧ m.toSlot = 0xFF ∧
        (∀ j, sessOf t j = if j = id then { sessOf s id with state := 3, hotSlot := 0xFF } else sessOf s j) ∧ m.fromSlot = (sessOf s id).hotSlot ∧ t.mem = s.mem)) ∧
    (Running s k q 0x77 c → RecordFits s c → cmdFld c.bits 16 16 = 0 → cmdFld c.bits 20 21 = id → cmdFld c.bits 24 31 = 0 → cmdFld c.bits 17 17 = 0 → (sessOf s id).state = 1 →
      (instOf s (.ses (cmdFld c.bits 18 18))).pairFailed = false → captured s id ((sessOf s id).epoch + 1#16) = false → (partImg s (cmdFld c.bits 18 18)).isSome = true → ∃ t, exec (.migrate k) s = .next (stepEnd t) ∧
      (∀ j, sessOf t j = if j = id then { sessOf s id with epoch := (sessOf s id).epoch + 1#16, part := cmdFld c.bits 18 18, hotSlot := 0xFF } else sessOf s j) ∧
      (slotOf t k).cmd = none ∧ (sesPartOf t (cmdFld c.bits 18 18)).moves = satTo 16 ((sesPartOf s (cmdFld c.bits 18 18)).moves + 1))

/-- The end of a move: the session is hot where it has a hot slot, cold where it has none, and the move is counted
(R316, R317, R332). DECODE takes its partition and keeps the epoch of every entry; at its drain an ADVANCE entry adds
its COUNT to the context and a STEP one token, an entry whose epoch is old is dropped and counted, and each entry has a
result record (R320 to R322). A context of the partition that waits holds the drain (R394). Says of sessionMoveDone,
decode, decodeDrain that exec answers a next state, and which. -/
def Obligations.DecodeAppliesItsEntries : Prop :=
  ∀ s : State, s.power.state ≠ 0 →
    (∀ id m stalls, s.ses.moves = [m] → m.copying = true → m.session = id → m.fromPart = m.toPart → ∃ t, exec (.sessionMoveDone id stalls) s = .next (stepEnd t) ∧ t.ses.moves = [] ∧
      (∀ j, sessOf t j = if j = id then { sessOf s id with state := if m.toSlot = 0xFF then 1 else 2 } else sessOf s j) ∧
      (sesPartOf t m.toPart).moves = satTo 16 ((sesPartOf s m.toPart).moves + 1)) ∧
    (∀ id stalls, s.ses.moves = [] → exec (.sessionMoveDone id stalls) s = .next (stepEnd s)) ∧
    (∀ k n q c, MayTake s k n q 0x64 c → (recRead (tryTake s k).2 (cmdFld c.bits 24 31) 64).poison = false →
      modelOk s (modelOf (recRead (tryTake s k).2 (cmdFld c.bits 24 31) 64).bytes) = true → spaceOk s 64 (cmdFld c.bits 24 31) 64 = true →
      1 ≤ cmdFld c.bits 16 17 → cmdFld c.bits 16 17 ≤ 48 → spaceOk s 64 (cmdFld c.bits 32 39) (16 * cmdFld c.bits 16 17) = true →
      cmdFld c.bits 40 47 % 64 = 0 → rangeAllowed s .store (cmdFld c.bits 40 47) (16 * cmdFld c.bits 16 17) = true → ∃ t, exec (.decode k) s = .next (stepEnd t) ∧
      (programPresent s n (modelOf (recRead (tryTake s k).2 (cmdFld c.bits 24 31) 64).bytes).program = true → (partOf t n).holder = some k ∧ (slotOf t k).state = 5 ∧ ∃ d r,
        mfind t.ses.decs n = some d ∧ d.slot = k ∧ d.result = cmdFld c.bits 40 47 ∧ d.entries.length = cmdFld c.bits 16 17 ∧ (∀ e ∈ d.entries, e.epoch = (sessOf s e.session).epoch) ∧
        (partOf t n).op = some r ∧ r.slot = k ∧ r.kind = .decode)) ∧
    (∀ n d e stalls, mfind s.ses.decs n = some d → d.entries = [e] → e.status = 0 → contextWaits s n = false → s.ses.moves = [] → (sessOf s e.session).epoch = e.epoch →
      (decMode e.bits = 1 → ∃ t, exec (.decodeDrain n [] stalls) s = .next (stepEnd t) ∧ mfind t.ses.decs n = none ∧
        ∀ j, sessOf t j = if j = e.session then { sessOf s e.session with lost := false, steps := (sessOf s e.session).steps + 1#64, context := (sessOf s e.session).context + decCount e.bits }
          else sessOf s j) ∧
      (decMode e.bits = 0 → tempSamples (decTemp e.bits) = false → (sessOf s e.session).context = 0 → e.context = 0 → 0 < (modelOf d.model).vocab → ∃ t token, token < (modelOf d.model).vocab ∧
        exec (.decodeDrain n [] stalls) s = .next (stepEnd t) ∧ mfind t.ses.decs n = none ∧ ∀ j, sessOf t j = if j = e.session then { sessOf s e.session with
          lost := false, steps := (sessOf s e.session).steps + 1#64, context := 1, lastToken := token, tokens := (sessOf s e.session).tokens + 1#64 } else sessOf s j)) ∧
    (∀ n d e stalls, mfind s.ses.decs n = some d → d.entries = [e] → e.status = 0 → contextWaits s n = false → s.ses.moves = [] → (sessOf s e.session).epoch ≠ e.epoch → decMode e.bits = 1 → ∃ t,
      exec (.decodeDrain n [] stalls) s = .next (stepEnd t) ∧ mfind t.ses.decs n = none ∧ (sesPartOf t n).stale = satTo 16 ((sesPartOf s n).stale + 1) ∧
      ∀ j, sessOf t j = if j = e.session then { sessOf s e.session with staleDrops := satTo 16 ((sessOf s e.session).staleDrops + 1) } else sessOf s j) ∧
    (∀ n d stalls poisoned, mfind s.ses.decs n = some d → samplers s d = [] → contextWaits s n = true → exec (.decodeDrain n poisoned stalls) s =
      .next (stepEnd (keepSupply s (addStalls s d.slot stalls)))) ∧
    (∀ n stalls poisoned, mfind s.ses.decs n = none → exec (.decodeDrain n poisoned stalls) s = .next (stepEnd s))

/-! ### Annealing (chapters 09 to 11) -/

/-- ANL_LOAD takes its partition and checks its input: a load that passes takes the place of the problem before it and
builds, one that fails is counted with its code and item, and the end of the build makes the problem the partition's
(R229, R231 to R234). ANL_RUN whose checks pass starts a run, counted in RUNS, from step 0 (R276 to R278); a hand-over
of the partition's annealer banks that is awaited holds it back (R372), and a waiting context holds the build's end
(R394). Says of anlLoad, anlLoadDone, anlRun that exec answers a next state, and which. -/
def Obligations.ProblemsLoadAndRun : Prop :=
  ∀ s : State, s.power.state ≠ 0 →
    (∀ k n q c img u, MayTake s k n q 0x40 c → partImg s n = some img → (anlOf s n).run = none → loadTouched (tryTake s k).2 k (cmdFld c.bits 24 31) = u →
      (anlCheck u n (cmdFld c.bits 24 31) (geoOf s.fuse.grade img.shape) (anlDesc (inWord u (cmdFld c.bits 24 31) 128)) = none → ∃ t l, exec (.anlLoad k) s = .next (stepEnd t) ∧
        (anlOf t n).loading = some l ∧ l.slot = k ∧ l.desc = cmdFld c.bits 24 31 ∧ (anlOf t n).prob = none ∧ (partOf t n).holder = some k ∧ (slotOf t k).state = 5) ∧
      (∀ f, anlCheck u n (cmdFld c.bits 24 31) (geoOf s.fuse.grade img.shape) (anlDesc (inWord u (cmdFld c.bits 24 31) 128)) = some f → ∃ t, exec (.anlLoad k) s = .next (stepEnd t) ∧
        (anlOf t n).prob = (anlOf s n).prob ∧ (anlOf t n).loading = (anlOf s n).loading ∧ (anlOf t n).fails = satTo 16 ((anlOf s n).fails + 1) ∧ (anlOf t n).lastCheck = f.code ∧
        (anlOf t n).failIndex = f.index)) ∧
    (∀ k n q c img, MayTake s k n q 0x40 c → partImg s n = some img → (anlOf s n).run.isSome = true → ∃ t, exec (.anlLoad k) s = .next (stepEnd t) ∧ (anlOf t n).prob = (anlOf s n).prob ∧
      (anlOf t n).run = (anlOf s n).run ∧ (anlOf t n).fails = satTo 16 ((anlOf s n).fails + 1) ∧ (anlOf t n).lastCheck = 1) ∧
    (∀ n l img stalls u, (anlOf s n).loading = some l → partImg s n = some img → contextWaits s n = false → loadTouched (addStalls s l.slot stalls) l.slot l.desc = u →
      (anlCheck u n l.desc (geoOf s.fuse.grade img.shape) (anlDesc (inWord u l.desc 128)) = none → ∃ t p, exec (.anlLoadDone n stalls) s = .next (stepEnd t) ∧ (anlOf t n).loading = none ∧
        (anlOf t n).prob = some p ∧ p.n = (anlDesc (inWord u l.desc 128)).n ∧ (anlOf t n).loads = satTo 16 ((anlOf s n).loads + 1) ∧ (anlOf t n).lastCheck = 0) ∧
      (∀ f, anlCheck u n l.desc (geoOf s.fuse.grade img.shape) (anlDesc (inWord u l.desc 128)) = some f → ∃ t, exec (.anlLoadDone n stalls) s = .next (stepEnd t) ∧ (anlOf t n).loading = none ∧
        (anlOf t n).prob = none ∧ (anlOf t n).fails = satTo 16 ((anlOf s n).fails + 1) ∧ (anlOf t n).lastCheck = f.code)) ∧
    (∀ n l stalls, (anlOf s n).loading = some l → (partImg s n).isSome = true → contextWaits s n = true → exec (.anlLoadDone n stalls) s = .next (stepEnd (keepSupply s (addStalls s l.slot stalls)))) ∧
    (∀ k n q c img p u, MayTake s k n q 0x41 c → partImg s n = some img → isTimed c.bits = false → partHeld s n [2] = false → runTouched (tryTake s k).2 n k (cmdFld c.bits 24 31) img = u →
      runCheck u n (cmdFld c.bits 24 31) img = none → (anlOf u n).prob = some p → ∃ t r, exec (.anlRun k) s = .next (stepEnd t) ∧ ((anlOf t n).run = some r ∨ (anlOf t n).last = some r) ∧
      r.slot = k ∧ r.steps = 0 ∧ (anlOf t n).steps = 0 ∧ (anlOf t n).runs = satTo 32 ((anlOf s n).runs + 1) ∧ (anlOf t n).prob = some p) ∧
    (∀ k n q c, MayTake s k n q 0x41 c → isTimed c.bits = false → partHeld s n [2] = true → exec (.anlRun k) s = .next (stepEnd s)) ∧
    (∀ k n q c img st u, MayTake s k n q 0x41 c → partImg s n = some img → (isTimed c.bits = true ∨ partHeld s n [2] = false) → runTouched (tryTake s k).2 n k (cmdFld c.bits 24 31) img = u → runCheck u n (cmdFld c.bits 24 31) img = some st →
      ∃ t, exec (.anlRun k) s = .next (stepEnd t) ∧ (anlOf t n).runs = (anlOf s n).runs ∧ (anlOf t n).run = (anlOf s n).run)

/-- Steering. Before a run each steering command ends with FORMAT; with a run it waits for the boundary, and one that
asks for what is already so ends with OK; of a split run only the leader directs (R299). ANL_READ of a partition that
does not step writes its image at once; a resumed run steps again and holds its partition (R279 to R282). Says of
anlPause, anlResume, anlFrost, anlRead that exec answers a next state, and which. -/
def Obligations.SteeringWaitsForTheBoundary : Prop :=
  ∀ (k q : Nat) (c : Fetched) (n : Nat) (s : State), s.power.state ≠ 0 → slotPart s k = n →
    (Running s k q 0x42 c → RecordFits s c →
      (activeRun s n = none → exec (.anlPause k) s = .next (stepEnd (keepSupply s (ended s k q c (doneWith 8 0))))) ∧
      (∀ r, activeRun s n = some r → mayDirect s r = true → r.state = 2 → exec (.anlPause k) s = .next (stepEnd (keepSupply s (ended s k q c (doneWith 0 0))))) ∧
      (∀ r, activeRun s n = some r → mayDirect s r = true → r.state ≠ 2 → (Steer.pause k) ∉ r.steer →
        exec (.anlPause k) s = .next (stepEnd (setAnl s n { anlOf s n with run := some { r with steer := r.steer ++ [.pause k] } })))) ∧
    (Running s k q 0x43 c → RecordFits s c →
      (activeRun s n = none → exec (.anlResume k) s = .next (stepEnd (keepSupply s (ended s k q c (doneWith 8 0))))) ∧
      (∀ r, activeRun s n = some r → mayDirect s r = true → r.state ≠ 2 → exec (.anlResume k) s = .next (stepEnd (keepSupply s (ended s k q c (doneWith 0 0))))) ∧
      (∀ r, activeRun s n = some r → mayDirect s r = true → r.state = 2 → r.steer = [] → canResume s n = false →
        exec (.anlResume k) s = .next (stepEnd (setAnl s n { anlOf s n with run := some { r with steer := [.resume k] } }))) ∧
      (∀ r, activeRun s n = some r → r.split = none → r.state = 2 → r.steer = [] → canResume s n = true → (partImg s n).isSome = true → (anlOf s n).prob.isSome = true →
        r.newCurve = false → nextStep r ≠ .stop → r.slot ≠ k → (∀ x ∈ s.parts, x.2.holder ≠ some k) → ∃ t r', exec (.anlResume k) s = .next (stepEnd t) ∧ (anlOf t n).run = some r' ∧ r'.state = 1 ∧ r'.steps = r.steps ∧
        (partOf t n).holder = some r.slot ∧ (slotOf t k).cmd = none)) ∧
    (Running s k q 0x44 c → RecordFits s c →
      (activeRun s n = none → exec (.anlFrost k) s = .next (stepEnd (keepSupply s (ended s k q c (doneWith 8 0))))) ∧
      (∀ r, activeRun s n = some r → mayDirect s r = true → r.frost = true → exec (.anlFrost k) s = .next (stepEnd (keepSupply s (ended s k q c (doneWith 0 0))))) ∧
      (∀ r, activeRun s n = some r → mayDirect s r = true → r.frost = false → (Steer.frost k) ∉ r.steer →
        exec (.anlFrost k) s = .next (stepEnd (setAnl s n { anlOf s n with run := some { r with steer := r.steer ++ [.frost k] } })))) ∧
    (RecordFits s c → (∀ r, activeRun s n = some r → mayDirect s r = false →
      (Running s k q 0x42 c → exec (.anlPause k) s = .next (stepEnd (keepSupply s (ended s k q c (doneWith 8 0))))) ∧
      (Running s k q 0x43 c → exec (.anlResume k) s = .next (stepEnd (keepSupply s (ended s k q c (doneWith 8 0))))) ∧
      (Running s k q 0x44 c → exec (.anlFrost k) s = .next (stepEnd (keepSupply s (ended s k q c (doneWith 8 0))))))) ∧
    (Running s k q 0x45 c → RecordFits s c →
      (2 < cmdFld c.bits 16 16 → exec (.anlRead k) s = .next (stepEnd (keepSupply s (ended s k q c (doneWith 8 0))))) ∧
      (cmdFld c.bits 16 16 ≤ 2 → ∀ r, activeRun s n = some r → r.state ≠ 2 → (Steer.read k) ∉ r.steer →
        exec (.anlRead k) s = .next (stepEnd (setAnl s n { anlOf s n with run := some { r with steer := r.steer ++ [.read k] } }))) ∧
      (∀ p, cmdFld c.bits 16 16 = 0 → activeRun s n = none → (anlOf s n).prob = some p → rangeAllowed s .store (cmdFld c.bits 24 31) (imageSize p.n p.nc) = true →
        (imageBytes p (anlOf s n).vars.spins (anlOf s n).vars.sigma).length = imageSize p.n p.nc → (∀ i, i < imageSize p.n p.nc → region s.fuse.grade (cmdFld c.bits 24 31 + i) = .hbm) →
        (partOf s n).holder ≠ some k → s.integ.ecc = [] → s.integ.badCheckers = [] → regActive s 0xC00010 0 < 2 ^ 62 → ∃ u,
        exec (.anlRead k) s = .next (stepEnd (keepSupply s (ended u k q c (doneWith 0 0)))) ∧
        ∀ x, memByte u x = if cmdFld c.bits 24 31 ≤ x ∧ x < cmdFld c.bits 24 31 + imageSize p.n p.nc
          then nth 0#8 (imageBytes p (anlOf s n).vars.spins (anlOf s n).vars.sigma) (x - cmdFld c.bits 24 31) else memByte s x))

/-- Steps. A step of a run whose draws are at hand, or that is frozen, and whose stores hold no poison takes the run one
step on (R236, R265). At a sync point of a split run the shares of every peer take it on, and are counted; a missing one
leaves it waiting (R297). An exchange that times out and an end notice end the run with LINK_DOWN's reason; a notice
that comes while the run does not wait is kept, and a pause notice suspends the timeout (R302). A waiting context of the
partition holds the run (R394). Says of anlStep, anlSyncPoint, anlExchTimeout, endNotice, pauseNotice that exec answers
a next state, and which. -/
def Obligations.RunsStepAndExchange : Prop :=
  ∀ s : State, s.power.state ≠ 0 →
    (∀ n img p r stalls, runCtx s n = some (img, p, r) → r.state = 1 → r.split = none → contextWaits s n = false → s.integ.ecc = [] →
      (r.frost = true ∨ ∀ core ∈ drawingCores (geoOf s.fuse.grade img.shape) img r.d.policy, (mfind r.drawn core).isSome = true) →
      (∀ v, (storedNeighbours s (geoOf s.fuse.grade img.shape) p v).2 = false ∧ (storedMembers s (geoOf s.fuse.grade img.shape) p v).2 = false) →
      ∃ t r', exec (.anlStep n stalls) s = .next (stepEnd t) ∧ ((anlOf t n).run = some r' ∨ (anlOf t n).last = some r') ∧ r'.steps = r.steps + 1 ∧ r'.slot = r.slot ∧
        (anlOf t n).steps = r.steps + 1 ∧ (anlOf t n).energy = (anlOf t n).vars.energy ∧ (anlOf t n).prob = some p) ∧
    (∀ n img p r x shares stalls, runCtx s n = some (img, p, r) → r.state = 1 → r.split = some x → x.waiting = true → contextWaits s n = false →
      ((∃ m ∈ peersOf (moduleId s) x.table, shareOf shares m = none) → exec (.anlSyncPoint n shares stalls) s = .next (stepEnd (keepSupply s (addStalls s r.slot stalls)))) ∧
      ((∀ m ∈ peersOf (moduleId s) x.table, (shareOf shares m).isSome = true) → ∃ t, exec (.anlSyncPoint n shares stalls) s = .next (stepEnd t) ∧
        (anlOf t n).syncPoints = ((anlOf s n).syncPoints + 1) % 2 ^ 48 ∧ (anlOf t n).prob = some p)) ∧
    (∀ n r stalls, (anlOf s n).run = some r → contextWaits s n = true → exec (.anlStep n stalls) s = .next (stepEnd (keepSupply s (addStalls s r.slot stalls))) ∧
      ∀ shares, exec (.anlSyncPoint n shares stalls) s = .next (stepEnd (keepSupply s (addStalls s r.slot stalls)))) ∧
    (∀ n peer img p r x, runCtx s n = some (img, p, r) → r.split = some x →
      (x.waiting = true → x.setupDone = true → x.pausedPeers = [] → peer ∈ peersOf (moduleId s) x.table → 1000 * x.table.timeoutUs < sinceCount s x.since → ∃ t, exec (.anlExchTimeout n peer) s = .next (stepEnd t) ∧ (anlOf t n).run = none ∧ (anlOf t n).lastEnd = 4 ∧ (anlOf t n).lastWait = peer) ∧
      (x.waiting = false ∨ x.setupDone = false ∨ x.pausedPeers ≠ [] ∨ peer ∉ peersOf (moduleId s) x.table ∨ sinceCount s x.since ≤ 1000 * x.table.timeoutUs → exec (.anlExchTimeout n peer) s = .next (stepEnd s))) ∧
    (∀ l f rest n img p r x, (linkOf s l).rxMgmt = f :: rest → keyedRuns s (BitVec.ofNat 64 (flitByte f 4 11)) = [n] → runCtx s n = some (img, p, r) → r.split = some x →
      (flitByte f 0 0 = 0x25 → x.waiting = true → ∃ t, exec (.endNotice l) s = .next (stepEnd t) ∧ (anlOf t n).run = none ∧ (anlOf t n).lastEnd = 4) ∧
      (flitByte f 0 0 = 0x25 → x.waiting = false → ∃ t, exec (.endNotice l) s = .next (stepEnd t) ∧ (linkOf t l).rxMgmt = rest ∧ t.mem = s.mem ∧
        (anlOf t n).run = some { r with split := some { x with noticed := true } }) ∧
      (flitByte f 0 0 = 0x26 → ∃ t, exec (.pauseNotice l) s = .next (stepEnd t) ∧ (linkOf t l).rxMgmt = rest ∧ t.mem = s.mem ∧
        (anlOf t n).run = some { r with split := some { x with pausedPeers := (flitByte f 2 2 :: x.pausedPeers).eraseDups } }))

/-! ### Operations (chapters 05, 06, 08 and 13) -/

/-- A command whose descriptor is in reach waits for its partition; the one whose turn it is takes it, and its operation
runs there where the descriptor passes its checks; LAUNCH_OP of an array or a vector operation, DRAIN, and the first
node of a graph of 1 to 4,096 nodes (R135, R144, R201, R343, R347, R350, R351). Any other waits on. TIMED commands. One
whose count lies at most 2^36 ns ahead arms and holds its partition, late where it is less than 20,000 ns ahead; one
further ahead ends with FORMAT (R56, R57). At its count, or at once where it is late, it fires: its operation, graph or
run starts; a halt holds it, and it then starts late (R57, R493). Says of launchOp, operationStart, drain, launchGraph,
anlRun, timedStart that exec answers a next state, and which. -/
def Obligations.OperationsTakeTheirPartition : Prop :=
  (
  ∀ (k q n : Nat) (c : Fetched) (img : PartImage) (b : BitVec 2048) (s u : State), s.power.state ≠ 0 → partImg s n = some img → c.buf = some b → c.bufPoison = false → isTimed c.bits = false →
    (tryTake s k).2 = u →
    ((slotOf s k).cmd = some c → opcodeOf c.bits = 0x20 → (slotOf s k).state = 2 →
      exec (.launchOp k) s = .next (stepEnd (setSlot s k { slotOf s k with state := 3, since := s.time.count }))) ∧
    (MayTake s k n q 0x20 c → launchHeld s k c = false →
      (fld b.toNat 7 0 = 1 → (arrDesc b.toNat).rescale = false → arrChecks u n img (partOf u n).arr false (regActive u (0x400000 + 0x100 * n) 0) (arrDesc b.toNat) = true →
        ∃ t r, exec (.operationStart k) s = .next (stepEnd t) ∧ (partOf t n).op = some r ∧ r.slot = k ∧ r.kind = .array ∧ r.desc = b ∧ (partOf t n).holder = some k ∧ (slotOf t k).state = 5 ∧
          t.longs = s.longs) ∧
      (∀ prog, fld b.toNat 7 0 = 3 → vecProgram u img (vDesc b.toNat) = some prog → (vDesc b.toNat).progSrc = 0 → anyPoison prog = false →
        vecChecks u img (vDesc b.toNat) (wordsOfProgram (dataOf prog)) = true → ∃ t r, exec (.operationStart k) s = .next (stepEnd t) ∧ (partOf t n).op = some r ∧ r.slot = k ∧ r.kind = .vector ∧
          r.desc = b ∧ r.table = prog ∧ (partOf t n).holder = some k ∧ (slotOf t k).state = 5) ∧
      (3 < fld b.toNat 7 0 → noDispatcher s = false → ∃ t, exec (.operationStart k) s = .next (stepEnd t) ∧ (partOf t n).holder = none ∧ (slotOf t k).state ≠ 5)) ∧
    (MayTake s k n q 0x22 c → partHeld s n [0] = false → fld b.toNat 7 0 = 2 → (arrDesc b.toNat).rescale = false →
      arrChecks u n img (partOf u n).arr false (regActive u (0x400000 + 0x100 * n) 0) (drainDesc (arrDesc b.toNat)) = true → ∃ t r, exec (.drain k) s = .next (stepEnd t) ∧
      (partOf t n).op = some r ∧ r.slot = k ∧ r.kind = .drain ∧ (partOf t n).holder = some k ∧ (slotOf t k).state = 5 ∧ t.longs = s.longs ∧ t.mem = s.mem) ∧
    (∀ x stop u2, MayTake s k n q 0x21 c → 1 ≤ cmdFld c.bits 32 35 → cmdFld c.bits 32 35 ≤ 4096 → applyDue (setSlot u k { slotOf u k with param := some (clean (leBytes 256 b.toNat)), graph := graph0 }) = u2 →
      haltCause u2 n = 0 → partHeld u2 n [0, 1] = false → beginNode u2 n k img c = (x, stop) → x.status = none → ∃ t r, exec (.launchGraph k) s = .next (stepEnd t) ∧
      (partOf t n).op = some r ∧ r.slot = k ∧ (partOf t n).holder = some k ∧ (slotOf t k).state = 5 ∧ (slotOf t k).graph.stop = stop) ∧
    (MayTake s k n q 0x21 c → cmdFld c.bits 32 35 = 0 ∨ 4096 < cmdFld c.bits 32 35 → noDispatcher s = false → ∃ t, exec (.launchGraph k) s = .next (stepEnd t) ∧ (partOf t n).holder = none ∧
      (slotOf t k).state ≠ 5) ∧
    ((slotOf s k).cmd = some c → (slotOf s k).queue = some q → (slotOf s k).state = 3 → slotPart s k = n → turnOf s n ≠ some k →
      (opcodeOf c.bits = 0x20 → launchHeld s k c = false → exec (.operationStart k) s = .next (stepEnd s)) ∧
      (opcodeOf c.bits = 0x22 → exec (.drain k) s = .next (stepEnd s)) ∧ (opcodeOf c.bits = 0x21 → exec (.launchGraph k) s = .next (stepEnd s)))) ∧ (
  ∀ (k q n : Nat) (c : Fetched) (s : State), s.power.state ≠ 0 →
    (isTimed c.bits = true → MayTake s k n q 0x20 c ∨ MayTake s k n q 0x21 c →
      ((startCount c.bits).toNat ≤ s.time.count.toNat + 2 ^ 36 → ∃ t, (opcodeOf c.bits = 0x20 → exec (.operationStart k) s = .next (stepEnd t)) ∧
        (opcodeOf c.bits = 0x21 → exec (.launchGraph k) s = .next (stepEnd t)) ∧ (partOf t n).armed = true ∧ (partOf t n).holder = some k ∧ (slotOf t k).state = 4 ∧
        (slotOf t k).cmd = some c ∧ (slotOf t k).late = decide ((startCount c.bits).toNat < s.time.count.toNat + 20000)) ∧
      (s.time.count.toNat + 2 ^ 36 < (startCount c.bits).toNat → noDispatcher s = false → ∃ t, (opcodeOf c.bits = 0x20 → exec (.operationStart k) s = .next (stepEnd t)) ∧
        (opcodeOf c.bits = 0x21 → exec (.launchGraph k) s = .next (stepEnd t)) ∧ (partOf t n).holder = none ∧ (slotOf t k).state ≠ 4)) ∧
    (∀ img p u, isTimed c.bits = true → MayTake s k n q 0x41 c → partImg s n = some img → runTouched (tryTake s k).2 n k (cmdFld c.bits 24 31) img = u →
      runCheck u n (cmdFld c.bits 24 31) img = none → (anlOf u n).prob = some p → (startCount c.bits).toNat ≤ s.time.count.toNat + 2 ^ 36 → ∃ t r, exec (.anlRun k) s = .next (stepEnd t) ∧
      (anlOf t n).run = some r ∧ r.state = 0 ∧ r.slot = k ∧ (partOf t n).armed = true ∧ (partOf t n).holder = some k ∧ (slotOf t k).state = 4) ∧
    ((slotOf s k).state ≠ 4 → exec (.timedStart k) s = .next (stepEnd s)) ∧
    ((slotOf s k).state = 4 → (slotOf s k).cmd = some c → (slotOf s k).queue = some q → slotPart s k = n →
      ((slotOf s k).late = false → s.time.count.toNat < (startCount c.bits).toNat → exec (.timedStart k) s = .next (stepEnd s)) ∧
      ((slotOf s k).late = true ∨ (startCount c.bits).toNat ≤ s.time.count.toNat → haltCause s n ≠ 0 → exec (.timedStart k) s = .next (stepEnd (setSlot s k { slotOf s k with late := true }))) ∧
      (∀ img b, (slotOf s k).late = true ∨ (startCount c.bits).toNat ≤ s.time.count.toNat → haltCause s n = 0 → breakBefore s n q c = false → opcodeOf c.bits = 0x20 → partImg s n = some img → c.buf = some b → c.bufPoison = false → launchHeld s k c = false →
        fld b.toNat 7 0 = 1 → (arrDesc b.toNat).rescale = false →
        arrChecks (fireSlot s k) n img (partOf (fireSlot s k) n).arr false (regActive s (0x400000 + 0x100 * n) 0) (arrDesc b.toNat) = true → ∃ t r, exec (.timedStart k) s = .next (stepEnd t) ∧
        (partOf t n).op = some r ∧ r.slot = k ∧ r.kind = .array ∧ r.desc = b ∧ (partOf t n).armed = false ∧ (slotOf t k).state = 5 ∧ (slotOf t k).started = s.time.count) ∧
      ((slotOf s k).late = true ∨ (startCount c.bits).toNat ≤ s.time.count.toNat → haltCause s n = 0 → breakBefore s n q c = false →
        (opcodeOf c.bits = 0x21 → exec (.timedStart k) s = .next (stepEnd (keepSupply s (startGraph (fireSlot s k) k c)))) ∧
        (opcodeOf c.bits = 0x41 → partHeld s n [2] = true → exec (.timedStart k) s = .next (stepEnd s)) ∧
        (opcodeOf c.bits = 0x41 → partHeld s n [2] = false → exec (.timedStart k) s = .next (stepEnd (keepSupply s (beginRun (fireSlot s k) n)))))))

/-- The end of operations. An array operation's root registers keep the sums of its last token, the band sums of R118
and R153, and it leaves its partition, unless packets of it have not left; so do a vector operation whose draws have
been served, one that still waits keeping what it drew, and the last node of a graph (R134, R136, R209, R351, R423). A
context of the partition that waits holds the operation (R394). Says of arrayOpDone, vectorOpDone, graphNodeDone that
exec answers a next state, and which. -/
def Obligations.OperationsEnd : Prop :=
  ∀ (n : Nat) (r : OpRun) (c : Fetched) (img : PartImage) (stalls : Stalls) (s : State), s.power.state ≠ 0 → running s n = some (r, c, img) →
    (contextWaits s n = true → (opcodeOf c.bits ≠ 0x21 → r.kind = .array ∨ r.kind = .drain → ∀ sums, exec (.arrayOpDone n stalls sums) s = .next (stepEnd (keepSupply s (addStalls s r.slot stalls)))) ∧
      (opcodeOf c.bits ≠ 0x21 → r.kind = .vector → exec (.vectorOpDone n stalls) s = .next (stepEnd (keepSupply s (addStalls s r.slot stalls))))) ∧
    (contextWaits s n = false →
    (∀ sums o d u, opcodeOf c.bits ≠ 0x21 → r.kind = .array → arrDesc r.desc.toNat = d → d.opType = 1 → geoOf s.fuse.grade img.shape = o → d.n ≤ 64 * o.cols →
      (readOperands (addStalls s r.slot stalls) n o d).2 = u → ∃ t, exec (.arrayOpDone n stalls sums) s = .next (stepEnd t) ∧
      (∀ x, (partOf t n).op = some x → x.kind = .leaving ∧ x.slot = r.slot) ∧
      ∀ col, col < d.n → longOf t (rootKey o col) = rootSum u (partOf u n).arr img o d r.band64 sums (d.m - 1) col) ∧
    (∀ sums, opcodeOf c.bits ≠ 0x21 → r.kind = .drain → (arrDesc r.desc.toNat).opType = 2 → ∃ t, exec (.arrayOpDone n stalls sums) s = .next (stepEnd t) ∧ t.longs = s.longs ∧
      ∀ x, (partOf t n).op = some x → x.kind = .leaving ∧ x.slot = r.slot) ∧
    (opcodeOf c.bits ≠ 0x21 → r.kind = .vector → (drawVector (addStalls s r.slot stalls) n img r).waiting = [] → ∃ t, exec (.vectorOpDone n stalls) s = .next (stepEnd t) ∧ (vecOf t n).entropyWait = false ∧
      ∀ x, (partOf t n).op = some x → x.kind = .leaving ∧ x.slot = r.slot) ∧
    (opcodeOf c.bits ≠ 0x21 → r.kind = .vector → (drawVector (addStalls s r.slot stalls) n img r).waiting ≠ [] → (drawVector (addStalls s r.slot stalls) n img r).refused = false →
      exec (.vectorOpDone n stalls) s = .next (stepEnd (keepSupply s (drawVector (addStalls s r.slot stalls) n img r).s))) ∧
    (∀ sums k, opcodeOf c.bits = 0x21 → r.slot = k → slotPart s k = n → (r.kind = .array ∨ r.kind = .drain) → cmdFld c.bits 32 35 ≤ (slotOf s k).graph.node + 1 → ∃ t,
      exec (.graphNodeDone k stalls sums) s = .next (stepEnd t) ∧ ∀ x, (partOf t n).op = some x → x.kind = .leaving ∧ x.slot = k))

/-- The sums of R118 are exact: the value of an element does not depend on the order in which its bands are added, nor
do its poison, skew and invalid marks. Products of integer pairings are exact integers (R116). An element that carries a
mark, or whose value has left the long range, is dropped and its code is the format's drop value; any other is rounded
once (R137, R138). -/
def Obligations.SumsAreExact : Prop :=
  (∀ (s : State) (st : ArrSt) (o : Geo) (d : ArrDesc) (rows m n : Nat) (start : LongReg) (order : List Nat), order.Perm (List.range (bandCount d rows)) →
    (order.foldl (fun r b => addBand r (bandOut s st o d rows m n b)) start).value = (elementSum s st o d rows start m n).value ∧
    (order.foldl (fun r b => addBand r (bandOut s st o d rows m n b)) start).poison = (elementSum s st o d rows start m n).poison ∧
    (order.foldl (fun r b => addBand r (bandOut s st o d rows m n b)) start).skew = (elementSum s st o d rows start m n).skew ∧
    (order.foldl (fun r b => addBand r (bandOut s st o d rows m n b)) start).invalid = (elementSum s st o d rows start m n).invalid) ∧
  (∀ format z a w, format = 1 → product format z a w = (((a : Int) - z) * signedOf 8 w, false)) ∧
  (∀ format z a w, format = 2 → product format z a w = ((signedOf 8 a - z) * signedOf 8 w, false)) ∧
  (∀ (d : ArrDesc) (entry : Nat × Bool) (r : LongReg), (d.rescale = true → entry.2 = false) →
    (r.poison = true ∨ r.skew = true ∨ r.invalid = true ∨ r.range = true ∨ inLongRange r.value = false → (outElem d entry r).dropped = true ∧ (outElem d entry r).code = dropValue d.outFmt) ∧
    (r.poison = false → r.skew = false → r.invalid = false → r.range = false → inLongRange r.value = true → (outElem d entry r).dropped = false ∧ (outElem d entry r).code = outCode d entry.1 r.value))

/-! ### Entropy (chapter 17) -/

/-- Sources. A source that fails its repetition or proportion test leaves service and is counted, as a start-up failure
while it has not started (R437, R439); a window that passes starts it, and the windows of an active source are hashed
(R440, R442). A conditioned block enters the pool where it has space, serves the first draw, and is lost where it has
not (R440, R441). The bias loop moves BIAS_TRIM by one where the ones of 65,536 bits leave 31,744 to 33,792 (R435). Says
of repetitionCountFailure, entropyWindow, conditionedBlock, biasTrimCheck that exec answers a next state, and which. -/
def Obligations.SourcesAreTested : Prop :=
  ∀ (n p : Nat) (s : State), s.power.state ≠ 0 → (sourcesIn s)[n]? = some p →
    ((sourceOf s p).started = true → ∃ t, exec (.repetitionCountFailure n) s = .next (stepEnd t) ∧ t.fuse.entGood = s.fuse.entGood &&& ~~~(BitVec.ofNat 32 (2 ^ p)) ∧
      t.ent.rctFails = satTo 16 (s.ent.rctFails + 1) ∧ (errCtrOf t (errDie (p / 2))).hard = satTo 16 ((errCtrOf s (errDie (p / 2))).hard + 1) ∧ t.mem = s.mem) ∧
    ((sourceOf s p).started = false → ∃ t, exec (.repetitionCountFailure n) s = .next (stepEnd t) ∧ t.fuse.entGood = s.fuse.entGood &&& ~~~(BitVec.ofNat 32 (2 ^ p)) ∧
      t.ent.startupFails = satTo 16 (s.ent.startupFails + 1)) ∧
    (∀ raw began, (runFails (windowBits raw) (sourceOf s p).lastBit (sourceOf s p).runLen).1 = false → aptFails (windowBits raw) = true → (sourceOf s p).started = true → ∃ t,
      exec (.entropyWindow n raw began) s = .next (stepEnd t) ∧ t.fuse.entGood = s.fuse.entGood &&& ~~~(BitVec.ofNat 32 (2 ^ p)) ∧ t.ent.aptFails = satTo 16 (s.ent.aptFails + 1)) ∧
    (∀ raw began, (runFails (windowBits raw) (sourceOf s p).lastBit (sourceOf s p).runLen).1 = false → aptFails (windowBits raw) = false →
      ((sourceOf s p).started = false → ∃ t, exec (.entropyWindow n raw began) s = .next (stepEnd t) ∧ (sourceOf t p).started = true ∧ t.fuse.entGood = s.fuse.entGood ∧ t.ent.hashing = s.ent.hashing) ∧
      ((sourceOf s p).started = true → (activeSources s).contains p = true → (sourceOf s p).activeAt.toNat ≤ began.toNat → ∃ t, exec (.entropyWindow n raw began) s = .next (stepEnd t) ∧
        mfind t.ent.hashing p = some (beBytes 48 (sha384 (windowBytes raw))) ∧ t.fuse.entGood = s.fuse.entGood ∧ t.ent.pool = s.ent.pool)) ∧
    (∀ block, mfind s.ent.hashing p = some block → s.ent.thaw = false →
      (s.ent.draws = [] → ∃ t, exec (.conditionedBlock n) s = .next (stepEnd t) ∧ mfind t.ent.hashing p = none ∧ (sourceOf t p).blocks = (sourceOf s p).blocks + 1 ∧
        t.ent.pool = if s.ent.pool.length + 48 ≤ 512 then s.ent.pool ++ block else s.ent.pool) ∧
      (∀ i, s.ent.draws = [i] → i ≠ keyDraw → block.length = 48 → s.ent.pool.length + 48 ≤ 512 → ∃ t, exec (.conditionedBlock n) s = .next (stepEnd t) ∧ t.ent.draws = [] ∧
        t.ent.pool = (s.ent.pool ++ block).drop 48 ∧ (clientOf t i).drbg.isSome = true)) ∧
    (mfind s.ent.hashing p = none → exec (.conditionedBlock n) s = .next (stepEnd s)) ∧
    (∀ ones, 31744 ≤ ones → ones ≤ 33792 → exec (.biasTrimCheck n ones) s = .next (stepEnd s)) ∧
    (∀ ones, ones < 31744 ∨ 33792 < ones → 0 < (sourceOf s p).trim → (sourceOf s p).trim < 255 → ∃ t, exec (.biasTrimCheck n ones) s = .next (stepEnd t) ∧ t.fuse = s.fuse ∧
      ((sourceOf t p).trim = (sourceOf s p).trim + 1 ∨ (sourceOf t p).trim + 1 = (sourceOf s p).trim))

/-- The entropy commands (R452). SEED instantiates every client of its range from the seed it reads; RETEST returns to
service the fused-good sources that pass; RAW_CAPTURE takes an idle source out for its bits, which are then stored.
ENT_CTRL takes effect on arrival (R454). A request that has waited too long without any source ends with NO_ENTROPY, and
while a source is in service it waits on (R445). Says of seed, retest, rawCapture, rawCaptureDone, entCtrlWrite,
entropyWaitTimeout that exec answers a next state, and which. -/
def Obligations.EntropyCommandsAct : Prop :=
  ∀ s : State, s.power.state ≠ 0 →
    (∀ k q c b u r, Running s k q 0x75 c → cmdFld c.bits 16 16 = 1 → blockRead s k (cmdFld c.bits 24 31) 64 = .bytes b u →
      (seedOk u b = false → Running u k q 0x75 c → RecordFits u c → exec (.seed k) s = .next (stepEnd (keepSupply s (ended u k q c (doneWith 8 0))))) ∧
      (seedOk u b = true → (seedClientsOf b).any u.ent.draws.contains = false → localRead u ownDma (blkFld b 16 23) 32 = r → anyPoison r.bytes = false → ∃ t, exec (.seed k) s = .next (stepEnd t) ∧
        ∀ i : Nat, ((seedClientsOf b).contains i = true → (clientOf t i).seed = BitVec.ofNat 256 (ofLe (dataOf r.bytes)) ∧ (clientOf t i).runId = BitVec.ofNat 64 (blkFld b 8 15) ∧
          (clientOf t i).drbg = some (drbgInit (seedMaterial (BitVec.ofNat 256 (ofLe (dataOf r.bytes))) i (BitVec.ofNat 64 (blkFld b 8 15))))) ∧
          ((seedClientsOf b).contains i = false → clientOf t i = clientOf s i))) ∧
    (∀ k q c b u pass, Running s k q 0x75 c → cmdFld c.bits 16 16 = 2 → blockRead s k (cmdFld c.bits 24 31) 64 = .bytes b u → blkZero b 4 63 = true →
      (∀ p ∈ bitList 32 (blkFld b 0 3), p ∉ sourcesIn s) → ∃ t, exec (.retest k pass) s = .next (stepEnd t) ∧
      ∀ p, p < 32 → t.fuse.entGood.getLsbD p = (s.fuse.entGood.getLsbD p || ((blkFld b 0 3).testBit p && pass.getLsbD p && s.fuse.entFused.getLsbD p))) ∧
    (∀ k q c b u p, Running s k q 0x75 c → cmdFld c.bits 16 16 = 3 → s.ent.capture = none → blockRead s k (cmdFld c.bits 24 31) 64 = .bytes b u → (sourcesIn s)[blkFld b 0 3]? = some p →
      blkZero b 16 63 = true → 512 ≤ blkFld b 4 7 → blkFld b 4 7 % 512 = 0 → blkFld b 4 7 ≤ 2 ^ 24 → blkFld b 8 15 % 64 = 0 → rangeAllowed s .store (blkFld b 8 15) (blkFld b 4 7 / 8) = true →
      (activeSources s).contains p = false → ∃ t, exec (.rawCapture k) s = .next (stepEnd t) ∧ (sourceOf t p).testing = true ∧ t.fuse = s.fuse ∧
      t.ent.capture = some { slot := k, source := p, bits := blkFld b 4 7, dest := blkFld b 8 15, failed := false }) ∧
    (∀ raw x q c, s.ent.capture = some x → x.failed = false → raw.length = x.bits / 8 → raw ≠ [] → Running s x.slot q 0x75 c → cmdFld c.bits 16 16 = 3 → RecordFits s c → s.integ.ecc = [] →
      s.integ.badCheckers = [] → regActive s 0xC00010 0 < 2 ^ 62 → (∀ i, i < raw.length → region s.fuse.grade (x.dest + i) = .hbm) → ∃ u,
      exec (.rawCaptureDone raw) s = .next (stepEnd (keepSupply s (ended u x.slot q c (doneWith 0 0)))) ∧ u.ent.capture = none ∧ (sourceOf u x.source).testing = false ∧
      ∀ a, memByte u a = if x.dest ≤ a ∧ a < x.dest + raw.length then nth 0#8 raw (a - x.dest) else memByte s a) ∧
    (∀ value : BitVec 64, value &&& ~~~0x3F0F#64 = 0#64 → 1 ≤ fld value.toNat 3 0 → fld value.toNat 3 0 ≤ 8 → 10 ≤ fld value.toNat 13 8 → fld value.toNat 13 8 ≤ 48 →
      (∀ c, mfind s.cfg entCtrlOffset = some c → c.snap = none ∧ c.active &&& ~~~0x3F0F#64 = 0#64) → ∃ t, exec (.entCtrlWrite value) s = .next (stepEnd t) ∧ entCtrl t = value.toNat ∧
      t.fuse.entGood = s.fuse.entGood ∧ t.mem = s.mem) ∧
    (∀ w, entCount s ≠ 0 → exec (.entropyWaitTimeout w) s = .next (stepEnd s)) ∧
    (∀ n r c img, entCount s = 0 → running s n = some (r, c, img) → r.kind = .vector → (vecOf s n).entropyWait = true → opcodeOf c.bits ≠ 0x21 → ∃ t,
      exec (.entropyWaitTimeout (.vector n)) s = .next (stepEnd t) ∧ t.ent.noEntropyEnds = satTo 16 (s.ent.noEntropyEnds + 1) ∧ (vecOf t n).entropyWait = false ∧
      ∀ x, (partOf t n).op = some x → x.kind = .leaving ∧ x.slot = r.slot) ∧
    (∀ n img p r, entCount s = 0 → runCtx s n = some (img, p, r) → r.held = true → ∃ t, exec (.entropyWaitTimeout (.run n)) s = .next (stepEnd t) ∧ (anlOf t n).run = none ∧ (anlOf t n).lastEnd = 3 ∧
      t.ent.noEntropyEnds = satTo 16 (s.ent.noEntropyEnds + 1))

/-! ### March, record and replay, and the debug unit (chapter 19) -/

/-- March. ARM sends its values once its partitions stand between operations; equal values of the peer arm them, others
end it with FORMAT, and none in time with TIMEOUT (R482). DISARM makes the next record the last (R486). A window's
record goes to the peer, and no more than three may lack its comparison (R484); records that agree are done with,
records that differ halt the partition and are counted, and a record that does not come loses March (R484, R485). Says
of arm, armTimeout, marchArmExchange, disarm, marchWindowEnd, marchRecordReceive, marchRecordTimeout that exec answers a
next state, and which. -/
def Obligations.MarchComparesWindows : Prop :=
  ∀ s : State, s.power.state ≠ 0 →
    (∀ k q c b u, Running s k q 0x73 c → cmdFld c.bits 16 16 = 1 → armWait s k = none → blockRead s k (cmdFld c.bits 24 31) 64 = .bytes b u →
      (armBad u b = false → upRoute u (blkFld b 0 0) ≠ [] → maskIdle u (blkFld b 8 15) = true → ∃ t, exec (.arm k) s = .next (stepEnd t) ∧
        t.out = .marchArm (blkFld b 0 0) (BitVec.ofNat 64 (blkFld b 16 23)) (BitVec.ofNat 64 (blkFld b 8 15)) (armParts u (blkFld b 8 15)) :: u.out ∧
        (marchOf t).waits = (marchOf u).waits ++ [{ slot := k, disarm := false, mask := BitVec.ofNat 64 (blkFld b 8 15), sent := true }] ∧ (marchOf t).parts = (marchOf u).parts) ∧
      (armBad u b = true → Running u k q 0x73 c → RecordFits u c → exec (.arm k) s = .next (stepEnd (keepSupply s (ended u k q c (doneWith 8 0)))))) ∧
    (∀ k q c w, armWait s k = some w → Running s k q 0x73 c → RecordFits s c →
      exec (.armTimeout k) s = .next (stepEnd (keepSupply s (ended (dropWait s k) k q c (doneWith 6 0)))) ∧
      (∀ key parts, key.toNat = blkFld (armBlock s k) 16 23 → parts = armParts s w.mask.toNat → ∃ t, exec (.marchArmExchange k key w.mask parts) s = .next (stepEnd t) ∧ (marchOf t).state = 1 ∧
        (marchOf t).peerModule = blkFld (armBlock s k) 0 0 ∧ (∀ n, n < 64 → w.mask.getLsbD n = true → mfind (marchOf t).parts n = some marchPart0) ∧ (slotOf t k).cmd = none) ∧
      (∀ key mask parts, key.toNat ≠ blkFld (armBlock s k) 16 23 ∨ mask ≠ w.mask ∨ parts ≠ armParts s w.mask.toNat →
        exec (.marchArmExchange k key mask parts) s = .next (stepEnd (keepSupply s (ended (dropWait s k) k q c (doneWith 8 0)))))) ∧
    (∀ k q c b u n p, Running s k q 0x73 c → cmdFld c.bits 16 16 = 2 → (marchOf s).waits = [] → blockRead s k (cmdFld c.bits 24 31) 64 = .bytes b u → n < 64 → (blkFld b 8 15).testBit n = true →
      mfind (marchOf u).parts n = some p → (marchOf u).waits = [] → ∃ t, exec (.disarm k) s = .next (stepEnd t) ∧ mfind (marchOf t).parts n = some { p with disarm := true } ∧
      (marchOf t).waits = [{ slot := k, disarm := true, mask := BitVec.ofNat 64 (blkFld b 8 15), sent := true }] ∧ t.mem = u.mem) ∧
    (∀ n p, mfind (marchOf s).parts n = some p → p.peer = [] → p.own.any (fun o => o.1 + 3 ≤ p.window) = false → ∃ t sigs, exec (.marchWindowEnd n) s = .next (stepEnd t) ∧
      sigs = (partCores s n).map (fun c => BitVec.ofNat 64 (mget 0 p.sigs c)) ∧ t.out = .marchRecord (marchOf s).peerModule n p.window sigs p.disarm :: s.out ∧
      mfind (marchOf t).parts n = some { p with window := p.window + 1, sigs := [], own := p.own ++ [(p.window, sigs)], final := if p.disarm ∧ p.final.isNone then some p.window else p.final }) ∧
    (∀ n p, mfind (marchOf s).parts n = some p → p.own.any (fun o => o.1 + 3 ≤ p.window) = true → exec (.marchWindowEnd n) s = .next (stepEnd s)) ∧
    (∀ n p w sigs final, mfind (marchOf s).parts n = some p → p.peer = [] →
      (p.own = [] → ∃ t, exec (.marchRecordReceive n w sigs final) s = .next (stepEnd t) ∧ t.mem = s.mem ∧
        mfind (marchOf t).parts n = some { p with peer := [(w, sigs)], final := if final then some w else p.final }) ∧
      (p.own = [(w, sigs)] → final = false → p.final = none → ∃ t, exec (.marchRecordReceive n w sigs final) s = .next (stepEnd t) ∧ t.mem = s.mem ∧
        mfind (marchOf t).parts n = some { p with own := [] }) ∧
      (∀ own, p.own = [(w, own)] → own ≠ sigs → p.window < w + 3 → ∃ t, exec (.marchRecordReceive n w sigs final) s = .next (stepEnd t) ∧ haltCause t n = haltCause s n ∧
        mfind (marchOf t).parts n = some { p with peer := [(w, sigs)], final := if final then some w else p.final }) ∧
      (∀ own, p.own = [(w, own)] → own ≠ sigs → w + 3 ≤ p.window → (partOf s n).holder = none → (marchOf s).waits = [] → ∃ t, exec (.marchRecordReceive n w sigs final) s = .next (stepEnd t) ∧ haltCause t n = 2 ∧ (marchOf t).state = 2 ∧
        (marchOf t).window = w ∧ (marchOf t).part = n ∧ mfind (marchOf t).parts n = none ∧ (errCtrOf t errLockstep).uncorrectable = satTo 16 ((errCtrOf s errLockstep).uncorrectable + 1))) ∧
    (∀ n p, mfind (marchOf s).parts n = some p → p.own.any (fun o => o.1 + 3 ≤ p.window) = true → (marchOf s).waits = [] → ∃ t, exec (.marchRecordTimeout n) s = .next (stepEnd t) ∧ (marchOf t).state = 3 ∧
      mfind (marchOf t).parts n = none ∧ (errCtrOf t errLockstep).protocol = satTo 16 ((errCtrOf s errLockstep).protocol + 1)) ∧
    (∀ n p, mfind (marchOf s).parts n = some p → p.own.any (fun o => o.1 + 3 ≤ p.window) = false → exec (.marchRecordTimeout n) s = .next (stepEnd s))

/-- Record and replay. RECORD starts a recording of its partitions with an empty log and their START entries; STOP ends
a recording or a replay; EXPORT and IMPORT copy the log, IMPORT into an empty one; PLAY starts a replay (R487). In a
replay the next entry of a partition is applied when its beat has come, and a partition with none left, or a poisoned
one, returns to live inputs (R489, R507). Says of recordLog, playLog, exportLog, importLog, replayStop, replayEntryApply
that exec answers a next state, and which. -/
def Obligations.LogsRecordAndReplay : Prop :=
  ∀ s : State, s.power.state ≠ 0 →
    (∀ k q c b u, Running s k q 0x74 c → blockRead s k (cmdFld c.bits 24 31) 64 = .bytes b u →
      (cmdFld c.bits 16 16 = 1 → recordBad u b = false → maskIdle u (blkFld b 0 7) = true → ∃ t, exec (.recordLog k) s = .next (stepEnd t) ∧ (replayOf t).state = 1 ∧
        (replayOf t).mask = BitVec.ofNat 64 (blkFld b 0 7) ∧ (replayOf t).kinds = BitVec.ofNat 64 (blkFld b 8 15) ∧ (replayOf t).overflow = false ∧ 0 < (replayOf t).log.length) ∧
      (cmdFld c.bits 16 16 = 1 → recordBad u b = true → Running u k q 0x74 c → RecordFits u c → exec (.recordLog k) s = .next (stepEnd (keepSupply s (ended u k q c (doneWith 8 0))))) ∧
      (cmdFld c.bits 16 16 = 5 → playBad u b = false → maskIdle u (blkFld b 0 7) = true → ∃ t, exec (.playLog k) s = .next (stepEnd t) ∧ (replayOf t).state = 2 ∧
        (replayOf t).mask = BitVec.ofNat 64 (blkFld b 0 7) ∧ (replayOf t).log = (replayOf u).log ∧ (replayOf t).cursors = []) ∧
      (cmdFld c.bits 16 16 = 3 → (copyOf u k).total = 0 → 1 ≤ blkFld b 8 15 → blkFld b 8 15 ≤ logSize → inHbm u (blkFld b 0 7) (blkFld b 8 15) = true → exec (.exportLog k) s =
        .next (stepEnd (keepSupply s (setCopy u k { copy0 with dst := blkFld b 0 7, total := blkFld b 8 15 })))) ∧
      (cmdFld c.bits 16 16 = 4 → (copyOf u k).total = 0 → 1 ≤ blkFld b 8 15 → blkFld b 8 15 ≤ logSize → inHbm u (blkFld b 0 7) (blkFld b 8 15) = true → ∃ t, exec (.importLog k) s = .next (stepEnd t) ∧
        (replayOf t).log = [] ∧ (copyOf t k).src = blkFld b 0 7 ∧ (copyOf t k).total = blkFld b 8 15 ∧ (copyOf t k).done = 0 ∧ t.mem = u.mem)) ∧
    (∀ k q c, Running s k q 0x74 c → RecordFits s c → cmdFld c.bits 16 16 = 2 → ∃ t, exec (.replayStop k) s = .next (stepEnd t) ∧ (replayOf t).state = 0 ∧ (replayOf t).mask = 0#64 ∧
      (slotOf t k).cmd = none ∧ ((replayOf s).state ≠ 1 → (replayOf t).log = (replayOf s).log) ∧ ((replayOf s).state = 1 → (replayOf s).log.length < (replayOf t).log.length)) ∧
    (∀ n, replays s n = false → exec (.replayEntryApply n) s = .next (stepEnd s)) ∧
    (∀ n, replays s n = true → nextEntry s n = none → ∃ t, exec (.replayEntryApply n) s = .next (stepEnd t) ∧ replays t n = false ∧ (replayOf t).mask = (replayOf s).mask &&& ~~~(BitVec.ofNat 64 (2 ^ n)) ∧ t.mem = s.mem) ∧
    (∀ n e, replays s n = true → nextEntry s n = some e → (replayOf s).bad = [] → mget 0 (replayOf s).beats n < e.beat → exec (.replayEntryApply n) s = .next (stepEnd s)) ∧
    (∀ n e, replays s n = true → nextEntry s n = some e → (replayOf s).bad = [] → e.beat ≤ mget 0 (replayOf s).beats n →
      (e.typ = 2 → e.source < 512 → ∃ t, exec (.replayEntryApply n) s = .next (stepEnd t) ∧ (queueOf t e.source).writeIndex = BitVec.ofNat 32 (blkFld e.payload 0 3) ∧ (queueOf t e.source).pending = true ∧
        mget 0 (replayOf t).cursors n = e.next) ∧
      (e.typ = 4 → ∃ t, exec (.replayEntryApply n) s = .next (stepEnd t) ∧ mget [] (replayOf t).admits n = mget [] (replayOf s).admits n ++ [blkFld e.payload 2 3] ∧
        mget 0 (replayOf t).cursors n = e.next ∧ t.mem = s.mem))

/-- The debug unit. A peek keeps its address and is read once: eight words of memory, or those of a long register,
without any change to either; a space that is not there sets FAULT (R491). RESUME ends a halt, after a halt by March
with the partition reset; STEP ends it and arms a breakpoint one drained operation away (R493). FREEZE stops the
performance counters and CLEAR zeroes them (R494). Says of peek, peekDone, resume, step, freeze, clear that exec answers
a next state, and which. -/
def Obligations.DebugObservesAndSteps : Prop :=
  ∀ s : State, s.power.state ≠ 0 →
    (∀ addr, s.dbg.peekBusy = true → exec (.peek addr) s = .next (stepEnd s)) ∧
    (∀ addr, s.dbg.peekBusy = false → ∃ t, exec (.peek addr) s = .next (stepEnd t) ∧ t.dbg.peekBusy = true ∧ t.dbg.peekFault = false ∧ t.dbg.peekPoison = false ∧
      t.dbg.peekAddr = addr &&& BitVec.ofNat 64 (mask 63 60 + mask 47 0) ∧ t.mem = s.mem ∧ t.dbg.peekData = s.dbg.peekData) ∧
    (s.dbg.peekBusy = false → exec .peekDone s = .next (stepEnd s)) ∧
    (∀ a, s.dbg.peekBusy = true → s.dbg.peekAddr.toNat = a → a < 2 ^ 48 → a % 64 = 0 → (∀ i, i < 64 → region s.fuse.grade (a + i) = .hbm) → isLocal s.fuse.grade a = true → s.integ.ecc = [] →
      s.integ.badCheckers = [] → exec .peekDone s = .next (stepEnd { s with dbg := { s.dbg with
        peekBusy := false, peekFault := false, peekPoison := false
        peekData := (List.range 8).map (fun i => BitVec.ofNat 64 (ofLe ((List.range 8).map (fun j => memByte s (a + 8 * i + j))))) } })) ∧
    (s.dbg.peekBusy = true → 3 ≤ fld s.dbg.peekAddr.toNat 63 60 → ∃ t, exec .peekDone s = .next (stepEnd t) ∧ t.dbg.peekBusy = false ∧ t.dbg.peekFault = true ∧ t.mem = s.mem) ∧
    (∀ c j, s.dbg.peekBusy = true → s.dbg.peekAddr.toNat = 2 ^ 60 + 65536 * c + j → c < logicalCores s → j < 64 → isEdgeCore s c = true →
      exec .peekDone s = .next (stepEnd { s with dbg := { s.dbg with
        peekBusy := false, peekFault := false, peekPoison := false, peekData := longWords (mget long0 s.longs (longKey c j)) } })) ∧
    (∀ c j n, s.dbg.peekBusy = true → s.dbg.peekAddr.toNat = 2 ^ 60 + 65536 * c + j → c < logicalCores s → j < 64 → isEdgeCore s c = false → partOfCore s c = some n →
      ((partOf s n).arr.passed = none ∨ c ∈ (partOf s n).arr.cleared) → exec .peekDone s = .next (stepEnd { s with dbg := { s.dbg with
        peekBusy := false, peekFault := false, peekPoison := false, peekData := longWords long0 } })) ∧
    (∀ n, haltCause s n = 0 → exec (.resume n) s = .next (stepEnd s)) ∧
    (∀ n, haltCause s n ≠ 0 → haltCause s n ≠ 2 → exec (.resume n) s = .next (stepEnd { s with dbg := { s.dbg with halted := mput 0 s.dbg.halted n 0 } })) ∧
    (∀ n, haltCause s n = 2 → ∃ t, exec (.resume n) s = .next (stepEnd t) ∧ haltCause t n = 0) ∧
    (∀ n, haltCause s n ≠ 2 → n < 64 → ∃ t, exec (.step n) s = .next (stepEnd t) ∧ haltCause t n = 0 ∧ breakKind t n = 3 ∧ breakValue t n = 1 ∧ mget 0 t.dbg.drained n = 0 ∧ t.mem = s.mem ∧
      ∀ m, m ≠ n → haltCause t m = haltCause s m) ∧
    (∀ freeze, ∃ t, exec (.freeze freeze) s = .next (stepEnd t) ∧ perfFrozen t = freeze ∧ t.dbg = s.dbg ∧ (∀ o, o ≠ 0xD00000 → mfind t.cfg o = mfind s.cfg o)) ∧
    (exec .clear s = .next (stepEnd { s with dbg := { s.dbg with perf := [] } }))

/-! ### Frames -/

/-- What only some commands change: the rate lock, the image (but for IMG_STATUS.LAST_STATUS, which the end of an image
command sets, R97), the fuses, the sessions, the long registers, the vector units and the clock state are left alone by
every command that is not of the named ones, before what ends its step. The frames of the commands that change few
things: each leaves every other part of the state as it is, before what ends its step. -/
def Obligations.CommandsKeepTheRest : Prop :=
  (
  ∀ (c : Instr) (s : State), s.power.state ≠ 0 → ∃ t, exec c s = .next (stepEnd t) ∧
    (mayChangeRate c = false → t.rate = s.rate) ∧ (mayChangeImage c = false → t.image = { s.image with lastStatus := t.image.lastStatus }) ∧
    (mayChangeFuses c = false → t.fuse = s.fuse) ∧ (mayChangeSessions c = false → t.ses = s.ses) ∧
    (mayChangeLongs c = false → t.longs = s.longs) ∧ (mayChangeVector c = false → t.vec = s.vec) ∧
    (mayChangeTime c = false → t.time = s.time) ∧ (storesNothing c = true → t.mem = s.mem)) ∧ (
  ∀ (c : Instr) (s : State), s.power.state ≠ 0 → ∃ t, exec c s = .next (stepEnd t) ∧
    (netAlone c = true → t = { s with net := t.net }) ∧
    (clockAlone c = true → t = { s with time := t.time, err := t.err, msg := t.msg, net := t.net, host := t.host, out := t.out, fresh := t.fresh, fe := { s.fe with slots := t.fe.slots } }) ∧
    (linkAlone c = true → t = { s with net := t.net, sync := t.sync, err := t.err, msg := t.msg, fe := t.fe, dbg := t.dbg, out := t.out }) ∧
    (frontAlone c = true →
      t = { s with fe := t.fe, host := t.host, cfg := t.cfg, insts := t.insts, dbg := t.dbg, err := t.err, msg := t.msg, out := t.out }) ∧
    (sourceAlone c = true →
      t = { s with ent := t.ent, err := t.err, msg := t.msg, fuse := { s.fuse with entGood := t.fuse.entGood } }))

/-! ### Places and lanes -/

/-- Reads of a session entry. A read of word 0 latches the entry whole; reads of words 1 to 7 of that entry then return
the latched copy and change nothing, and with no latch in force they return live values (R308). Says of
sessionEntryLatch that exec answers a next state, and which. -/
def Obligations.SessionEntryReads : Prop :=
  ∀ (s : State) (id : Nat), id < 4096 →
    regRead s (0x440000 + 64 * id) = ((nth 0#64 (sessWords s id) 0).toNat, { s with ses := { s.ses with latch := some (id, sessWords s id) } }) ∧
    (s.power.state ≠ 0 → exec (.sessionEntryLatch id) s = .next (stepEnd { s with
      ses := { s.ses with latch := some (id, sessWords s id) }
      out := .readData (clean (leBytes 8 (nth 0#64 (sessWords s id) 0).toNat)) :: s.out })) ∧
    ∀ w, 1 ≤ w → w ≤ 7 →
      (∀ ws, s.ses.latch = some (id, ws) → regRead s (0x440000 + 64 * id + 8 * w) = ((nth 0#64 ws w).toNat, s)) ∧
      (s.ses.latch = none → regRead s (0x440000 + 64 * id + 8 * w) = ((nth 0#64 (sessWords s id) w).toNat, s))

/-- The place of a session's cache. Byte b of the cache in hot slot k lies in die index (b div 65,536) mod D of the
partition's dies, at the offset that R315 gives; a session fits a slot by R315's test. Distinct bytes of one slot lie at
distinct addresses, and the bytes of a session that fits lie in its slot's SLOT_BYTES of each die. -/
def Obligations.SessionCachePlaces : Prop :=
  ∀ (s : State) (n : Nat) (dies : List Nat) (h : HotArea), partDies s n = dies → hotArea s n = h →
    (∀ k b, hotAddr s n k b = sramAddr (nth 0 dies (b / 65536 % dies.length)) (h.base + k * h.slotBytes + b / 65536 / dies.length * 65536 + b % 65536)) ∧
    (1 ≤ dies.length → ∀ ctxMax perToken, fitsSlot s n ctxMax perToken = true ↔ ((ctxMax * perToken + 65535) / 65536 + dies.length - 1) / dies.length * 65536 ≤ h.slotBytes) ∧
    (∀ k ctxMax perToken b, k < h.slots → fitsSlot s n ctxMax perToken = true → b < ctxMax * perToken → ∃ d off, d ∈ dies ∧ hotAddr s n k b = sramAddr d off ∧
      h.base + k * h.slotBytes ≤ off ∧ off < h.base + (k + 1) * h.slotBytes) ∧
    (∀ k ctxMax perToken b b', k < h.slots → h.base + h.slots * h.slotBytes ≤ 2 ^ 32 → fitsSlot s n ctxMax perToken = true → b < ctxMax * perToken → b' < ctxMax * perToken → dies.Nodup →
      hotAddr s n k b = hotAddr s n k b' → b = b')

/-- Vector registers and integer micro-ops. A register of 1,024 nibbles holds the elements of its format and gives them
back; a program of n words has n micro-ops; a segment micro-op keeps the number of lanes (R188, R189, R191, R193). ADD,
SUB, MUL and FMA of integer formats wrap modulo 2 to the power of the width, and saturate to the format's range with SAT
set (R190). -/
def Obligations.VectorLanesHoldTheirElements : Prop :=
  (∀ (f : Nat) (r : VReg), f ≤ 9 → r.length = 1024 → (∀ x ∈ r, x.1 < 16) → (lanesOf f r).length = elemCount f ∧ (ofLanes f (lanesOf f r)).map Prod.fst = r.map Prod.fst) ∧
  (∀ (n : Nat) (bs : List Byte), n ≤ 64 → bs.length = 8 * n → (wordsOfProgram bs).length = n) ∧
  (∀ (u : Uop) (xs : List Lane) (m : Nat), xs.length = 2 ^ u.low * m → (segmentLanes u xs).length = xs.length) ∧
  (∀ (u : Uop) (x y z : Nat) (v : Int), u.fmt ∈ [3, 4, 5] →
    (u.op = 1 ∧ v = intValue u.fmt x + intValue u.fmt y ∨ u.op = 2 ∧ v = intValue u.fmt x - intValue u.fmt y ∨ u.op = 3 ∧ v = intValue u.fmt x * intValue u.fmt y ∨
      u.op = 4 ∧ v = intValue u.fmt x * intValue u.fmt y + intValue u.fmt z) →
    laneResult u x y z < 2 ^ elemBits u.fmt ∧ (u.sat = false → (intValue u.fmt (laneResult u x y z) - v) % 2 ^ elemBits u.fmt = 0) ∧
    (u.sat = true → intValue u.fmt (laneResult u x y z) = max (intLo u.fmt) (min (intHi u.fmt) v)))
end

