-- ==== Sys2Proof/Laws/Bits.lean ====
section
/-!
SUPPORT. Sys2Proof/Laws/Bits.lean: bit fields as division and remainder, bytes of a number, and lists of bit positions.
-/
namespace Sys2Proof.Machine

theorem fld_eq (v hi lo : Nat) : fld v hi lo = v / 2 ^ lo % 2 ^ (hi + 1 - lo) := by
  rw [fld, Nat.shiftRight_eq_div_pow]

theorem put_eq (v hi lo : Nat) : put v hi lo = v % 2 ^ (hi + 1 - lo) * 2 ^ lo := by
  rw [put, Nat.shiftLeft_eq]

theorem fld_lt (v hi lo : Nat) : fld v hi lo < 2 ^ (hi + 1 - lo) := Nat.mod_lt _ (Nat.two_pow_pos _)

theorem satTo_le (w n : Nat) : satTo w n ≤ 2 ^ w - 1 := Nat.min_le_right _ _

theorem mem_bitList (n v i : Nat) : i ∈ bitList n v ↔ i < n ∧ v.testBit i = true := by simp [bitList]

@[simp] theorem leBytes_length (n v : Nat) : (leBytes n v).length = n := by
  induction n generalizing v with
  | zero => rfl
  | succ n ih => simp [leBytes, ih]

/-- A number's n low bytes, put together again. -/
theorem ofLe_leBytes (n v : Nat) : ofLe (leBytes n v) = v % 2 ^ (8 * n) := by
  induction n generalizing v with
  | zero => simp [leBytes, ofLe, Nat.mod_one]
  | succ n ih =>
    rw [leBytes, ofLe, ih, BitVec.toNat_ofNat, Nat.shiftRight_eq_div_pow]
    rw [show 2 ^ (8 * (n + 1)) = 2 ^ 8 * 2 ^ (8 * n) by rw [← Nat.pow_add]; congr 1; omega]
    rw [Nat.mod_mul]
    try rfl

@[simp] theorem clean_length (bs : List Byte) : (clean bs).length = bs.length := by simp [clean]

@[simp] theorem dataOf_clean (bs : List Byte) : dataOf (clean bs) = bs := by simp [clean, dataOf, Function.comp_def]

theorem clean_unpoisoned (bs : List Byte) : ∀ b ∈ clean bs, b.2 = false := by simp [clean]

end Sys2Proof.Machine
end

