-- ==== Sys2Proof/Laws/Maps.lean ====
section
/-!
SUPPORT. Sys2Proof/Laws/Maps.lean: sparse maps: what a read finds after a write, and that every write keeps the canonical
form.
-/
namespace Sys2Proof.Machine

variable {α : Type}

@[simp] theorem mfind_nil (k : Nat) : mfind ([] : AMap α) k = none := rfl

@[simp] theorem mget_nil (d : α) (k : Nat) : mget d [] k = d := rfl

theorem mfind_mdel (m : AMap α) (k j : Nat) : mfind (mdel m k) j = if j = k then none else mfind m j := by
  induction m with
  | nil => simp [mdel]
  | cons x m ih => grind [mdel, mfind]

theorem mfind_mins (m : AMap α) (k j : Nat) (v : α) : mfind (mins m k v) j = if j = k then some v else mfind m j := by
  induction m with
  | nil => grind [mins, mfind]
  | cons x m ih => grind [mins, mfind]

@[simp] theorem mfind_mins_same (m : AMap α) (k : Nat) (v : α) : mfind (mins m k v) k = some v := by simp [mfind_mins]

theorem mget_mput [DecidableEq α] (d : α) (m : AMap α) (k j : Nat) (v : α) :
    mget d (mput d m k v) j = if j = k then v else mget d m j := by
  unfold mput mget
  grind [mfind_mdel, mfind_mins]

@[simp] theorem mget_mput_same [DecidableEq α] (d : α) (m : AMap α) (k : Nat) (v : α) : mget d (mput d m k v) k = v := by
  simp [mget_mput]

@[simp] theorem mget_mins_same (d : α) (m : AMap α) (k : Nat) (v : α) : mget d (mins m k v) k = v := by simp [mget]

theorem mdel_keys (m : AMap α) (k : Nat) : ∀ x ∈ mdel m k, x ∈ m := by
  induction m with
  | nil => simp [mdel]
  | cons x m ih => grind [mdel]

theorem canonical_cons (d : α) (x : Nat × α) (m : AMap α) :
    canonical d (x :: m) ↔ (∀ y ∈ m, x.1 < y.1) ∧ x.2 ≠ d ∧ canonical d m := by
  simp only [canonical, List.pairwise_cons, List.forall_mem_cons]; grind

theorem mdel_canonical (d : α) (m : AMap α) (k : Nat) (h : canonical d m) : canonical d (mdel m k) := by
  induction m with
  | nil => simpa [mdel] using h
  | cons x m ih =>
    obtain ⟨h1, h2, h3⟩ := (canonical_cons d x m).1 h
    have hk := mdel_keys m k
    unfold mdel
    split
    · exact ih h3
    · exact (canonical_cons d x _).2 ⟨fun y hy => h1 y (hk y hy), h2, ih h3⟩

theorem mem_mins (m : AMap α) (k : Nat) (v : α) : ∀ x ∈ mins m k v, x = (k, v) ∨ x ∈ m := by
  induction m with
  | nil => simp [mins]
  | cons x m ih => grind [mins]

theorem mins_canonical (d : α) (m : AMap α) (k : Nat) (v : α) (hv : v ≠ d) (h : canonical d m) : canonical d (mins m k v) := by
  induction m with
  | nil => simp [mins, canonical, hv]
  | cons x m ih =>
    obtain ⟨h1, h2, h3⟩ := (canonical_cons d x m).1 h
    have hk := mem_mins m k v
    unfold mins
    split
    · rename_i hlt
      refine (canonical_cons d _ _).2 ⟨fun y hy => ?_, hv, h⟩
      rcases List.mem_cons.1 hy with rfl | hy
      · exact hlt
      · exact Nat.lt_trans hlt (h1 y hy)
    · split
      · rename_i heq
        exact (canonical_cons d _ _).2 ⟨fun y hy => by have := h1 y hy; simp; omega, hv, h3⟩
      · refine (canonical_cons d _ _).2 ⟨fun y hy => ?_, h2, ih h3⟩
        rcases hk y hy with rfl | hy
        · simp; omega
        · exact h1 y hy

/-- Every write of a component keeps the canonical form. -/
theorem mput_canonical [DecidableEq α] (d : α) (m : AMap α) (k : Nat) (v : α) (h : canonical d m) : canonical d (mput d m k v) := by
  unfold mput
  split
  · exact mdel_canonical d m k h
  · exact mins_canonical d m k v (by assumption) h

end Sys2Proof.Machine
end

