-- ==== Sys2Proof/Laws/State.lean ====
section
/-!
SUPPORT. Sys2Proof/Laws/State.lean: what each named update of the state leaves, one lemma for each field of the state and each
update, and what a read of a numbered component finds after its write.
-/
namespace Sys2Proof.Machine

variable (s : State)

/-! ### setAnl -/

@[simp] theorem setAnl_pending (n : Nat) (v : AnlSt) : (setAnl s n v).pending = s.pending := rfl
@[simp] theorem setAnl_fresh (n : Nat) (v : AnlSt) : (setAnl s n v).fresh = s.fresh := rfl
@[simp] theorem setAnl_out (n : Nat) (v : AnlSt) : (setAnl s n v).out = s.out := rfl
@[simp] theorem setAnl_fuse (n : Nat) (v : AnlSt) : (setAnl s n v).fuse = s.fuse := rfl
@[simp] theorem setAnl_power (n : Nat) (v : AnlSt) : (setAnl s n v).power = s.power := rfl
@[simp] theorem setAnl_time (n : Nat) (v : AnlSt) : (setAnl s n v).time = s.time := rfl
@[simp] theorem setAnl_rate (n : Nat) (v : AnlSt) : (setAnl s n v).rate = s.rate := rfl
@[simp] theorem setAnl_image (n : Nat) (v : AnlSt) : (setAnl s n v).image = s.image := rfl
@[simp] theorem setAnl_cfg (n : Nat) (v : AnlSt) : (setAnl s n v).cfg = s.cfg := rfl
@[simp] theorem setAnl_insts (n : Nat) (v : AnlSt) : (setAnl s n v).insts = s.insts := rfl
@[simp] theorem setAnl_err (n : Nat) (v : AnlSt) : (setAnl s n v).err = s.err := rfl
@[simp] theorem setAnl_msg (n : Nat) (v : AnlSt) : (setAnl s n v).msg = s.msg := rfl
@[simp] theorem setAnl_mem (n : Nat) (v : AnlSt) : (setAnl s n v).mem = s.mem := rfl
@[simp] theorem setAnl_integ (n : Nat) (v : AnlSt) : (setAnl s n v).integ = s.integ := rfl
@[simp] theorem setAnl_banks (n : Nat) (v : AnlSt) : (setAnl s n v).banks = s.banks := rfl
@[simp] theorem setAnl_fe (n : Nat) (v : AnlSt) : (setAnl s n v).fe = s.fe := rfl
@[simp] theorem setAnl_host (n : Nat) (v : AnlSt) : (setAnl s n v).host = s.host := rfl
@[simp] theorem setAnl_parts (n : Nat) (v : AnlSt) : (setAnl s n v).parts = s.parts := rfl
@[simp] theorem setAnl_longs (n : Nat) (v : AnlSt) : (setAnl s n v).longs = s.longs := rfl
@[simp] theorem setAnl_ent (n : Nat) (v : AnlSt) : (setAnl s n v).ent = s.ent := rfl
@[simp] theorem setAnl_ses (n : Nat) (v : AnlSt) : (setAnl s n v).ses = s.ses := rfl
@[simp] theorem setAnl_sync (n : Nat) (v : AnlSt) : (setAnl s n v).sync = s.sync := rfl
@[simp] theorem setAnl_vec (n : Nat) (v : AnlSt) : (setAnl s n v).vec = s.vec := rfl
@[simp] theorem setAnl_net (n : Nat) (v : AnlSt) : (setAnl s n v).net = s.net := rfl
@[simp] theorem setAnl_dbg (n : Nat) (v : AnlSt) : (setAnl s n v).dbg = s.dbg := rfl

/-! ### setRun -/

@[simp] theorem setRun_pending (n : Nat) (v : AnlRun) : (setRun s n v).pending = s.pending := rfl
@[simp] theorem setRun_fresh (n : Nat) (v : AnlRun) : (setRun s n v).fresh = s.fresh := rfl
@[simp] theorem setRun_out (n : Nat) (v : AnlRun) : (setRun s n v).out = s.out := rfl
@[simp] theorem setRun_fuse (n : Nat) (v : AnlRun) : (setRun s n v).fuse = s.fuse := rfl
@[simp] theorem setRun_power (n : Nat) (v : AnlRun) : (setRun s n v).power = s.power := rfl
@[simp] theorem setRun_time (n : Nat) (v : AnlRun) : (setRun s n v).time = s.time := rfl
@[simp] theorem setRun_rate (n : Nat) (v : AnlRun) : (setRun s n v).rate = s.rate := rfl
@[simp] theorem setRun_image (n : Nat) (v : AnlRun) : (setRun s n v).image = s.image := rfl
@[simp] theorem setRun_cfg (n : Nat) (v : AnlRun) : (setRun s n v).cfg = s.cfg := rfl
@[simp] theorem setRun_insts (n : Nat) (v : AnlRun) : (setRun s n v).insts = s.insts := rfl
@[simp] theorem setRun_err (n : Nat) (v : AnlRun) : (setRun s n v).err = s.err := rfl
@[simp] theorem setRun_msg (n : Nat) (v : AnlRun) : (setRun s n v).msg = s.msg := rfl
@[simp] theorem setRun_mem (n : Nat) (v : AnlRun) : (setRun s n v).mem = s.mem := rfl
@[simp] theorem setRun_integ (n : Nat) (v : AnlRun) : (setRun s n v).integ = s.integ := rfl
@[simp] theorem setRun_banks (n : Nat) (v : AnlRun) : (setRun s n v).banks = s.banks := rfl
@[simp] theorem setRun_fe (n : Nat) (v : AnlRun) : (setRun s n v).fe = s.fe := rfl
@[simp] theorem setRun_host (n : Nat) (v : AnlRun) : (setRun s n v).host = s.host := rfl
@[simp] theorem setRun_parts (n : Nat) (v : AnlRun) : (setRun s n v).parts = s.parts := rfl
@[simp] theorem setRun_longs (n : Nat) (v : AnlRun) : (setRun s n v).longs = s.longs := rfl
@[simp] theorem setRun_ent (n : Nat) (v : AnlRun) : (setRun s n v).ent = s.ent := rfl
@[simp] theorem setRun_ses (n : Nat) (v : AnlRun) : (setRun s n v).ses = s.ses := rfl
@[simp] theorem setRun_sync (n : Nat) (v : AnlRun) : (setRun s n v).sync = s.sync := rfl
@[simp] theorem setRun_vec (n : Nat) (v : AnlRun) : (setRun s n v).vec = s.vec := rfl
@[simp] theorem setRun_net (n : Nat) (v : AnlRun) : (setRun s n v).net = s.net := rfl
@[simp] theorem setRun_dbg (n : Nat) (v : AnlRun) : (setRun s n v).dbg = s.dbg := rfl

/-! ### setBank -/

@[simp] theorem setBank_pending (n : Nat) (v : BankSt) : (setBank s n v).pending = s.pending := rfl
@[simp] theorem setBank_fresh (n : Nat) (v : BankSt) : (setBank s n v).fresh = s.fresh := rfl
@[simp] theorem setBank_out (n : Nat) (v : BankSt) : (setBank s n v).out = s.out := rfl
@[simp] theorem setBank_fuse (n : Nat) (v : BankSt) : (setBank s n v).fuse = s.fuse := rfl
@[simp] theorem setBank_power (n : Nat) (v : BankSt) : (setBank s n v).power = s.power := rfl
@[simp] theorem setBank_time (n : Nat) (v : BankSt) : (setBank s n v).time = s.time := rfl
@[simp] theorem setBank_rate (n : Nat) (v : BankSt) : (setBank s n v).rate = s.rate := rfl
@[simp] theorem setBank_image (n : Nat) (v : BankSt) : (setBank s n v).image = s.image := rfl
@[simp] theorem setBank_cfg (n : Nat) (v : BankSt) : (setBank s n v).cfg = s.cfg := rfl
@[simp] theorem setBank_insts (n : Nat) (v : BankSt) : (setBank s n v).insts = s.insts := rfl
@[simp] theorem setBank_err (n : Nat) (v : BankSt) : (setBank s n v).err = s.err := rfl
@[simp] theorem setBank_msg (n : Nat) (v : BankSt) : (setBank s n v).msg = s.msg := rfl
@[simp] theorem setBank_mem (n : Nat) (v : BankSt) : (setBank s n v).mem = s.mem := rfl
@[simp] theorem setBank_integ (n : Nat) (v : BankSt) : (setBank s n v).integ = s.integ := rfl
@[simp] theorem setBank_fe (n : Nat) (v : BankSt) : (setBank s n v).fe = s.fe := rfl
@[simp] theorem setBank_host (n : Nat) (v : BankSt) : (setBank s n v).host = s.host := rfl
@[simp] theorem setBank_parts (n : Nat) (v : BankSt) : (setBank s n v).parts = s.parts := rfl
@[simp] theorem setBank_longs (n : Nat) (v : BankSt) : (setBank s n v).longs = s.longs := rfl
@[simp] theorem setBank_ent (n : Nat) (v : BankSt) : (setBank s n v).ent = s.ent := rfl
@[simp] theorem setBank_anl (n : Nat) (v : BankSt) : (setBank s n v).anl = s.anl := rfl
@[simp] theorem setBank_ses (n : Nat) (v : BankSt) : (setBank s n v).ses = s.ses := rfl
@[simp] theorem setBank_sync (n : Nat) (v : BankSt) : (setBank s n v).sync = s.sync := rfl
@[simp] theorem setBank_vec (n : Nat) (v : BankSt) : (setBank s n v).vec = s.vec := rfl
@[simp] theorem setBank_net (n : Nat) (v : BankSt) : (setBank s n v).net = s.net := rfl
@[simp] theorem setBank_dbg (n : Nat) (v : BankSt) : (setBank s n v).dbg = s.dbg := rfl

/-! ### setBar -/

@[simp] theorem setBar_pending (c b : Nat) (v : BarSt) : (setBar s c b v).pending = s.pending := rfl
@[simp] theorem setBar_fresh (c b : Nat) (v : BarSt) : (setBar s c b v).fresh = s.fresh := rfl
@[simp] theorem setBar_out (c b : Nat) (v : BarSt) : (setBar s c b v).out = s.out := rfl
@[simp] theorem setBar_fuse (c b : Nat) (v : BarSt) : (setBar s c b v).fuse = s.fuse := rfl
@[simp] theorem setBar_power (c b : Nat) (v : BarSt) : (setBar s c b v).power = s.power := rfl
@[simp] theorem setBar_time (c b : Nat) (v : BarSt) : (setBar s c b v).time = s.time := rfl
@[simp] theorem setBar_rate (c b : Nat) (v : BarSt) : (setBar s c b v).rate = s.rate := rfl
@[simp] theorem setBar_image (c b : Nat) (v : BarSt) : (setBar s c b v).image = s.image := rfl
@[simp] theorem setBar_cfg (c b : Nat) (v : BarSt) : (setBar s c b v).cfg = s.cfg := rfl
@[simp] theorem setBar_insts (c b : Nat) (v : BarSt) : (setBar s c b v).insts = s.insts := rfl
@[simp] theorem setBar_err (c b : Nat) (v : BarSt) : (setBar s c b v).err = s.err := rfl
@[simp] theorem setBar_msg (c b : Nat) (v : BarSt) : (setBar s c b v).msg = s.msg := rfl
@[simp] theorem setBar_mem (c b : Nat) (v : BarSt) : (setBar s c b v).mem = s.mem := rfl
@[simp] theorem setBar_integ (c b : Nat) (v : BarSt) : (setBar s c b v).integ = s.integ := rfl
@[simp] theorem setBar_banks (c b : Nat) (v : BarSt) : (setBar s c b v).banks = s.banks := rfl
@[simp] theorem setBar_fe (c b : Nat) (v : BarSt) : (setBar s c b v).fe = s.fe := rfl
@[simp] theorem setBar_host (c b : Nat) (v : BarSt) : (setBar s c b v).host = s.host := rfl
@[simp] theorem setBar_parts (c b : Nat) (v : BarSt) : (setBar s c b v).parts = s.parts := rfl
@[simp] theorem setBar_longs (c b : Nat) (v : BarSt) : (setBar s c b v).longs = s.longs := rfl
@[simp] theorem setBar_ent (c b : Nat) (v : BarSt) : (setBar s c b v).ent = s.ent := rfl
@[simp] theorem setBar_anl (c b : Nat) (v : BarSt) : (setBar s c b v).anl = s.anl := rfl
@[simp] theorem setBar_ses (c b : Nat) (v : BarSt) : (setBar s c b v).ses = s.ses := rfl
@[simp] theorem setBar_vec (c b : Nat) (v : BarSt) : (setBar s c b v).vec = s.vec := rfl
@[simp] theorem setBar_net (c b : Nat) (v : BarSt) : (setBar s c b v).net = s.net := rfl
@[simp] theorem setBar_dbg (c b : Nat) (v : BarSt) : (setBar s c b v).dbg = s.dbg := rfl
@[simp] theorem setBar_sync_ctrs (c b : Nat) (v : BarSt) : (setBar s c b v).sync.ctrs = s.sync.ctrs := rfl
@[simp] theorem setBar_sync_status (c b : Nat) (v : BarSt) : (setBar s c b v).sync.status = s.sync.status := rfl
@[simp] theorem setBar_sync_ctxs (c b : Nat) (v : BarSt) : (setBar s c b v).sync.ctxs = s.sync.ctxs := rfl
@[simp] theorem setBar_sync_remoteReleases (c b : Nat) (v : BarSt) : (setBar s c b v).sync.remoteReleases = s.sync.remoteReleases := rfl

/-! ### setCtr -/

@[simp] theorem setCtr_pending (c b : Nat) (v : CtrSt) : (setCtr s c b v).pending = s.pending := rfl
@[simp] theorem setCtr_fresh (c b : Nat) (v : CtrSt) : (setCtr s c b v).fresh = s.fresh := rfl
@[simp] theorem setCtr_out (c b : Nat) (v : CtrSt) : (setCtr s c b v).out = s.out := rfl
@[simp] theorem setCtr_fuse (c b : Nat) (v : CtrSt) : (setCtr s c b v).fuse = s.fuse := rfl
@[simp] theorem setCtr_power (c b : Nat) (v : CtrSt) : (setCtr s c b v).power = s.power := rfl
@[simp] theorem setCtr_time (c b : Nat) (v : CtrSt) : (setCtr s c b v).time = s.time := rfl
@[simp] theorem setCtr_rate (c b : Nat) (v : CtrSt) : (setCtr s c b v).rate = s.rate := rfl
@[simp] theorem setCtr_image (c b : Nat) (v : CtrSt) : (setCtr s c b v).image = s.image := rfl
@[simp] theorem setCtr_cfg (c b : Nat) (v : CtrSt) : (setCtr s c b v).cfg = s.cfg := rfl
@[simp] theorem setCtr_insts (c b : Nat) (v : CtrSt) : (setCtr s c b v).insts = s.insts := rfl
@[simp] theorem setCtr_err (c b : Nat) (v : CtrSt) : (setCtr s c b v).err = s.err := rfl
@[simp] theorem setCtr_msg (c b : Nat) (v : CtrSt) : (setCtr s c b v).msg = s.msg := rfl
@[simp] theorem setCtr_mem (c b : Nat) (v : CtrSt) : (setCtr s c b v).mem = s.mem := rfl
@[simp] theorem setCtr_integ (c b : Nat) (v : CtrSt) : (setCtr s c b v).integ = s.integ := rfl
@[simp] theorem setCtr_banks (c b : Nat) (v : CtrSt) : (setCtr s c b v).banks = s.banks := rfl
@[simp] theorem setCtr_fe (c b : Nat) (v : CtrSt) : (setCtr s c b v).fe = s.fe := rfl
@[simp] theorem setCtr_host (c b : Nat) (v : CtrSt) : (setCtr s c b v).host = s.host := rfl
@[simp] theorem setCtr_parts (c b : Nat) (v : CtrSt) : (setCtr s c b v).parts = s.parts := rfl
@[simp] theorem setCtr_longs (c b : Nat) (v : CtrSt) : (setCtr s c b v).longs = s.longs := rfl
@[simp] theorem setCtr_ent (c b : Nat) (v : CtrSt) : (setCtr s c b v).ent = s.ent := rfl
@[simp] theorem setCtr_anl (c b : Nat) (v : CtrSt) : (setCtr s c b v).anl = s.anl := rfl
@[simp] theorem setCtr_ses (c b : Nat) (v : CtrSt) : (setCtr s c b v).ses = s.ses := rfl
@[simp] theorem setCtr_vec (c b : Nat) (v : CtrSt) : (setCtr s c b v).vec = s.vec := rfl
@[simp] theorem setCtr_net (c b : Nat) (v : CtrSt) : (setCtr s c b v).net = s.net := rfl
@[simp] theorem setCtr_dbg (c b : Nat) (v : CtrSt) : (setCtr s c b v).dbg = s.dbg := rfl
@[simp] theorem setCtr_sync_bars (c b : Nat) (v : CtrSt) : (setCtr s c b v).sync.bars = s.sync.bars := rfl
@[simp] theorem setCtr_sync_status (c b : Nat) (v : CtrSt) : (setCtr s c b v).sync.status = s.sync.status := rfl
@[simp] theorem setCtr_sync_ctxs (c b : Nat) (v : CtrSt) : (setCtr s c b v).sync.ctxs = s.sync.ctxs := rfl
@[simp] theorem setCtr_sync_remoteReleases (c b : Nat) (v : CtrSt) : (setCtr s c b v).sync.remoteReleases = s.sync.remoteReleases := rfl

/-! ### setCtx -/

@[simp] theorem setCtx_pending (n : Nat) (v : CtxSt) : (setCtx s n v).pending = s.pending := rfl
@[simp] theorem setCtx_fresh (n : Nat) (v : CtxSt) : (setCtx s n v).fresh = s.fresh := rfl
@[simp] theorem setCtx_out (n : Nat) (v : CtxSt) : (setCtx s n v).out = s.out := rfl
@[simp] theorem setCtx_fuse (n : Nat) (v : CtxSt) : (setCtx s n v).fuse = s.fuse := rfl
@[simp] theorem setCtx_power (n : Nat) (v : CtxSt) : (setCtx s n v).power = s.power := rfl
@[simp] theorem setCtx_time (n : Nat) (v : CtxSt) : (setCtx s n v).time = s.time := rfl
@[simp] theorem setCtx_rate (n : Nat) (v : CtxSt) : (setCtx s n v).rate = s.rate := rfl
@[simp] theorem setCtx_image (n : Nat) (v : CtxSt) : (setCtx s n v).image = s.image := rfl
@[simp] theorem setCtx_cfg (n : Nat) (v : CtxSt) : (setCtx s n v).cfg = s.cfg := rfl
@[simp] theorem setCtx_insts (n : Nat) (v : CtxSt) : (setCtx s n v).insts = s.insts := rfl
@[simp] theorem setCtx_err (n : Nat) (v : CtxSt) : (setCtx s n v).err = s.err := rfl
@[simp] theorem setCtx_msg (n : Nat) (v : CtxSt) : (setCtx s n v).msg = s.msg := rfl
@[simp] theorem setCtx_mem (n : Nat) (v : CtxSt) : (setCtx s n v).mem = s.mem := rfl
@[simp] theorem setCtx_integ (n : Nat) (v : CtxSt) : (setCtx s n v).integ = s.integ := rfl
@[simp] theorem setCtx_banks (n : Nat) (v : CtxSt) : (setCtx s n v).banks = s.banks := rfl
@[simp] theorem setCtx_fe (n : Nat) (v : CtxSt) : (setCtx s n v).fe = s.fe := rfl
@[simp] theorem setCtx_host (n : Nat) (v : CtxSt) : (setCtx s n v).host = s.host := rfl
@[simp] theorem setCtx_parts (n : Nat) (v : CtxSt) : (setCtx s n v).parts = s.parts := rfl
@[simp] theorem setCtx_longs (n : Nat) (v : CtxSt) : (setCtx s n v).longs = s.longs := rfl
@[simp] theorem setCtx_ent (n : Nat) (v : CtxSt) : (setCtx s n v).ent = s.ent := rfl
@[simp] theorem setCtx_anl (n : Nat) (v : CtxSt) : (setCtx s n v).anl = s.anl := rfl
@[simp] theorem setCtx_ses (n : Nat) (v : CtxSt) : (setCtx s n v).ses = s.ses := rfl
@[simp] theorem setCtx_vec (n : Nat) (v : CtxSt) : (setCtx s n v).vec = s.vec := rfl
@[simp] theorem setCtx_net (n : Nat) (v : CtxSt) : (setCtx s n v).net = s.net := rfl
@[simp] theorem setCtx_dbg (n : Nat) (v : CtxSt) : (setCtx s n v).dbg = s.dbg := rfl
@[simp] theorem setCtx_sync_bars (n : Nat) (v : CtxSt) : (setCtx s n v).sync.bars = s.sync.bars := rfl
@[simp] theorem setCtx_sync_ctrs (n : Nat) (v : CtxSt) : (setCtx s n v).sync.ctrs = s.sync.ctrs := rfl
@[simp] theorem setCtx_sync_status (n : Nat) (v : CtxSt) : (setCtx s n v).sync.status = s.sync.status := rfl
@[simp] theorem setCtx_sync_remoteReleases (n : Nat) (v : CtxSt) : (setCtx s n v).sync.remoteReleases = s.sync.remoteReleases := rfl

/-! ### setSyncStatus -/

@[simp] theorem setSyncStatus_pending (n : Nat) (v : SyncStatus) : (setSyncStatus s n v).pending = s.pending := rfl
@[simp] theorem setSyncStatus_fresh (n : Nat) (v : SyncStatus) : (setSyncStatus s n v).fresh = s.fresh := rfl
@[simp] theorem setSyncStatus_out (n : Nat) (v : SyncStatus) : (setSyncStatus s n v).out = s.out := rfl
@[simp] theorem setSyncStatus_fuse (n : Nat) (v : SyncStatus) : (setSyncStatus s n v).fuse = s.fuse := rfl
@[simp] theorem setSyncStatus_power (n : Nat) (v : SyncStatus) : (setSyncStatus s n v).power = s.power := rfl
@[simp] theorem setSyncStatus_time (n : Nat) (v : SyncStatus) : (setSyncStatus s n v).time = s.time := rfl
@[simp] theorem setSyncStatus_rate (n : Nat) (v : SyncStatus) : (setSyncStatus s n v).rate = s.rate := rfl
@[simp] theorem setSyncStatus_image (n : Nat) (v : SyncStatus) : (setSyncStatus s n v).image = s.image := rfl
@[simp] theorem setSyncStatus_cfg (n : Nat) (v : SyncStatus) : (setSyncStatus s n v).cfg = s.cfg := rfl
@[simp] theorem setSyncStatus_insts (n : Nat) (v : SyncStatus) : (setSyncStatus s n v).insts = s.insts := rfl
@[simp] theorem setSyncStatus_err (n : Nat) (v : SyncStatus) : (setSyncStatus s n v).err = s.err := rfl
@[simp] theorem setSyncStatus_msg (n : Nat) (v : SyncStatus) : (setSyncStatus s n v).msg = s.msg := rfl
@[simp] theorem setSyncStatus_mem (n : Nat) (v : SyncStatus) : (setSyncStatus s n v).mem = s.mem := rfl
@[simp] theorem setSyncStatus_integ (n : Nat) (v : SyncStatus) : (setSyncStatus s n v).integ = s.integ := rfl
@[simp] theorem setSyncStatus_banks (n : Nat) (v : SyncStatus) : (setSyncStatus s n v).banks = s.banks := rfl
@[simp] theorem setSyncStatus_fe (n : Nat) (v : SyncStatus) : (setSyncStatus s n v).fe = s.fe := rfl
@[simp] theorem setSyncStatus_host (n : Nat) (v : SyncStatus) : (setSyncStatus s n v).host = s.host := rfl
@[simp] theorem setSyncStatus_parts (n : Nat) (v : SyncStatus) : (setSyncStatus s n v).parts = s.parts := rfl
@[simp] theorem setSyncStatus_longs (n : Nat) (v : SyncStatus) : (setSyncStatus s n v).longs = s.longs := rfl
@[simp] theorem setSyncStatus_ent (n : Nat) (v : SyncStatus) : (setSyncStatus s n v).ent = s.ent := rfl
@[simp] theorem setSyncStatus_anl (n : Nat) (v : SyncStatus) : (setSyncStatus s n v).anl = s.anl := rfl
@[simp] theorem setSyncStatus_ses (n : Nat) (v : SyncStatus) : (setSyncStatus s n v).ses = s.ses := rfl
@[simp] theorem setSyncStatus_vec (n : Nat) (v : SyncStatus) : (setSyncStatus s n v).vec = s.vec := rfl
@[simp] theorem setSyncStatus_net (n : Nat) (v : SyncStatus) : (setSyncStatus s n v).net = s.net := rfl
@[simp] theorem setSyncStatus_dbg (n : Nat) (v : SyncStatus) : (setSyncStatus s n v).dbg = s.dbg := rfl
@[simp] theorem setSyncStatus_sync_bars (n : Nat) (v : SyncStatus) : (setSyncStatus s n v).sync.bars = s.sync.bars := rfl
@[simp] theorem setSyncStatus_sync_ctrs (n : Nat) (v : SyncStatus) : (setSyncStatus s n v).sync.ctrs = s.sync.ctrs := rfl
@[simp] theorem setSyncStatus_sync_ctxs (n : Nat) (v : SyncStatus) : (setSyncStatus s n v).sync.ctxs = s.sync.ctxs := rfl
@[simp] theorem setSyncStatus_sync_remoteReleases (n : Nat) (v : SyncStatus) : (setSyncStatus s n v).sync.remoteReleases = s.sync.remoteReleases := rfl

/-! ### setActive -/

@[simp] theorem setActive_pending (n v : Nat) : (setActive s n v).pending = s.pending := rfl
@[simp] theorem setActive_fresh (n v : Nat) : (setActive s n v).fresh = s.fresh := rfl
@[simp] theorem setActive_out (n v : Nat) : (setActive s n v).out = s.out := rfl
@[simp] theorem setActive_fuse (n v : Nat) : (setActive s n v).fuse = s.fuse := rfl
@[simp] theorem setActive_power (n v : Nat) : (setActive s n v).power = s.power := rfl
@[simp] theorem setActive_time (n v : Nat) : (setActive s n v).time = s.time := rfl
@[simp] theorem setActive_rate (n v : Nat) : (setActive s n v).rate = s.rate := rfl
@[simp] theorem setActive_image (n v : Nat) : (setActive s n v).image = s.image := rfl
@[simp] theorem setActive_insts (n v : Nat) : (setActive s n v).insts = s.insts := rfl
@[simp] theorem setActive_err (n v : Nat) : (setActive s n v).err = s.err := rfl
@[simp] theorem setActive_msg (n v : Nat) : (setActive s n v).msg = s.msg := rfl
@[simp] theorem setActive_mem (n v : Nat) : (setActive s n v).mem = s.mem := rfl
@[simp] theorem setActive_integ (n v : Nat) : (setActive s n v).integ = s.integ := rfl
@[simp] theorem setActive_banks (n v : Nat) : (setActive s n v).banks = s.banks := rfl
@[simp] theorem setActive_fe (n v : Nat) : (setActive s n v).fe = s.fe := rfl
@[simp] theorem setActive_host (n v : Nat) : (setActive s n v).host = s.host := rfl
@[simp] theorem setActive_parts (n v : Nat) : (setActive s n v).parts = s.parts := rfl
@[simp] theorem setActive_longs (n v : Nat) : (setActive s n v).longs = s.longs := rfl
@[simp] theorem setActive_ent (n v : Nat) : (setActive s n v).ent = s.ent := rfl
@[simp] theorem setActive_anl (n v : Nat) : (setActive s n v).anl = s.anl := rfl
@[simp] theorem setActive_ses (n v : Nat) : (setActive s n v).ses = s.ses := rfl
@[simp] theorem setActive_sync (n v : Nat) : (setActive s n v).sync = s.sync := rfl
@[simp] theorem setActive_vec (n v : Nat) : (setActive s n v).vec = s.vec := rfl
@[simp] theorem setActive_net (n v : Nat) : (setActive s n v).net = s.net := rfl
@[simp] theorem setActive_dbg (n v : Nat) : (setActive s n v).dbg = s.dbg := rfl

/-! ### setCell -/

@[simp] theorem setCell_pending (n : Nat) (d : RegDesc) (v : CfgCell) : (setCell s n d v).pending = s.pending := rfl
@[simp] theorem setCell_fresh (n : Nat) (d : RegDesc) (v : CfgCell) : (setCell s n d v).fresh = s.fresh := rfl
@[simp] theorem setCell_out (n : Nat) (d : RegDesc) (v : CfgCell) : (setCell s n d v).out = s.out := rfl
@[simp] theorem setCell_fuse (n : Nat) (d : RegDesc) (v : CfgCell) : (setCell s n d v).fuse = s.fuse := rfl
@[simp] theorem setCell_power (n : Nat) (d : RegDesc) (v : CfgCell) : (setCell s n d v).power = s.power := rfl
@[simp] theorem setCell_time (n : Nat) (d : RegDesc) (v : CfgCell) : (setCell s n d v).time = s.time := rfl
@[simp] theorem setCell_rate (n : Nat) (d : RegDesc) (v : CfgCell) : (setCell s n d v).rate = s.rate := rfl
@[simp] theorem setCell_image (n : Nat) (d : RegDesc) (v : CfgCell) : (setCell s n d v).image = s.image := rfl
@[simp] theorem setCell_insts (n : Nat) (d : RegDesc) (v : CfgCell) : (setCell s n d v).insts = s.insts := rfl
@[simp] theorem setCell_err (n : Nat) (d : RegDesc) (v : CfgCell) : (setCell s n d v).err = s.err := rfl
@[simp] theorem setCell_msg (n : Nat) (d : RegDesc) (v : CfgCell) : (setCell s n d v).msg = s.msg := rfl
@[simp] theorem setCell_mem (n : Nat) (d : RegDesc) (v : CfgCell) : (setCell s n d v).mem = s.mem := rfl
@[simp] theorem setCell_integ (n : Nat) (d : RegDesc) (v : CfgCell) : (setCell s n d v).integ = s.integ := rfl
@[simp] theorem setCell_banks (n : Nat) (d : RegDesc) (v : CfgCell) : (setCell s n d v).banks = s.banks := rfl
@[simp] theorem setCell_fe (n : Nat) (d : RegDesc) (v : CfgCell) : (setCell s n d v).fe = s.fe := rfl
@[simp] theorem setCell_host (n : Nat) (d : RegDesc) (v : CfgCell) : (setCell s n d v).host = s.host := rfl
@[simp] theorem setCell_parts (n : Nat) (d : RegDesc) (v : CfgCell) : (setCell s n d v).parts = s.parts := rfl
@[simp] theorem setCell_longs (n : Nat) (d : RegDesc) (v : CfgCell) : (setCell s n d v).longs = s.longs := rfl
@[simp] theorem setCell_ent (n : Nat) (d : RegDesc) (v : CfgCell) : (setCell s n d v).ent = s.ent := rfl
@[simp] theorem setCell_anl (n : Nat) (d : RegDesc) (v : CfgCell) : (setCell s n d v).anl = s.anl := rfl
@[simp] theorem setCell_ses (n : Nat) (d : RegDesc) (v : CfgCell) : (setCell s n d v).ses = s.ses := rfl
@[simp] theorem setCell_sync (n : Nat) (d : RegDesc) (v : CfgCell) : (setCell s n d v).sync = s.sync := rfl
@[simp] theorem setCell_vec (n : Nat) (d : RegDesc) (v : CfgCell) : (setCell s n d v).vec = s.vec := rfl
@[simp] theorem setCell_net (n : Nat) (d : RegDesc) (v : CfgCell) : (setCell s n d v).net = s.net := rfl
@[simp] theorem setCell_dbg (n : Nat) (d : RegDesc) (v : CfgCell) : (setCell s n d v).dbg = s.dbg := rfl

/-! ### setInst -/

@[simp] theorem setInst_pending (v : InstSt) : (setInst s v).pending = s.pending := rfl
@[simp] theorem setInst_fresh (v : InstSt) : (setInst s v).fresh = s.fresh := rfl
@[simp] theorem setInst_out (v : InstSt) : (setInst s v).out = s.out := rfl
@[simp] theorem setInst_fuse (v : InstSt) : (setInst s v).fuse = s.fuse := rfl
@[simp] theorem setInst_power (v : InstSt) : (setInst s v).power = s.power := rfl
@[simp] theorem setInst_time (v : InstSt) : (setInst s v).time = s.time := rfl
@[simp] theorem setInst_rate (v : InstSt) : (setInst s v).rate = s.rate := rfl
@[simp] theorem setInst_image (v : InstSt) : (setInst s v).image = s.image := rfl
@[simp] theorem setInst_cfg (v : InstSt) : (setInst s v).cfg = s.cfg := rfl
@[simp] theorem setInst_err (v : InstSt) : (setInst s v).err = s.err := rfl
@[simp] theorem setInst_msg (v : InstSt) : (setInst s v).msg = s.msg := rfl
@[simp] theorem setInst_mem (v : InstSt) : (setInst s v).mem = s.mem := rfl
@[simp] theorem setInst_integ (v : InstSt) : (setInst s v).integ = s.integ := rfl
@[simp] theorem setInst_banks (v : InstSt) : (setInst s v).banks = s.banks := rfl
@[simp] theorem setInst_fe (v : InstSt) : (setInst s v).fe = s.fe := rfl
@[simp] theorem setInst_host (v : InstSt) : (setInst s v).host = s.host := rfl
@[simp] theorem setInst_parts (v : InstSt) : (setInst s v).parts = s.parts := rfl
@[simp] theorem setInst_longs (v : InstSt) : (setInst s v).longs = s.longs := rfl
@[simp] theorem setInst_ent (v : InstSt) : (setInst s v).ent = s.ent := rfl
@[simp] theorem setInst_anl (v : InstSt) : (setInst s v).anl = s.anl := rfl
@[simp] theorem setInst_ses (v : InstSt) : (setInst s v).ses = s.ses := rfl
@[simp] theorem setInst_sync (v : InstSt) : (setInst s v).sync = s.sync := rfl
@[simp] theorem setInst_vec (v : InstSt) : (setInst s v).vec = s.vec := rfl
@[simp] theorem setInst_net (v : InstSt) : (setInst s v).net = s.net := rfl
@[simp] theorem setInst_dbg (v : InstSt) : (setInst s v).dbg = s.dbg := rfl

/-! ### setClient -/

@[simp] theorem setClient_pending (n : Nat) (v : Client) : (setClient s n v).pending = s.pending := rfl
@[simp] theorem setClient_fresh (n : Nat) (v : Client) : (setClient s n v).fresh = s.fresh := rfl
@[simp] theorem setClient_out (n : Nat) (v : Client) : (setClient s n v).out = s.out := rfl
@[simp] theorem setClient_fuse (n : Nat) (v : Client) : (setClient s n v).fuse = s.fuse := rfl
@[simp] theorem setClient_power (n : Nat) (v : Client) : (setClient s n v).power = s.power := rfl
@[simp] theorem setClient_time (n : Nat) (v : Client) : (setClient s n v).time = s.time := rfl
@[simp] theorem setClient_rate (n : Nat) (v : Client) : (setClient s n v).rate = s.rate := rfl
@[simp] theorem setClient_image (n : Nat) (v : Client) : (setClient s n v).image = s.image := rfl
@[simp] theorem setClient_cfg (n : Nat) (v : Client) : (setClient s n v).cfg = s.cfg := rfl
@[simp] theorem setClient_insts (n : Nat) (v : Client) : (setClient s n v).insts = s.insts := rfl
@[simp] theorem setClient_err (n : Nat) (v : Client) : (setClient s n v).err = s.err := rfl
@[simp] theorem setClient_msg (n : Nat) (v : Client) : (setClient s n v).msg = s.msg := rfl
@[simp] theorem setClient_mem (n : Nat) (v : Client) : (setClient s n v).mem = s.mem := rfl
@[simp] theorem setClient_integ (n : Nat) (v : Client) : (setClient s n v).integ = s.integ := rfl
@[simp] theorem setClient_banks (n : Nat) (v : Client) : (setClient s n v).banks = s.banks := rfl
@[simp] theorem setClient_fe (n : Nat) (v : Client) : (setClient s n v).fe = s.fe := rfl
@[simp] theorem setClient_host (n : Nat) (v : Client) : (setClient s n v).host = s.host := rfl
@[simp] theorem setClient_parts (n : Nat) (v : Client) : (setClient s n v).parts = s.parts := rfl
@[simp] theorem setClient_longs (n : Nat) (v : Client) : (setClient s n v).longs = s.longs := rfl
@[simp] theorem setClient_anl (n : Nat) (v : Client) : (setClient s n v).anl = s.anl := rfl
@[simp] theorem setClient_ses (n : Nat) (v : Client) : (setClient s n v).ses = s.ses := rfl
@[simp] theorem setClient_sync (n : Nat) (v : Client) : (setClient s n v).sync = s.sync := rfl
@[simp] theorem setClient_vec (n : Nat) (v : Client) : (setClient s n v).vec = s.vec := rfl
@[simp] theorem setClient_net (n : Nat) (v : Client) : (setClient s n v).net = s.net := rfl
@[simp] theorem setClient_dbg (n : Nat) (v : Client) : (setClient s n v).dbg = s.dbg := rfl
@[simp] theorem setClient_ent_sources (n : Nat) (v : Client) : (setClient s n v).ent.sources = s.ent.sources := rfl
@[simp] theorem setClient_ent_hashing (n : Nat) (v : Client) : (setClient s n v).ent.hashing = s.ent.hashing := rfl
@[simp] theorem setClient_ent_pool (n : Nat) (v : Client) : (setClient s n v).ent.pool = s.ent.pool := rfl
@[simp] theorem setClient_ent_draws (n : Nat) (v : Client) : (setClient s n v).ent.draws = s.ent.draws := rfl
@[simp] theorem setClient_ent_keyDrawn (n : Nat) (v : Client) : (setClient s n v).ent.keyDrawn = s.ent.keyDrawn := rfl
@[simp] theorem setClient_ent_thaw (n : Nat) (v : Client) : (setClient s n v).ent.thaw = s.ent.thaw := rfl
@[simp] theorem setClient_ent_capture (n : Nat) (v : Client) : (setClient s n v).ent.capture = s.ent.capture := rfl

/-! ### setSource -/

@[simp] theorem setSource_pending (n : Nat) (v : EntSource) : (setSource s n v).pending = s.pending := rfl
@[simp] theorem setSource_fresh (n : Nat) (v : EntSource) : (setSource s n v).fresh = s.fresh := rfl
@[simp] theorem setSource_out (n : Nat) (v : EntSource) : (setSource s n v).out = s.out := rfl
@[simp] theorem setSource_fuse (n : Nat) (v : EntSource) : (setSource s n v).fuse = s.fuse := rfl
@[simp] theorem setSource_power (n : Nat) (v : EntSource) : (setSource s n v).power = s.power := rfl
@[simp] theorem setSource_time (n : Nat) (v : EntSource) : (setSource s n v).time = s.time := rfl
@[simp] theorem setSource_rate (n : Nat) (v : EntSource) : (setSource s n v).rate = s.rate := rfl
@[simp] theorem setSource_image (n : Nat) (v : EntSource) : (setSource s n v).image = s.image := rfl
@[simp] theorem setSource_cfg (n : Nat) (v : EntSource) : (setSource s n v).cfg = s.cfg := rfl
@[simp] theorem setSource_insts (n : Nat) (v : EntSource) : (setSource s n v).insts = s.insts := rfl
@[simp] theorem setSource_err (n : Nat) (v : EntSource) : (setSource s n v).err = s.err := rfl
@[simp] theorem setSource_msg (n : Nat) (v : EntSource) : (setSource s n v).msg = s.msg := rfl
@[simp] theorem setSource_mem (n : Nat) (v : EntSource) : (setSource s n v).mem = s.mem := rfl
@[simp] theorem setSource_integ (n : Nat) (v : EntSource) : (setSource s n v).integ = s.integ := rfl
@[simp] theorem setSource_banks (n : Nat) (v : EntSource) : (setSource s n v).banks = s.banks := rfl
@[simp] theorem setSource_fe (n : Nat) (v : EntSource) : (setSource s n v).fe = s.fe := rfl
@[simp] theorem setSource_host (n : Nat) (v : EntSource) : (setSource s n v).host = s.host := rfl
@[simp] theorem setSource_parts (n : Nat) (v : EntSource) : (setSource s n v).parts = s.parts := rfl
@[simp] theorem setSource_longs (n : Nat) (v : EntSource) : (setSource s n v).longs = s.longs := rfl
@[simp] theorem setSource_anl (n : Nat) (v : EntSource) : (setSource s n v).anl = s.anl := rfl
@[simp] theorem setSource_ses (n : Nat) (v : EntSource) : (setSource s n v).ses = s.ses := rfl
@[simp] theorem setSource_sync (n : Nat) (v : EntSource) : (setSource s n v).sync = s.sync := rfl
@[simp] theorem setSource_vec (n : Nat) (v : EntSource) : (setSource s n v).vec = s.vec := rfl
@[simp] theorem setSource_net (n : Nat) (v : EntSource) : (setSource s n v).net = s.net := rfl
@[simp] theorem setSource_dbg (n : Nat) (v : EntSource) : (setSource s n v).dbg = s.dbg := rfl
@[simp] theorem setSource_ent_hashing (n : Nat) (v : EntSource) : (setSource s n v).ent.hashing = s.ent.hashing := rfl
@[simp] theorem setSource_ent_pool (n : Nat) (v : EntSource) : (setSource s n v).ent.pool = s.ent.pool := rfl
@[simp] theorem setSource_ent_draws (n : Nat) (v : EntSource) : (setSource s n v).ent.draws = s.ent.draws := rfl
@[simp] theorem setSource_ent_keyDrawn (n : Nat) (v : EntSource) : (setSource s n v).ent.keyDrawn = s.ent.keyDrawn := rfl
@[simp] theorem setSource_ent_thaw (n : Nat) (v : EntSource) : (setSource s n v).ent.thaw = s.ent.thaw := rfl
@[simp] theorem setSource_ent_clients (n : Nat) (v : EntSource) : (setSource s n v).ent.clients = s.ent.clients := rfl
@[simp] theorem setSource_ent_capture (n : Nat) (v : EntSource) : (setSource s n v).ent.capture = s.ent.capture := rfl

/-! ### setCommit -/

@[simp] theorem setCommit_pending (v : Option CommitRun) : (setCommit s v).pending = s.pending := rfl
@[simp] theorem setCommit_fresh (v : Option CommitRun) : (setCommit s v).fresh = s.fresh := rfl
@[simp] theorem setCommit_out (v : Option CommitRun) : (setCommit s v).out = s.out := rfl
@[simp] theorem setCommit_fuse (v : Option CommitRun) : (setCommit s v).fuse = s.fuse := rfl
@[simp] theorem setCommit_power (v : Option CommitRun) : (setCommit s v).power = s.power := rfl
@[simp] theorem setCommit_time (v : Option CommitRun) : (setCommit s v).time = s.time := rfl
@[simp] theorem setCommit_rate (v : Option CommitRun) : (setCommit s v).rate = s.rate := rfl
@[simp] theorem setCommit_cfg (v : Option CommitRun) : (setCommit s v).cfg = s.cfg := rfl
@[simp] theorem setCommit_insts (v : Option CommitRun) : (setCommit s v).insts = s.insts := rfl
@[simp] theorem setCommit_err (v : Option CommitRun) : (setCommit s v).err = s.err := rfl
@[simp] theorem setCommit_msg (v : Option CommitRun) : (setCommit s v).msg = s.msg := rfl
@[simp] theorem setCommit_mem (v : Option CommitRun) : (setCommit s v).mem = s.mem := rfl
@[simp] theorem setCommit_integ (v : Option CommitRun) : (setCommit s v).integ = s.integ := rfl
@[simp] theorem setCommit_banks (v : Option CommitRun) : (setCommit s v).banks = s.banks := rfl
@[simp] theorem setCommit_fe (v : Option CommitRun) : (setCommit s v).fe = s.fe := rfl
@[simp] theorem setCommit_host (v : Option CommitRun) : (setCommit s v).host = s.host := rfl
@[simp] theorem setCommit_parts (v : Option CommitRun) : (setCommit s v).parts = s.parts := rfl
@[simp] theorem setCommit_longs (v : Option CommitRun) : (setCommit s v).longs = s.longs := rfl
@[simp] theorem setCommit_ent (v : Option CommitRun) : (setCommit s v).ent = s.ent := rfl
@[simp] theorem setCommit_anl (v : Option CommitRun) : (setCommit s v).anl = s.anl := rfl
@[simp] theorem setCommit_ses (v : Option CommitRun) : (setCommit s v).ses = s.ses := rfl
@[simp] theorem setCommit_sync (v : Option CommitRun) : (setCommit s v).sync = s.sync := rfl
@[simp] theorem setCommit_vec (v : Option CommitRun) : (setCommit s v).vec = s.vec := rfl
@[simp] theorem setCommit_net (v : Option CommitRun) : (setCommit s v).net = s.net := rfl
@[simp] theorem setCommit_dbg (v : Option CommitRun) : (setCommit s v).dbg = s.dbg := rfl
@[simp] theorem setCommit_image_force (v : Option CommitRun) : (setCommit s v).image.force = s.image.force := rfl
@[simp] theorem setCommit_image_established (v : Option CommitRun) : (setCommit s v).image.established = s.image.established := rfl
@[simp] theorem setCommit_image_pending (v : Option CommitRun) : (setCommit s v).image.pending = s.image.pending := rfl
@[simp] theorem setCommit_image_lastStatus (v : Option CommitRun) : (setCommit s v).image.lastStatus = s.image.lastStatus := rfl
@[simp] theorem setCommit_image_lastStage (v : Option CommitRun) : (setCommit s v).image.lastStage = s.image.lastStage := rfl
@[simp] theorem setCommit_image_lastSection (v : Option CommitRun) : (setCommit s v).image.lastSection = s.image.lastSection := rfl
@[simp] theorem setCommit_image_fails (v : Option CommitRun) : (setCommit s v).image.fails = s.image.fails := rfl
@[simp] theorem setCommit_image_commits (v : Option CommitRun) : (setCommit s v).image.commits = s.image.commits := rfl

/-! ### setLoading -/

@[simp] theorem setLoading_pending (v : LoadRun) : (setLoading s v).pending = s.pending := rfl
@[simp] theorem setLoading_fresh (v : LoadRun) : (setLoading s v).fresh = s.fresh := rfl
@[simp] theorem setLoading_out (v : LoadRun) : (setLoading s v).out = s.out := rfl
@[simp] theorem setLoading_fuse (v : LoadRun) : (setLoading s v).fuse = s.fuse := rfl
@[simp] theorem setLoading_power (v : LoadRun) : (setLoading s v).power = s.power := rfl
@[simp] theorem setLoading_time (v : LoadRun) : (setLoading s v).time = s.time := rfl
@[simp] theorem setLoading_rate (v : LoadRun) : (setLoading s v).rate = s.rate := rfl
@[simp] theorem setLoading_cfg (v : LoadRun) : (setLoading s v).cfg = s.cfg := rfl
@[simp] theorem setLoading_insts (v : LoadRun) : (setLoading s v).insts = s.insts := rfl
@[simp] theorem setLoading_err (v : LoadRun) : (setLoading s v).err = s.err := rfl
@[simp] theorem setLoading_msg (v : LoadRun) : (setLoading s v).msg = s.msg := rfl
@[simp] theorem setLoading_mem (v : LoadRun) : (setLoading s v).mem = s.mem := rfl
@[simp] theorem setLoading_integ (v : LoadRun) : (setLoading s v).integ = s.integ := rfl
@[simp] theorem setLoading_banks (v : LoadRun) : (setLoading s v).banks = s.banks := rfl
@[simp] theorem setLoading_fe (v : LoadRun) : (setLoading s v).fe = s.fe := rfl
@[simp] theorem setLoading_host (v : LoadRun) : (setLoading s v).host = s.host := rfl
@[simp] theorem setLoading_parts (v : LoadRun) : (setLoading s v).parts = s.parts := rfl
@[simp] theorem setLoading_longs (v : LoadRun) : (setLoading s v).longs = s.longs := rfl
@[simp] theorem setLoading_ent (v : LoadRun) : (setLoading s v).ent = s.ent := rfl
@[simp] theorem setLoading_anl (v : LoadRun) : (setLoading s v).anl = s.anl := rfl
@[simp] theorem setLoading_ses (v : LoadRun) : (setLoading s v).ses = s.ses := rfl
@[simp] theorem setLoading_sync (v : LoadRun) : (setLoading s v).sync = s.sync := rfl
@[simp] theorem setLoading_vec (v : LoadRun) : (setLoading s v).vec = s.vec := rfl
@[simp] theorem setLoading_net (v : LoadRun) : (setLoading s v).net = s.net := rfl
@[simp] theorem setLoading_dbg (v : LoadRun) : (setLoading s v).dbg = s.dbg := rfl
@[simp] theorem setLoading_image_force (v : LoadRun) : (setLoading s v).image.force = s.image.force := rfl
@[simp] theorem setLoading_image_established (v : LoadRun) : (setLoading s v).image.established = s.image.established := rfl
@[simp] theorem setLoading_image_pending (v : LoadRun) : (setLoading s v).image.pending = s.image.pending := rfl
@[simp] theorem setLoading_image_lastStatus (v : LoadRun) : (setLoading s v).image.lastStatus = s.image.lastStatus := rfl
@[simp] theorem setLoading_image_lastStage (v : LoadRun) : (setLoading s v).image.lastStage = s.image.lastStage := rfl
@[simp] theorem setLoading_image_lastSection (v : LoadRun) : (setLoading s v).image.lastSection = s.image.lastSection := rfl
@[simp] theorem setLoading_image_fails (v : LoadRun) : (setLoading s v).image.fails = s.image.fails := rfl
@[simp] theorem setLoading_image_commits (v : LoadRun) : (setLoading s v).image.commits = s.image.commits := rfl

/-! ### setQueue -/

@[simp] theorem setQueue_pending (n : Nat) (v : QueueSt) : (setQueue s n v).pending = s.pending := rfl
@[simp] theorem setQueue_fresh (n : Nat) (v : QueueSt) : (setQueue s n v).fresh = s.fresh := rfl
@[simp] theorem setQueue_out (n : Nat) (v : QueueSt) : (setQueue s n v).out = s.out := rfl
@[simp] theorem setQueue_fuse (n : Nat) (v : QueueSt) : (setQueue s n v).fuse = s.fuse := rfl
@[simp] theorem setQueue_power (n : Nat) (v : QueueSt) : (setQueue s n v).power = s.power := rfl
@[simp] theorem setQueue_time (n : Nat) (v : QueueSt) : (setQueue s n v).time = s.time := rfl
@[simp] theorem setQueue_rate (n : Nat) (v : QueueSt) : (setQueue s n v).rate = s.rate := rfl
@[simp] theorem setQueue_image (n : Nat) (v : QueueSt) : (setQueue s n v).image = s.image := rfl
@[simp] theorem setQueue_cfg (n : Nat) (v : QueueSt) : (setQueue s n v).cfg = s.cfg := rfl
@[simp] theorem setQueue_insts (n : Nat) (v : QueueSt) : (setQueue s n v).insts = s.insts := rfl
@[simp] theorem setQueue_err (n : Nat) (v : QueueSt) : (setQueue s n v).err = s.err := rfl
@[simp] theorem setQueue_msg (n : Nat) (v : QueueSt) : (setQueue s n v).msg = s.msg := rfl
@[simp] theorem setQueue_mem (n : Nat) (v : QueueSt) : (setQueue s n v).mem = s.mem := rfl
@[simp] theorem setQueue_integ (n : Nat) (v : QueueSt) : (setQueue s n v).integ = s.integ := rfl
@[simp] theorem setQueue_banks (n : Nat) (v : QueueSt) : (setQueue s n v).banks = s.banks := rfl
@[simp] theorem setQueue_host (n : Nat) (v : QueueSt) : (setQueue s n v).host = s.host := rfl
@[simp] theorem setQueue_parts (n : Nat) (v : QueueSt) : (setQueue s n v).parts = s.parts := rfl
@[simp] theorem setQueue_longs (n : Nat) (v : QueueSt) : (setQueue s n v).longs = s.longs := rfl
@[simp] theorem setQueue_ent (n : Nat) (v : QueueSt) : (setQueue s n v).ent = s.ent := rfl
@[simp] theorem setQueue_anl (n : Nat) (v : QueueSt) : (setQueue s n v).anl = s.anl := rfl
@[simp] theorem setQueue_ses (n : Nat) (v : QueueSt) : (setQueue s n v).ses = s.ses := rfl
@[simp] theorem setQueue_sync (n : Nat) (v : QueueSt) : (setQueue s n v).sync = s.sync := rfl
@[simp] theorem setQueue_vec (n : Nat) (v : QueueSt) : (setQueue s n v).vec = s.vec := rfl
@[simp] theorem setQueue_net (n : Nat) (v : QueueSt) : (setQueue s n v).net = s.net := rfl
@[simp] theorem setQueue_dbg (n : Nat) (v : QueueSt) : (setQueue s n v).dbg = s.dbg := rfl
@[simp] theorem setQueue_fe_slots (n : Nat) (v : QueueSt) : (setQueue s n v).fe.slots = s.fe.slots := rfl
@[simp] theorem setQueue_fe_cqs (n : Nat) (v : QueueSt) : (setQueue s n v).fe.cqs = s.fe.cqs := rfl
@[simp] theorem setQueue_fe_events (n : Nat) (v : QueueSt) : (setQueue s n v).fe.events = s.fe.events := rfl
@[simp] theorem setQueue_fe_waits (n : Nat) (v : QueueSt) : (setQueue s n v).fe.waits = s.fe.waits := rfl
@[simp] theorem setQueue_fe_holds (n : Nat) (v : QueueSt) : (setQueue s n v).fe.holds = s.fe.holds := rfl
@[simp] theorem setQueue_fe_captures (n : Nat) (v : QueueSt) : (setQueue s n v).fe.captures = s.fe.captures := rfl
@[simp] theorem setQueue_fe_captureCount (n : Nat) (v : QueueSt) : (setQueue s n v).fe.captureCount = s.fe.captureCount := rfl
@[simp] theorem setQueue_fe_captureNext (n : Nat) (v : QueueSt) : (setQueue s n v).fe.captureNext = s.fe.captureNext := rfl
@[simp] theorem setQueue_fe_lastQueue (n : Nat) (v : QueueSt) : (setQueue s n v).fe.lastQueue = s.fe.lastQueue := rfl
@[simp] theorem setQueue_fe_lastSeq (n : Nat) (v : QueueSt) : (setQueue s n v).fe.lastSeq = s.fe.lastSeq := rfl
@[simp] theorem setQueue_fe_deadlocks (n : Nat) (v : QueueSt) : (setQueue s n v).fe.deadlocks = s.fe.deadlocks := rfl
@[simp] theorem setQueue_fe_abandoned (n : Nat) (v : QueueSt) : (setQueue s n v).fe.abandoned = s.fe.abandoned := rfl
@[simp] theorem setQueue_fe_rejected (n : Nat) (v : QueueSt) : (setQueue s n v).fe.rejected = s.fe.rejected := rfl
@[simp] theorem setQueue_fe_dispatcher (n : Nat) (v : QueueSt) : (setQueue s n v).fe.dispatcher = s.fe.dispatcher := rfl
@[simp] theorem setQueue_fe_stamp (n : Nat) (v : QueueSt) : (setQueue s n v).fe.stamp = s.fe.stamp := rfl
@[simp] theorem setQueue_fe_heartbeat (n : Nat) (v : QueueSt) : (setQueue s n v).fe.heartbeat = s.fe.heartbeat := rfl
@[simp] theorem setQueue_fe_watchFrom (n : Nat) (v : QueueSt) : (setQueue s n v).fe.watchFrom = s.fe.watchFrom := rfl

/-! ### setSlot -/

@[simp] theorem setSlot_pending (n : Nat) (v : SlotSt) : (setSlot s n v).pending = s.pending := rfl
@[simp] theorem setSlot_fresh (n : Nat) (v : SlotSt) : (setSlot s n v).fresh = s.fresh := rfl
@[simp] theorem setSlot_out (n : Nat) (v : SlotSt) : (setSlot s n v).out = s.out := rfl
@[simp] theorem setSlot_fuse (n : Nat) (v : SlotSt) : (setSlot s n v).fuse = s.fuse := rfl
@[simp] theorem setSlot_power (n : Nat) (v : SlotSt) : (setSlot s n v).power = s.power := rfl
@[simp] theorem setSlot_time (n : Nat) (v : SlotSt) : (setSlot s n v).time = s.time := rfl
@[simp] theorem setSlot_rate (n : Nat) (v : SlotSt) : (setSlot s n v).rate = s.rate := rfl
@[simp] theorem setSlot_image (n : Nat) (v : SlotSt) : (setSlot s n v).image = s.image := rfl
@[simp] theorem setSlot_cfg (n : Nat) (v : SlotSt) : (setSlot s n v).cfg = s.cfg := rfl
@[simp] theorem setSlot_insts (n : Nat) (v : SlotSt) : (setSlot s n v).insts = s.insts := rfl
@[simp] theorem setSlot_err (n : Nat) (v : SlotSt) : (setSlot s n v).err = s.err := rfl
@[simp] theorem setSlot_msg (n : Nat) (v : SlotSt) : (setSlot s n v).msg = s.msg := rfl
@[simp] theorem setSlot_mem (n : Nat) (v : SlotSt) : (setSlot s n v).mem = s.mem := rfl
@[simp] theorem setSlot_integ (n : Nat) (v : SlotSt) : (setSlot s n v).integ = s.integ := rfl
@[simp] theorem setSlot_banks (n : Nat) (v : SlotSt) : (setSlot s n v).banks = s.banks := rfl
@[simp] theorem setSlot_host (n : Nat) (v : SlotSt) : (setSlot s n v).host = s.host := rfl
@[simp] theorem setSlot_parts (n : Nat) (v : SlotSt) : (setSlot s n v).parts = s.parts := rfl
@[simp] theorem setSlot_longs (n : Nat) (v : SlotSt) : (setSlot s n v).longs = s.longs := rfl
@[simp] theorem setSlot_ent (n : Nat) (v : SlotSt) : (setSlot s n v).ent = s.ent := rfl
@[simp] theorem setSlot_anl (n : Nat) (v : SlotSt) : (setSlot s n v).anl = s.anl := rfl
@[simp] theorem setSlot_ses (n : Nat) (v : SlotSt) : (setSlot s n v).ses = s.ses := rfl
@[simp] theorem setSlot_sync (n : Nat) (v : SlotSt) : (setSlot s n v).sync = s.sync := rfl
@[simp] theorem setSlot_vec (n : Nat) (v : SlotSt) : (setSlot s n v).vec = s.vec := rfl
@[simp] theorem setSlot_net (n : Nat) (v : SlotSt) : (setSlot s n v).net = s.net := rfl
@[simp] theorem setSlot_dbg (n : Nat) (v : SlotSt) : (setSlot s n v).dbg = s.dbg := rfl
@[simp] theorem setSlot_fe_queues (n : Nat) (v : SlotSt) : (setSlot s n v).fe.queues = s.fe.queues := rfl
@[simp] theorem setSlot_fe_cqs (n : Nat) (v : SlotSt) : (setSlot s n v).fe.cqs = s.fe.cqs := rfl
@[simp] theorem setSlot_fe_events (n : Nat) (v : SlotSt) : (setSlot s n v).fe.events = s.fe.events := rfl
@[simp] theorem setSlot_fe_waits (n : Nat) (v : SlotSt) : (setSlot s n v).fe.waits = s.fe.waits := rfl
@[simp] theorem setSlot_fe_holds (n : Nat) (v : SlotSt) : (setSlot s n v).fe.holds = s.fe.holds := rfl
@[simp] theorem setSlot_fe_captures (n : Nat) (v : SlotSt) : (setSlot s n v).fe.captures = s.fe.captures := rfl
@[simp] theorem setSlot_fe_captureCount (n : Nat) (v : SlotSt) : (setSlot s n v).fe.captureCount = s.fe.captureCount := rfl
@[simp] theorem setSlot_fe_captureNext (n : Nat) (v : SlotSt) : (setSlot s n v).fe.captureNext = s.fe.captureNext := rfl
@[simp] theorem setSlot_fe_lastQueue (n : Nat) (v : SlotSt) : (setSlot s n v).fe.lastQueue = s.fe.lastQueue := rfl
@[simp] theorem setSlot_fe_lastSeq (n : Nat) (v : SlotSt) : (setSlot s n v).fe.lastSeq = s.fe.lastSeq := rfl
@[simp] theorem setSlot_fe_deadlocks (n : Nat) (v : SlotSt) : (setSlot s n v).fe.deadlocks = s.fe.deadlocks := rfl
@[simp] theorem setSlot_fe_abandoned (n : Nat) (v : SlotSt) : (setSlot s n v).fe.abandoned = s.fe.abandoned := rfl
@[simp] theorem setSlot_fe_rejected (n : Nat) (v : SlotSt) : (setSlot s n v).fe.rejected = s.fe.rejected := rfl
@[simp] theorem setSlot_fe_dispatcher (n : Nat) (v : SlotSt) : (setSlot s n v).fe.dispatcher = s.fe.dispatcher := rfl
@[simp] theorem setSlot_fe_stamp (n : Nat) (v : SlotSt) : (setSlot s n v).fe.stamp = s.fe.stamp := rfl
@[simp] theorem setSlot_fe_heartbeat (n : Nat) (v : SlotSt) : (setSlot s n v).fe.heartbeat = s.fe.heartbeat := rfl
@[simp] theorem setSlot_fe_watchFrom (n : Nat) (v : SlotSt) : (setSlot s n v).fe.watchFrom = s.fe.watchFrom := rfl

/-! ### setCopy -/

@[simp] theorem setCopy_pending (n : Nat) (v : CopyRun) : (setCopy s n v).pending = s.pending := rfl
@[simp] theorem setCopy_fresh (n : Nat) (v : CopyRun) : (setCopy s n v).fresh = s.fresh := rfl
@[simp] theorem setCopy_out (n : Nat) (v : CopyRun) : (setCopy s n v).out = s.out := rfl
@[simp] theorem setCopy_fuse (n : Nat) (v : CopyRun) : (setCopy s n v).fuse = s.fuse := rfl
@[simp] theorem setCopy_power (n : Nat) (v : CopyRun) : (setCopy s n v).power = s.power := rfl
@[simp] theorem setCopy_time (n : Nat) (v : CopyRun) : (setCopy s n v).time = s.time := rfl
@[simp] theorem setCopy_rate (n : Nat) (v : CopyRun) : (setCopy s n v).rate = s.rate := rfl
@[simp] theorem setCopy_image (n : Nat) (v : CopyRun) : (setCopy s n v).image = s.image := rfl
@[simp] theorem setCopy_cfg (n : Nat) (v : CopyRun) : (setCopy s n v).cfg = s.cfg := rfl
@[simp] theorem setCopy_insts (n : Nat) (v : CopyRun) : (setCopy s n v).insts = s.insts := rfl
@[simp] theorem setCopy_err (n : Nat) (v : CopyRun) : (setCopy s n v).err = s.err := rfl
@[simp] theorem setCopy_msg (n : Nat) (v : CopyRun) : (setCopy s n v).msg = s.msg := rfl
@[simp] theorem setCopy_mem (n : Nat) (v : CopyRun) : (setCopy s n v).mem = s.mem := rfl
@[simp] theorem setCopy_integ (n : Nat) (v : CopyRun) : (setCopy s n v).integ = s.integ := rfl
@[simp] theorem setCopy_banks (n : Nat) (v : CopyRun) : (setCopy s n v).banks = s.banks := rfl
@[simp] theorem setCopy_host (n : Nat) (v : CopyRun) : (setCopy s n v).host = s.host := rfl
@[simp] theorem setCopy_parts (n : Nat) (v : CopyRun) : (setCopy s n v).parts = s.parts := rfl
@[simp] theorem setCopy_longs (n : Nat) (v : CopyRun) : (setCopy s n v).longs = s.longs := rfl
@[simp] theorem setCopy_ent (n : Nat) (v : CopyRun) : (setCopy s n v).ent = s.ent := rfl
@[simp] theorem setCopy_anl (n : Nat) (v : CopyRun) : (setCopy s n v).anl = s.anl := rfl
@[simp] theorem setCopy_ses (n : Nat) (v : CopyRun) : (setCopy s n v).ses = s.ses := rfl
@[simp] theorem setCopy_sync (n : Nat) (v : CopyRun) : (setCopy s n v).sync = s.sync := rfl
@[simp] theorem setCopy_vec (n : Nat) (v : CopyRun) : (setCopy s n v).vec = s.vec := rfl
@[simp] theorem setCopy_net (n : Nat) (v : CopyRun) : (setCopy s n v).net = s.net := rfl
@[simp] theorem setCopy_dbg (n : Nat) (v : CopyRun) : (setCopy s n v).dbg = s.dbg := rfl
@[simp] theorem setCopy_fe_queues (n : Nat) (v : CopyRun) : (setCopy s n v).fe.queues = s.fe.queues := rfl
@[simp] theorem setCopy_fe_cqs (n : Nat) (v : CopyRun) : (setCopy s n v).fe.cqs = s.fe.cqs := rfl
@[simp] theorem setCopy_fe_events (n : Nat) (v : CopyRun) : (setCopy s n v).fe.events = s.fe.events := rfl
@[simp] theorem setCopy_fe_waits (n : Nat) (v : CopyRun) : (setCopy s n v).fe.waits = s.fe.waits := rfl
@[simp] theorem setCopy_fe_holds (n : Nat) (v : CopyRun) : (setCopy s n v).fe.holds = s.fe.holds := rfl
@[simp] theorem setCopy_fe_captures (n : Nat) (v : CopyRun) : (setCopy s n v).fe.captures = s.fe.captures := rfl
@[simp] theorem setCopy_fe_captureCount (n : Nat) (v : CopyRun) : (setCopy s n v).fe.captureCount = s.fe.captureCount := rfl
@[simp] theorem setCopy_fe_captureNext (n : Nat) (v : CopyRun) : (setCopy s n v).fe.captureNext = s.fe.captureNext := rfl
@[simp] theorem setCopy_fe_lastQueue (n : Nat) (v : CopyRun) : (setCopy s n v).fe.lastQueue = s.fe.lastQueue := rfl
@[simp] theorem setCopy_fe_lastSeq (n : Nat) (v : CopyRun) : (setCopy s n v).fe.lastSeq = s.fe.lastSeq := rfl
@[simp] theorem setCopy_fe_deadlocks (n : Nat) (v : CopyRun) : (setCopy s n v).fe.deadlocks = s.fe.deadlocks := rfl
@[simp] theorem setCopy_fe_abandoned (n : Nat) (v : CopyRun) : (setCopy s n v).fe.abandoned = s.fe.abandoned := rfl
@[simp] theorem setCopy_fe_rejected (n : Nat) (v : CopyRun) : (setCopy s n v).fe.rejected = s.fe.rejected := rfl
@[simp] theorem setCopy_fe_dispatcher (n : Nat) (v : CopyRun) : (setCopy s n v).fe.dispatcher = s.fe.dispatcher := rfl
@[simp] theorem setCopy_fe_stamp (n : Nat) (v : CopyRun) : (setCopy s n v).fe.stamp = s.fe.stamp := rfl
@[simp] theorem setCopy_fe_heartbeat (n : Nat) (v : CopyRun) : (setCopy s n v).fe.heartbeat = s.fe.heartbeat := rfl
@[simp] theorem setCopy_fe_watchFrom (n : Nat) (v : CopyRun) : (setCopy s n v).fe.watchFrom = s.fe.watchFrom := rfl

/-! ### setCq -/

@[simp] theorem setCq_pending (n : Nat) (v : CqSt) : (setCq s n v).pending = s.pending := rfl
@[simp] theorem setCq_fresh (n : Nat) (v : CqSt) : (setCq s n v).fresh = s.fresh := rfl
@[simp] theorem setCq_out (n : Nat) (v : CqSt) : (setCq s n v).out = s.out := rfl
@[simp] theorem setCq_fuse (n : Nat) (v : CqSt) : (setCq s n v).fuse = s.fuse := rfl
@[simp] theorem setCq_power (n : Nat) (v : CqSt) : (setCq s n v).power = s.power := rfl
@[simp] theorem setCq_time (n : Nat) (v : CqSt) : (setCq s n v).time = s.time := rfl
@[simp] theorem setCq_rate (n : Nat) (v : CqSt) : (setCq s n v).rate = s.rate := rfl
@[simp] theorem setCq_image (n : Nat) (v : CqSt) : (setCq s n v).image = s.image := rfl
@[simp] theorem setCq_cfg (n : Nat) (v : CqSt) : (setCq s n v).cfg = s.cfg := rfl
@[simp] theorem setCq_insts (n : Nat) (v : CqSt) : (setCq s n v).insts = s.insts := rfl
@[simp] theorem setCq_err (n : Nat) (v : CqSt) : (setCq s n v).err = s.err := rfl
@[simp] theorem setCq_msg (n : Nat) (v : CqSt) : (setCq s n v).msg = s.msg := rfl
@[simp] theorem setCq_mem (n : Nat) (v : CqSt) : (setCq s n v).mem = s.mem := rfl
@[simp] theorem setCq_integ (n : Nat) (v : CqSt) : (setCq s n v).integ = s.integ := rfl
@[simp] theorem setCq_banks (n : Nat) (v : CqSt) : (setCq s n v).banks = s.banks := rfl
@[simp] theorem setCq_host (n : Nat) (v : CqSt) : (setCq s n v).host = s.host := rfl
@[simp] theorem setCq_parts (n : Nat) (v : CqSt) : (setCq s n v).parts = s.parts := rfl
@[simp] theorem setCq_longs (n : Nat) (v : CqSt) : (setCq s n v).longs = s.longs := rfl
@[simp] theorem setCq_ent (n : Nat) (v : CqSt) : (setCq s n v).ent = s.ent := rfl
@[simp] theorem setCq_anl (n : Nat) (v : CqSt) : (setCq s n v).anl = s.anl := rfl
@[simp] theorem setCq_ses (n : Nat) (v : CqSt) : (setCq s n v).ses = s.ses := rfl
@[simp] theorem setCq_sync (n : Nat) (v : CqSt) : (setCq s n v).sync = s.sync := rfl
@[simp] theorem setCq_vec (n : Nat) (v : CqSt) : (setCq s n v).vec = s.vec := rfl
@[simp] theorem setCq_net (n : Nat) (v : CqSt) : (setCq s n v).net = s.net := rfl
@[simp] theorem setCq_dbg (n : Nat) (v : CqSt) : (setCq s n v).dbg = s.dbg := rfl
@[simp] theorem setCq_fe_queues (n : Nat) (v : CqSt) : (setCq s n v).fe.queues = s.fe.queues := rfl
@[simp] theorem setCq_fe_slots (n : Nat) (v : CqSt) : (setCq s n v).fe.slots = s.fe.slots := rfl
@[simp] theorem setCq_fe_events (n : Nat) (v : CqSt) : (setCq s n v).fe.events = s.fe.events := rfl
@[simp] theorem setCq_fe_waits (n : Nat) (v : CqSt) : (setCq s n v).fe.waits = s.fe.waits := rfl
@[simp] theorem setCq_fe_holds (n : Nat) (v : CqSt) : (setCq s n v).fe.holds = s.fe.holds := rfl
@[simp] theorem setCq_fe_captures (n : Nat) (v : CqSt) : (setCq s n v).fe.captures = s.fe.captures := rfl
@[simp] theorem setCq_fe_captureCount (n : Nat) (v : CqSt) : (setCq s n v).fe.captureCount = s.fe.captureCount := rfl
@[simp] theorem setCq_fe_captureNext (n : Nat) (v : CqSt) : (setCq s n v).fe.captureNext = s.fe.captureNext := rfl
@[simp] theorem setCq_fe_lastQueue (n : Nat) (v : CqSt) : (setCq s n v).fe.lastQueue = s.fe.lastQueue := rfl
@[simp] theorem setCq_fe_lastSeq (n : Nat) (v : CqSt) : (setCq s n v).fe.lastSeq = s.fe.lastSeq := rfl
@[simp] theorem setCq_fe_deadlocks (n : Nat) (v : CqSt) : (setCq s n v).fe.deadlocks = s.fe.deadlocks := rfl
@[simp] theorem setCq_fe_abandoned (n : Nat) (v : CqSt) : (setCq s n v).fe.abandoned = s.fe.abandoned := rfl
@[simp] theorem setCq_fe_rejected (n : Nat) (v : CqSt) : (setCq s n v).fe.rejected = s.fe.rejected := rfl
@[simp] theorem setCq_fe_dispatcher (n : Nat) (v : CqSt) : (setCq s n v).fe.dispatcher = s.fe.dispatcher := rfl
@[simp] theorem setCq_fe_stamp (n : Nat) (v : CqSt) : (setCq s n v).fe.stamp = s.fe.stamp := rfl
@[simp] theorem setCq_fe_heartbeat (n : Nat) (v : CqSt) : (setCq s n v).fe.heartbeat = s.fe.heartbeat := rfl
@[simp] theorem setCq_fe_watchFrom (n : Nat) (v : CqSt) : (setCq s n v).fe.watchFrom = s.fe.watchFrom := rfl

/-! ### setEvent -/

@[simp] theorem setEvent_pending (n : Nat) (v : BitVec 64) : (setEvent s n v).pending = s.pending := rfl
@[simp] theorem setEvent_fresh (n : Nat) (v : BitVec 64) : (setEvent s n v).fresh = s.fresh := rfl
@[simp] theorem setEvent_out (n : Nat) (v : BitVec 64) : (setEvent s n v).out = s.out := rfl
@[simp] theorem setEvent_fuse (n : Nat) (v : BitVec 64) : (setEvent s n v).fuse = s.fuse := rfl
@[simp] theorem setEvent_power (n : Nat) (v : BitVec 64) : (setEvent s n v).power = s.power := rfl
@[simp] theorem setEvent_time (n : Nat) (v : BitVec 64) : (setEvent s n v).time = s.time := rfl
@[simp] theorem setEvent_rate (n : Nat) (v : BitVec 64) : (setEvent s n v).rate = s.rate := rfl
@[simp] theorem setEvent_image (n : Nat) (v : BitVec 64) : (setEvent s n v).image = s.image := rfl
@[simp] theorem setEvent_cfg (n : Nat) (v : BitVec 64) : (setEvent s n v).cfg = s.cfg := rfl
@[simp] theorem setEvent_insts (n : Nat) (v : BitVec 64) : (setEvent s n v).insts = s.insts := rfl
@[simp] theorem setEvent_err (n : Nat) (v : BitVec 64) : (setEvent s n v).err = s.err := rfl
@[simp] theorem setEvent_msg (n : Nat) (v : BitVec 64) : (setEvent s n v).msg = s.msg := rfl
@[simp] theorem setEvent_mem (n : Nat) (v : BitVec 64) : (setEvent s n v).mem = s.mem := rfl
@[simp] theorem setEvent_integ (n : Nat) (v : BitVec 64) : (setEvent s n v).integ = s.integ := rfl
@[simp] theorem setEvent_banks (n : Nat) (v : BitVec 64) : (setEvent s n v).banks = s.banks := rfl
@[simp] theorem setEvent_host (n : Nat) (v : BitVec 64) : (setEvent s n v).host = s.host := rfl
@[simp] theorem setEvent_parts (n : Nat) (v : BitVec 64) : (setEvent s n v).parts = s.parts := rfl
@[simp] theorem setEvent_longs (n : Nat) (v : BitVec 64) : (setEvent s n v).longs = s.longs := rfl
@[simp] theorem setEvent_ent (n : Nat) (v : BitVec 64) : (setEvent s n v).ent = s.ent := rfl
@[simp] theorem setEvent_anl (n : Nat) (v : BitVec 64) : (setEvent s n v).anl = s.anl := rfl
@[simp] theorem setEvent_ses (n : Nat) (v : BitVec 64) : (setEvent s n v).ses = s.ses := rfl
@[simp] theorem setEvent_sync (n : Nat) (v : BitVec 64) : (setEvent s n v).sync = s.sync := rfl
@[simp] theorem setEvent_vec (n : Nat) (v : BitVec 64) : (setEvent s n v).vec = s.vec := rfl
@[simp] theorem setEvent_net (n : Nat) (v : BitVec 64) : (setEvent s n v).net = s.net := rfl
@[simp] theorem setEvent_dbg (n : Nat) (v : BitVec 64) : (setEvent s n v).dbg = s.dbg := rfl
@[simp] theorem setEvent_fe_queues (n : Nat) (v : BitVec 64) : (setEvent s n v).fe.queues = s.fe.queues := rfl
@[simp] theorem setEvent_fe_slots (n : Nat) (v : BitVec 64) : (setEvent s n v).fe.slots = s.fe.slots := rfl
@[simp] theorem setEvent_fe_cqs (n : Nat) (v : BitVec 64) : (setEvent s n v).fe.cqs = s.fe.cqs := rfl
@[simp] theorem setEvent_fe_waits (n : Nat) (v : BitVec 64) : (setEvent s n v).fe.waits = s.fe.waits := rfl
@[simp] theorem setEvent_fe_holds (n : Nat) (v : BitVec 64) : (setEvent s n v).fe.holds = s.fe.holds := rfl
@[simp] theorem setEvent_fe_captures (n : Nat) (v : BitVec 64) : (setEvent s n v).fe.captures = s.fe.captures := rfl
@[simp] theorem setEvent_fe_captureCount (n : Nat) (v : BitVec 64) : (setEvent s n v).fe.captureCount = s.fe.captureCount := rfl
@[simp] theorem setEvent_fe_captureNext (n : Nat) (v : BitVec 64) : (setEvent s n v).fe.captureNext = s.fe.captureNext := rfl
@[simp] theorem setEvent_fe_lastQueue (n : Nat) (v : BitVec 64) : (setEvent s n v).fe.lastQueue = s.fe.lastQueue := rfl
@[simp] theorem setEvent_fe_lastSeq (n : Nat) (v : BitVec 64) : (setEvent s n v).fe.lastSeq = s.fe.lastSeq := rfl
@[simp] theorem setEvent_fe_deadlocks (n : Nat) (v : BitVec 64) : (setEvent s n v).fe.deadlocks = s.fe.deadlocks := rfl
@[simp] theorem setEvent_fe_abandoned (n : Nat) (v : BitVec 64) : (setEvent s n v).fe.abandoned = s.fe.abandoned := rfl
@[simp] theorem setEvent_fe_rejected (n : Nat) (v : BitVec 64) : (setEvent s n v).fe.rejected = s.fe.rejected := rfl
@[simp] theorem setEvent_fe_dispatcher (n : Nat) (v : BitVec 64) : (setEvent s n v).fe.dispatcher = s.fe.dispatcher := rfl
@[simp] theorem setEvent_fe_stamp (n : Nat) (v : BitVec 64) : (setEvent s n v).fe.stamp = s.fe.stamp := rfl
@[simp] theorem setEvent_fe_heartbeat (n : Nat) (v : BitVec 64) : (setEvent s n v).fe.heartbeat = s.fe.heartbeat := rfl
@[simp] theorem setEvent_fe_watchFrom (n : Nat) (v : BitVec 64) : (setEvent s n v).fe.watchFrom = s.fe.watchFrom := rfl

/-! ### setDieRate -/

@[simp] theorem setDieRate_pending (n : Nat) (v : DieRate) : (setDieRate s n v).pending = s.pending := rfl
@[simp] theorem setDieRate_fresh (n : Nat) (v : DieRate) : (setDieRate s n v).fresh = s.fresh := rfl
@[simp] theorem setDieRate_out (n : Nat) (v : DieRate) : (setDieRate s n v).out = s.out := rfl
@[simp] theorem setDieRate_fuse (n : Nat) (v : DieRate) : (setDieRate s n v).fuse = s.fuse := rfl
@[simp] theorem setDieRate_power (n : Nat) (v : DieRate) : (setDieRate s n v).power = s.power := rfl
@[simp] theorem setDieRate_time (n : Nat) (v : DieRate) : (setDieRate s n v).time = s.time := rfl
@[simp] theorem setDieRate_image (n : Nat) (v : DieRate) : (setDieRate s n v).image = s.image := rfl
@[simp] theorem setDieRate_cfg (n : Nat) (v : DieRate) : (setDieRate s n v).cfg = s.cfg := rfl
@[simp] theorem setDieRate_insts (n : Nat) (v : DieRate) : (setDieRate s n v).insts = s.insts := rfl
@[simp] theorem setDieRate_err (n : Nat) (v : DieRate) : (setDieRate s n v).err = s.err := rfl
@[simp] theorem setDieRate_msg (n : Nat) (v : DieRate) : (setDieRate s n v).msg = s.msg := rfl
@[simp] theorem setDieRate_mem (n : Nat) (v : DieRate) : (setDieRate s n v).mem = s.mem := rfl
@[simp] theorem setDieRate_integ (n : Nat) (v : DieRate) : (setDieRate s n v).integ = s.integ := rfl
@[simp] theorem setDieRate_banks (n : Nat) (v : DieRate) : (setDieRate s n v).banks = s.banks := rfl
@[simp] theorem setDieRate_fe (n : Nat) (v : DieRate) : (setDieRate s n v).fe = s.fe := rfl
@[simp] theorem setDieRate_host (n : Nat) (v : DieRate) : (setDieRate s n v).host = s.host := rfl
@[simp] theorem setDieRate_parts (n : Nat) (v : DieRate) : (setDieRate s n v).parts = s.parts := rfl
@[simp] theorem setDieRate_longs (n : Nat) (v : DieRate) : (setDieRate s n v).longs = s.longs := rfl
@[simp] theorem setDieRate_ent (n : Nat) (v : DieRate) : (setDieRate s n v).ent = s.ent := rfl
@[simp] theorem setDieRate_anl (n : Nat) (v : DieRate) : (setDieRate s n v).anl = s.anl := rfl
@[simp] theorem setDieRate_ses (n : Nat) (v : DieRate) : (setDieRate s n v).ses = s.ses := rfl
@[simp] theorem setDieRate_sync (n : Nat) (v : DieRate) : (setDieRate s n v).sync = s.sync := rfl
@[simp] theorem setDieRate_vec (n : Nat) (v : DieRate) : (setDieRate s n v).vec = s.vec := rfl
@[simp] theorem setDieRate_net (n : Nat) (v : DieRate) : (setDieRate s n v).net = s.net := rfl
@[simp] theorem setDieRate_dbg (n : Nat) (v : DieRate) : (setDieRate s n v).dbg = s.dbg := rfl
@[simp] theorem setDieRate_rate_rate (n : Nat) (v : DieRate) : (setDieRate s n v).rate.rate = s.rate.rate := rfl
@[simp] theorem setDieRate_rate_relocking (n : Nat) (v : DieRate) : (setDieRate s n v).rate.relocking = s.rate.relocking := rfl

/-! ### setDieRepair -/

@[simp] theorem setDieRepair_pending (n : Nat) (v : DieRepair) : (setDieRepair s n v).pending = s.pending := rfl
@[simp] theorem setDieRepair_fresh (n : Nat) (v : DieRepair) : (setDieRepair s n v).fresh = s.fresh := rfl
@[simp] theorem setDieRepair_out (n : Nat) (v : DieRepair) : (setDieRepair s n v).out = s.out := rfl
@[simp] theorem setDieRepair_fuse (n : Nat) (v : DieRepair) : (setDieRepair s n v).fuse = s.fuse := rfl
@[simp] theorem setDieRepair_power (n : Nat) (v : DieRepair) : (setDieRepair s n v).power = s.power := rfl
@[simp] theorem setDieRepair_time (n : Nat) (v : DieRepair) : (setDieRepair s n v).time = s.time := rfl
@[simp] theorem setDieRepair_rate (n : Nat) (v : DieRepair) : (setDieRepair s n v).rate = s.rate := rfl
@[simp] theorem setDieRepair_image (n : Nat) (v : DieRepair) : (setDieRepair s n v).image = s.image := rfl
@[simp] theorem setDieRepair_cfg (n : Nat) (v : DieRepair) : (setDieRepair s n v).cfg = s.cfg := rfl
@[simp] theorem setDieRepair_insts (n : Nat) (v : DieRepair) : (setDieRepair s n v).insts = s.insts := rfl
@[simp] theorem setDieRepair_err (n : Nat) (v : DieRepair) : (setDieRepair s n v).err = s.err := rfl
@[simp] theorem setDieRepair_msg (n : Nat) (v : DieRepair) : (setDieRepair s n v).msg = s.msg := rfl
@[simp] theorem setDieRepair_mem (n : Nat) (v : DieRepair) : (setDieRepair s n v).mem = s.mem := rfl
@[simp] theorem setDieRepair_banks (n : Nat) (v : DieRepair) : (setDieRepair s n v).banks = s.banks := rfl
@[simp] theorem setDieRepair_fe (n : Nat) (v : DieRepair) : (setDieRepair s n v).fe = s.fe := rfl
@[simp] theorem setDieRepair_host (n : Nat) (v : DieRepair) : (setDieRepair s n v).host = s.host := rfl
@[simp] theorem setDieRepair_parts (n : Nat) (v : DieRepair) : (setDieRepair s n v).parts = s.parts := rfl
@[simp] theorem setDieRepair_longs (n : Nat) (v : DieRepair) : (setDieRepair s n v).longs = s.longs := rfl
@[simp] theorem setDieRepair_ent (n : Nat) (v : DieRepair) : (setDieRepair s n v).ent = s.ent := rfl
@[simp] theorem setDieRepair_anl (n : Nat) (v : DieRepair) : (setDieRepair s n v).anl = s.anl := rfl
@[simp] theorem setDieRepair_ses (n : Nat) (v : DieRepair) : (setDieRepair s n v).ses = s.ses := rfl
@[simp] theorem setDieRepair_sync (n : Nat) (v : DieRepair) : (setDieRepair s n v).sync = s.sync := rfl
@[simp] theorem setDieRepair_vec (n : Nat) (v : DieRepair) : (setDieRepair s n v).vec = s.vec := rfl
@[simp] theorem setDieRepair_net (n : Nat) (v : DieRepair) : (setDieRepair s n v).net = s.net := rfl
@[simp] theorem setDieRepair_dbg (n : Nat) (v : DieRepair) : (setDieRepair s n v).dbg = s.dbg := rfl
@[simp] theorem setDieRepair_integ_ecc (n : Nat) (v : DieRepair) : (setDieRepair s n v).integ.ecc = s.integ.ecc := rfl
@[simp] theorem setDieRepair_integ_uncorrectable (n : Nat) (v : DieRepair) : (setDieRepair s n v).integ.uncorrectable = s.integ.uncorrectable := rfl
@[simp] theorem setDieRepair_integ_hbmCorrected (n : Nat) (v : DieRepair) : (setDieRepair s n v).integ.hbmCorrected = s.integ.hbmCorrected := rfl
@[simp] theorem setDieRepair_integ_sramCorrected (n : Nat) (v : DieRepair) : (setDieRepair s n v).integ.sramCorrected = s.integ.sramCorrected := rfl
@[simp] theorem setDieRepair_integ_scratchCorrected (n : Nat) (v : DieRepair) : (setDieRepair s n v).integ.scratchCorrected = s.integ.scratchCorrected := rfl
@[simp] theorem setDieRepair_integ_consumed (n : Nat) (v : DieRepair) : (setDieRepair s n v).integ.consumed = s.integ.consumed := rfl
@[simp] theorem setDieRepair_integ_moved (n : Nat) (v : DieRepair) : (setDieRepair s n v).integ.moved = s.integ.moved := rfl
@[simp] theorem setDieRepair_integ_stacks (n : Nat) (v : DieRepair) : (setDieRepair s n v).integ.stackCtrs = s.integ.stackCtrs := rfl
@[simp] theorem setDieRepair_integ_badCheckers (n : Nat) (v : DieRepair) : (setDieRepair s n v).integ.badCheckers = s.integ.badCheckers := rfl
@[simp] theorem setDieRepair_integ_seen (n : Nat) (v : DieRepair) : (setDieRepair s n v).integ.seen = s.integ.seen := rfl

/-! ### setStack -/

@[simp] theorem setStack_pending (n : Nat) (v : StackCtr) : (setStack s n v).pending = s.pending := rfl
@[simp] theorem setStack_fresh (n : Nat) (v : StackCtr) : (setStack s n v).fresh = s.fresh := rfl
@[simp] theorem setStack_out (n : Nat) (v : StackCtr) : (setStack s n v).out = s.out := rfl
@[simp] theorem setStack_fuse (n : Nat) (v : StackCtr) : (setStack s n v).fuse = s.fuse := rfl
@[simp] theorem setStack_power (n : Nat) (v : StackCtr) : (setStack s n v).power = s.power := rfl
@[simp] theorem setStack_time (n : Nat) (v : StackCtr) : (setStack s n v).time = s.time := rfl
@[simp] theorem setStack_rate (n : Nat) (v : StackCtr) : (setStack s n v).rate = s.rate := rfl
@[simp] theorem setStack_image (n : Nat) (v : StackCtr) : (setStack s n v).image = s.image := rfl
@[simp] theorem setStack_cfg (n : Nat) (v : StackCtr) : (setStack s n v).cfg = s.cfg := rfl
@[simp] theorem setStack_insts (n : Nat) (v : StackCtr) : (setStack s n v).insts = s.insts := rfl
@[simp] theorem setStack_err (n : Nat) (v : StackCtr) : (setStack s n v).err = s.err := rfl
@[simp] theorem setStack_msg (n : Nat) (v : StackCtr) : (setStack s n v).msg = s.msg := rfl
@[simp] theorem setStack_mem (n : Nat) (v : StackCtr) : (setStack s n v).mem = s.mem := rfl
@[simp] theorem setStack_banks (n : Nat) (v : StackCtr) : (setStack s n v).banks = s.banks := rfl
@[simp] theorem setStack_fe (n : Nat) (v : StackCtr) : (setStack s n v).fe = s.fe := rfl
@[simp] theorem setStack_host (n : Nat) (v : StackCtr) : (setStack s n v).host = s.host := rfl
@[simp] theorem setStack_parts (n : Nat) (v : StackCtr) : (setStack s n v).parts = s.parts := rfl
@[simp] theorem setStack_longs (n : Nat) (v : StackCtr) : (setStack s n v).longs = s.longs := rfl
@[simp] theorem setStack_ent (n : Nat) (v : StackCtr) : (setStack s n v).ent = s.ent := rfl
@[simp] theorem setStack_anl (n : Nat) (v : StackCtr) : (setStack s n v).anl = s.anl := rfl
@[simp] theorem setStack_ses (n : Nat) (v : StackCtr) : (setStack s n v).ses = s.ses := rfl
@[simp] theorem setStack_sync (n : Nat) (v : StackCtr) : (setStack s n v).sync = s.sync := rfl
@[simp] theorem setStack_vec (n : Nat) (v : StackCtr) : (setStack s n v).vec = s.vec := rfl
@[simp] theorem setStack_net (n : Nat) (v : StackCtr) : (setStack s n v).net = s.net := rfl
@[simp] theorem setStack_dbg (n : Nat) (v : StackCtr) : (setStack s n v).dbg = s.dbg := rfl
@[simp] theorem setStack_integ_ecc (n : Nat) (v : StackCtr) : (setStack s n v).integ.ecc = s.integ.ecc := rfl
@[simp] theorem setStack_integ_uncorrectable (n : Nat) (v : StackCtr) : (setStack s n v).integ.uncorrectable = s.integ.uncorrectable := rfl
@[simp] theorem setStack_integ_hbmCorrected (n : Nat) (v : StackCtr) : (setStack s n v).integ.hbmCorrected = s.integ.hbmCorrected := rfl
@[simp] theorem setStack_integ_sramCorrected (n : Nat) (v : StackCtr) : (setStack s n v).integ.sramCorrected = s.integ.sramCorrected := rfl
@[simp] theorem setStack_integ_scratchCorrected (n : Nat) (v : StackCtr) : (setStack s n v).integ.scratchCorrected = s.integ.scratchCorrected := rfl
@[simp] theorem setStack_integ_consumed (n : Nat) (v : StackCtr) : (setStack s n v).integ.consumed = s.integ.consumed := rfl
@[simp] theorem setStack_integ_moved (n : Nat) (v : StackCtr) : (setStack s n v).integ.moved = s.integ.moved := rfl
@[simp] theorem setStack_integ_dies (n : Nat) (v : StackCtr) : (setStack s n v).integ.dies = s.integ.dies := rfl
@[simp] theorem setStack_integ_badCheckers (n : Nat) (v : StackCtr) : (setStack s n v).integ.badCheckers = s.integ.badCheckers := rfl
@[simp] theorem setStack_integ_seen (n : Nat) (v : StackCtr) : (setStack s n v).integ.seen = s.integ.seen := rfl

/-! ### setEcc -/

@[simp] theorem setEcc_pending (n : Nat) (v : EccCell) : (setEcc s n v).pending = s.pending := rfl
@[simp] theorem setEcc_fresh (n : Nat) (v : EccCell) : (setEcc s n v).fresh = s.fresh := rfl
@[simp] theorem setEcc_out (n : Nat) (v : EccCell) : (setEcc s n v).out = s.out := rfl
@[simp] theorem setEcc_fuse (n : Nat) (v : EccCell) : (setEcc s n v).fuse = s.fuse := rfl
@[simp] theorem setEcc_power (n : Nat) (v : EccCell) : (setEcc s n v).power = s.power := rfl
@[simp] theorem setEcc_time (n : Nat) (v : EccCell) : (setEcc s n v).time = s.time := rfl
@[simp] theorem setEcc_rate (n : Nat) (v : EccCell) : (setEcc s n v).rate = s.rate := rfl
@[simp] theorem setEcc_image (n : Nat) (v : EccCell) : (setEcc s n v).image = s.image := rfl
@[simp] theorem setEcc_cfg (n : Nat) (v : EccCell) : (setEcc s n v).cfg = s.cfg := rfl
@[simp] theorem setEcc_insts (n : Nat) (v : EccCell) : (setEcc s n v).insts = s.insts := rfl
@[simp] theorem setEcc_err (n : Nat) (v : EccCell) : (setEcc s n v).err = s.err := rfl
@[simp] theorem setEcc_msg (n : Nat) (v : EccCell) : (setEcc s n v).msg = s.msg := rfl
@[simp] theorem setEcc_mem (n : Nat) (v : EccCell) : (setEcc s n v).mem = s.mem := rfl
@[simp] theorem setEcc_banks (n : Nat) (v : EccCell) : (setEcc s n v).banks = s.banks := rfl
@[simp] theorem setEcc_fe (n : Nat) (v : EccCell) : (setEcc s n v).fe = s.fe := rfl
@[simp] theorem setEcc_host (n : Nat) (v : EccCell) : (setEcc s n v).host = s.host := rfl
@[simp] theorem setEcc_parts (n : Nat) (v : EccCell) : (setEcc s n v).parts = s.parts := rfl
@[simp] theorem setEcc_longs (n : Nat) (v : EccCell) : (setEcc s n v).longs = s.longs := rfl
@[simp] theorem setEcc_ent (n : Nat) (v : EccCell) : (setEcc s n v).ent = s.ent := rfl
@[simp] theorem setEcc_anl (n : Nat) (v : EccCell) : (setEcc s n v).anl = s.anl := rfl
@[simp] theorem setEcc_ses (n : Nat) (v : EccCell) : (setEcc s n v).ses = s.ses := rfl
@[simp] theorem setEcc_sync (n : Nat) (v : EccCell) : (setEcc s n v).sync = s.sync := rfl
@[simp] theorem setEcc_vec (n : Nat) (v : EccCell) : (setEcc s n v).vec = s.vec := rfl
@[simp] theorem setEcc_net (n : Nat) (v : EccCell) : (setEcc s n v).net = s.net := rfl
@[simp] theorem setEcc_dbg (n : Nat) (v : EccCell) : (setEcc s n v).dbg = s.dbg := rfl
@[simp] theorem setEcc_integ_uncorrectable (n : Nat) (v : EccCell) : (setEcc s n v).integ.uncorrectable = s.integ.uncorrectable := rfl
@[simp] theorem setEcc_integ_hbmCorrected (n : Nat) (v : EccCell) : (setEcc s n v).integ.hbmCorrected = s.integ.hbmCorrected := rfl
@[simp] theorem setEcc_integ_sramCorrected (n : Nat) (v : EccCell) : (setEcc s n v).integ.sramCorrected = s.integ.sramCorrected := rfl
@[simp] theorem setEcc_integ_scratchCorrected (n : Nat) (v : EccCell) : (setEcc s n v).integ.scratchCorrected = s.integ.scratchCorrected := rfl
@[simp] theorem setEcc_integ_consumed (n : Nat) (v : EccCell) : (setEcc s n v).integ.consumed = s.integ.consumed := rfl
@[simp] theorem setEcc_integ_moved (n : Nat) (v : EccCell) : (setEcc s n v).integ.moved = s.integ.moved := rfl
@[simp] theorem setEcc_integ_stacks (n : Nat) (v : EccCell) : (setEcc s n v).integ.stackCtrs = s.integ.stackCtrs := rfl
@[simp] theorem setEcc_integ_dies (n : Nat) (v : EccCell) : (setEcc s n v).integ.dies = s.integ.dies := rfl
@[simp] theorem setEcc_integ_badCheckers (n : Nat) (v : EccCell) : (setEcc s n v).integ.badCheckers = s.integ.badCheckers := rfl
@[simp] theorem setEcc_integ_seen (n : Nat) (v : EccCell) : (setEcc s n v).integ.seen = s.integ.seen := rfl

/-! ### setKeySlot -/

@[simp] theorem setKeySlot_pending (n : Nat) (v : KeySlot) : (setKeySlot s n v).pending = s.pending := rfl
@[simp] theorem setKeySlot_fresh (n : Nat) (v : KeySlot) : (setKeySlot s n v).fresh = s.fresh := rfl
@[simp] theorem setKeySlot_out (n : Nat) (v : KeySlot) : (setKeySlot s n v).out = s.out := rfl
@[simp] theorem setKeySlot_power (n : Nat) (v : KeySlot) : (setKeySlot s n v).power = s.power := rfl
@[simp] theorem setKeySlot_time (n : Nat) (v : KeySlot) : (setKeySlot s n v).time = s.time := rfl
@[simp] theorem setKeySlot_rate (n : Nat) (v : KeySlot) : (setKeySlot s n v).rate = s.rate := rfl
@[simp] theorem setKeySlot_image (n : Nat) (v : KeySlot) : (setKeySlot s n v).image = s.image := rfl
@[simp] theorem setKeySlot_cfg (n : Nat) (v : KeySlot) : (setKeySlot s n v).cfg = s.cfg := rfl
@[simp] theorem setKeySlot_insts (n : Nat) (v : KeySlot) : (setKeySlot s n v).insts = s.insts := rfl
@[simp] theorem setKeySlot_err (n : Nat) (v : KeySlot) : (setKeySlot s n v).err = s.err := rfl
@[simp] theorem setKeySlot_msg (n : Nat) (v : KeySlot) : (setKeySlot s n v).msg = s.msg := rfl
@[simp] theorem setKeySlot_mem (n : Nat) (v : KeySlot) : (setKeySlot s n v).mem = s.mem := rfl
@[simp] theorem setKeySlot_integ (n : Nat) (v : KeySlot) : (setKeySlot s n v).integ = s.integ := rfl
@[simp] theorem setKeySlot_banks (n : Nat) (v : KeySlot) : (setKeySlot s n v).banks = s.banks := rfl
@[simp] theorem setKeySlot_fe (n : Nat) (v : KeySlot) : (setKeySlot s n v).fe = s.fe := rfl
@[simp] theorem setKeySlot_host (n : Nat) (v : KeySlot) : (setKeySlot s n v).host = s.host := rfl
@[simp] theorem setKeySlot_parts (n : Nat) (v : KeySlot) : (setKeySlot s n v).parts = s.parts := rfl
@[simp] theorem setKeySlot_longs (n : Nat) (v : KeySlot) : (setKeySlot s n v).longs = s.longs := rfl
@[simp] theorem setKeySlot_ent (n : Nat) (v : KeySlot) : (setKeySlot s n v).ent = s.ent := rfl
@[simp] theorem setKeySlot_anl (n : Nat) (v : KeySlot) : (setKeySlot s n v).anl = s.anl := rfl
@[simp] theorem setKeySlot_ses (n : Nat) (v : KeySlot) : (setKeySlot s n v).ses = s.ses := rfl
@[simp] theorem setKeySlot_sync (n : Nat) (v : KeySlot) : (setKeySlot s n v).sync = s.sync := rfl
@[simp] theorem setKeySlot_vec (n : Nat) (v : KeySlot) : (setKeySlot s n v).vec = s.vec := rfl
@[simp] theorem setKeySlot_net (n : Nat) (v : KeySlot) : (setKeySlot s n v).net = s.net := rfl
@[simp] theorem setKeySlot_dbg (n : Nat) (v : KeySlot) : (setKeySlot s n v).dbg = s.dbg := rfl
@[simp] theorem setKeySlot_fuse_grade (n : Nat) (v : KeySlot) : (setKeySlot s n v).fuse.grade = s.fuse.grade := rfl
@[simp] theorem setKeySlot_fuse_stepping (n : Nat) (v : KeySlot) : (setKeySlot s n v).fuse.stepping = s.fuse.stepping := rfl
@[simp] theorem setKeySlot_fuse_rows (n : Nat) (v : KeySlot) : (setKeySlot s n v).fuse.rows = s.fuse.rows := rfl
@[simp] theorem setKeySlot_fuse_entFused (n : Nat) (v : KeySlot) : (setKeySlot s n v).fuse.entFused = s.fuse.entFused := rfl
@[simp] theorem setKeySlot_fuse_entGood (n : Nat) (v : KeySlot) : (setKeySlot s n v).fuse.entGood = s.fuse.entGood := rfl
@[simp] theorem setKeySlot_fuse_dispFused (n : Nat) (v : KeySlot) : (setKeySlot s n v).fuse.dispFused = s.fuse.dispFused := rfl
@[simp] theorem setKeySlot_fuse_dispGood (n : Nat) (v : KeySlot) : (setKeySlot s n v).fuse.dispGood = s.fuse.dispGood := rfl
@[simp] theorem setKeySlot_fuse_minSvn (n : Nat) (v : KeySlot) : (setKeySlot s n v).fuse.minSvn = s.fuse.minSvn := rfl

/-! ### setRowMap -/

@[simp] theorem setRowMap_pending (n : Nat) (v : RowMap) : (setRowMap s n v).pending = s.pending := rfl
@[simp] theorem setRowMap_fresh (n : Nat) (v : RowMap) : (setRowMap s n v).fresh = s.fresh := rfl
@[simp] theorem setRowMap_out (n : Nat) (v : RowMap) : (setRowMap s n v).out = s.out := rfl
@[simp] theorem setRowMap_power (n : Nat) (v : RowMap) : (setRowMap s n v).power = s.power := rfl
@[simp] theorem setRowMap_time (n : Nat) (v : RowMap) : (setRowMap s n v).time = s.time := rfl
@[simp] theorem setRowMap_rate (n : Nat) (v : RowMap) : (setRowMap s n v).rate = s.rate := rfl
@[simp] theorem setRowMap_image (n : Nat) (v : RowMap) : (setRowMap s n v).image = s.image := rfl
@[simp] theorem setRowMap_cfg (n : Nat) (v : RowMap) : (setRowMap s n v).cfg = s.cfg := rfl
@[simp] theorem setRowMap_insts (n : Nat) (v : RowMap) : (setRowMap s n v).insts = s.insts := rfl
@[simp] theorem setRowMap_err (n : Nat) (v : RowMap) : (setRowMap s n v).err = s.err := rfl
@[simp] theorem setRowMap_msg (n : Nat) (v : RowMap) : (setRowMap s n v).msg = s.msg := rfl
@[simp] theorem setRowMap_mem (n : Nat) (v : RowMap) : (setRowMap s n v).mem = s.mem := rfl
@[simp] theorem setRowMap_integ (n : Nat) (v : RowMap) : (setRowMap s n v).integ = s.integ := rfl
@[simp] theorem setRowMap_banks (n : Nat) (v : RowMap) : (setRowMap s n v).banks = s.banks := rfl
@[simp] theorem setRowMap_fe (n : Nat) (v : RowMap) : (setRowMap s n v).fe = s.fe := rfl
@[simp] theorem setRowMap_host (n : Nat) (v : RowMap) : (setRowMap s n v).host = s.host := rfl
@[simp] theorem setRowMap_parts (n : Nat) (v : RowMap) : (setRowMap s n v).parts = s.parts := rfl
@[simp] theorem setRowMap_longs (n : Nat) (v : RowMap) : (setRowMap s n v).longs = s.longs := rfl
@[simp] theorem setRowMap_ent (n : Nat) (v : RowMap) : (setRowMap s n v).ent = s.ent := rfl
@[simp] theorem setRowMap_anl (n : Nat) (v : RowMap) : (setRowMap s n v).anl = s.anl := rfl
@[simp] theorem setRowMap_ses (n : Nat) (v : RowMap) : (setRowMap s n v).ses = s.ses := rfl
@[simp] theorem setRowMap_sync (n : Nat) (v : RowMap) : (setRowMap s n v).sync = s.sync := rfl
@[simp] theorem setRowMap_vec (n : Nat) (v : RowMap) : (setRowMap s n v).vec = s.vec := rfl
@[simp] theorem setRowMap_net (n : Nat) (v : RowMap) : (setRowMap s n v).net = s.net := rfl
@[simp] theorem setRowMap_dbg (n : Nat) (v : RowMap) : (setRowMap s n v).dbg = s.dbg := rfl
@[simp] theorem setRowMap_fuse_grade (n : Nat) (v : RowMap) : (setRowMap s n v).fuse.grade = s.fuse.grade := rfl
@[simp] theorem setRowMap_fuse_stepping (n : Nat) (v : RowMap) : (setRowMap s n v).fuse.stepping = s.fuse.stepping := rfl
@[simp] theorem setRowMap_fuse_entFused (n : Nat) (v : RowMap) : (setRowMap s n v).fuse.entFused = s.fuse.entFused := rfl
@[simp] theorem setRowMap_fuse_entGood (n : Nat) (v : RowMap) : (setRowMap s n v).fuse.entGood = s.fuse.entGood := rfl
@[simp] theorem setRowMap_fuse_dispFused (n : Nat) (v : RowMap) : (setRowMap s n v).fuse.dispFused = s.fuse.dispFused := rfl
@[simp] theorem setRowMap_fuse_dispGood (n : Nat) (v : RowMap) : (setRowMap s n v).fuse.dispGood = s.fuse.dispGood := rfl
@[simp] theorem setRowMap_fuse_slots (n : Nat) (v : RowMap) : (setRowMap s n v).fuse.slots = s.fuse.slots := rfl
@[simp] theorem setRowMap_fuse_minSvn (n : Nat) (v : RowMap) : (setRowMap s n v).fuse.minSvn = s.fuse.minSvn := rfl

/-! ### setLink -/

@[simp] theorem setLink_pending (n : Nat) (v : LinkSt) : (setLink s n v).pending = s.pending := rfl
@[simp] theorem setLink_fresh (n : Nat) (v : LinkSt) : (setLink s n v).fresh = s.fresh := rfl
@[simp] theorem setLink_out (n : Nat) (v : LinkSt) : (setLink s n v).out = s.out := rfl
@[simp] theorem setLink_fuse (n : Nat) (v : LinkSt) : (setLink s n v).fuse = s.fuse := rfl
@[simp] theorem setLink_power (n : Nat) (v : LinkSt) : (setLink s n v).power = s.power := rfl
@[simp] theorem setLink_time (n : Nat) (v : LinkSt) : (setLink s n v).time = s.time := rfl
@[simp] theorem setLink_rate (n : Nat) (v : LinkSt) : (setLink s n v).rate = s.rate := rfl
@[simp] theorem setLink_image (n : Nat) (v : LinkSt) : (setLink s n v).image = s.image := rfl
@[simp] theorem setLink_cfg (n : Nat) (v : LinkSt) : (setLink s n v).cfg = s.cfg := rfl
@[simp] theorem setLink_insts (n : Nat) (v : LinkSt) : (setLink s n v).insts = s.insts := rfl
@[simp] theorem setLink_err (n : Nat) (v : LinkSt) : (setLink s n v).err = s.err := rfl
@[simp] theorem setLink_msg (n : Nat) (v : LinkSt) : (setLink s n v).msg = s.msg := rfl
@[simp] theorem setLink_mem (n : Nat) (v : LinkSt) : (setLink s n v).mem = s.mem := rfl
@[simp] theorem setLink_integ (n : Nat) (v : LinkSt) : (setLink s n v).integ = s.integ := rfl
@[simp] theorem setLink_banks (n : Nat) (v : LinkSt) : (setLink s n v).banks = s.banks := rfl
@[simp] theorem setLink_fe (n : Nat) (v : LinkSt) : (setLink s n v).fe = s.fe := rfl
@[simp] theorem setLink_host (n : Nat) (v : LinkSt) : (setLink s n v).host = s.host := rfl
@[simp] theorem setLink_parts (n : Nat) (v : LinkSt) : (setLink s n v).parts = s.parts := rfl
@[simp] theorem setLink_longs (n : Nat) (v : LinkSt) : (setLink s n v).longs = s.longs := rfl
@[simp] theorem setLink_ent (n : Nat) (v : LinkSt) : (setLink s n v).ent = s.ent := rfl
@[simp] theorem setLink_anl (n : Nat) (v : LinkSt) : (setLink s n v).anl = s.anl := rfl
@[simp] theorem setLink_ses (n : Nat) (v : LinkSt) : (setLink s n v).ses = s.ses := rfl
@[simp] theorem setLink_sync (n : Nat) (v : LinkSt) : (setLink s n v).sync = s.sync := rfl
@[simp] theorem setLink_vec (n : Nat) (v : LinkSt) : (setLink s n v).vec = s.vec := rfl
@[simp] theorem setLink_dbg (n : Nat) (v : LinkSt) : (setLink s n v).dbg = s.dbg := rfl
@[simp] theorem setLink_net_tx (n : Nat) (v : LinkSt) : (setLink s n v).net.tx = s.net.tx := rfl
@[simp] theorem setLink_net_rx (n : Nat) (v : LinkSt) : (setLink s n v).net.rx = s.net.rx := rfl
@[simp] theorem setLink_net_held (n : Nat) (v : LinkSt) : (setLink s n v).net.held = s.net.held := rfl
@[simp] theorem setLink_net_routeLost (n : Nat) (v : LinkSt) : (setLink s n v).net.routeLost = s.net.routeLost := rfl
@[simp] theorem setLink_net_mcast (n : Nat) (v : LinkSt) : (setLink s n v).net.mcast = s.net.mcast := rfl
@[simp] theorem setLink_net_buffers (n : Nat) (v : LinkSt) : (setLink s n v).net.buffers = s.net.buffers := rfl
@[simp] theorem setLink_net_reserves (n : Nat) (v : LinkSt) : (setLink s n v).net.reserves = s.net.reserves := rfl
@[simp] theorem setLink_net_nextId (n : Nat) (v : LinkSt) : (setLink s n v).net.nextId = s.net.nextId := rfl
@[simp] theorem setLink_net_groups (n : Nat) (v : LinkSt) : (setLink s n v).net.groups = s.net.groups := rfl
@[simp] theorem setLink_net_prbs (n : Nat) (v : LinkSt) : (setLink s n v).net.prbs = s.net.prbs := rfl

/-! ### setMcastCtr -/

@[simp] theorem setMcastCtr_pending (n : Nat) (v : McastCtr) : (setMcastCtr s n v).pending = s.pending := rfl
@[simp] theorem setMcastCtr_fresh (n : Nat) (v : McastCtr) : (setMcastCtr s n v).fresh = s.fresh := rfl
@[simp] theorem setMcastCtr_out (n : Nat) (v : McastCtr) : (setMcastCtr s n v).out = s.out := rfl
@[simp] theorem setMcastCtr_fuse (n : Nat) (v : McastCtr) : (setMcastCtr s n v).fuse = s.fuse := rfl
@[simp] theorem setMcastCtr_power (n : Nat) (v : McastCtr) : (setMcastCtr s n v).power = s.power := rfl
@[simp] theorem setMcastCtr_time (n : Nat) (v : McastCtr) : (setMcastCtr s n v).time = s.time := rfl
@[simp] theorem setMcastCtr_rate (n : Nat) (v : McastCtr) : (setMcastCtr s n v).rate = s.rate := rfl
@[simp] theorem setMcastCtr_image (n : Nat) (v : McastCtr) : (setMcastCtr s n v).image = s.image := rfl
@[simp] theorem setMcastCtr_cfg (n : Nat) (v : McastCtr) : (setMcastCtr s n v).cfg = s.cfg := rfl
@[simp] theorem setMcastCtr_insts (n : Nat) (v : McastCtr) : (setMcastCtr s n v).insts = s.insts := rfl
@[simp] theorem setMcastCtr_err (n : Nat) (v : McastCtr) : (setMcastCtr s n v).err = s.err := rfl
@[simp] theorem setMcastCtr_msg (n : Nat) (v : McastCtr) : (setMcastCtr s n v).msg = s.msg := rfl
@[simp] theorem setMcastCtr_mem (n : Nat) (v : McastCtr) : (setMcastCtr s n v).mem = s.mem := rfl
@[simp] theorem setMcastCtr_integ (n : Nat) (v : McastCtr) : (setMcastCtr s n v).integ = s.integ := rfl
@[simp] theorem setMcastCtr_banks (n : Nat) (v : McastCtr) : (setMcastCtr s n v).banks = s.banks := rfl
@[simp] theorem setMcastCtr_fe (n : Nat) (v : McastCtr) : (setMcastCtr s n v).fe = s.fe := rfl
@[simp] theorem setMcastCtr_host (n : Nat) (v : McastCtr) : (setMcastCtr s n v).host = s.host := rfl
@[simp] theorem setMcastCtr_parts (n : Nat) (v : McastCtr) : (setMcastCtr s n v).parts = s.parts := rfl
@[simp] theorem setMcastCtr_longs (n : Nat) (v : McastCtr) : (setMcastCtr s n v).longs = s.longs := rfl
@[simp] theorem setMcastCtr_ent (n : Nat) (v : McastCtr) : (setMcastCtr s n v).ent = s.ent := rfl
@[simp] theorem setMcastCtr_anl (n : Nat) (v : McastCtr) : (setMcastCtr s n v).anl = s.anl := rfl
@[simp] theorem setMcastCtr_ses (n : Nat) (v : McastCtr) : (setMcastCtr s n v).ses = s.ses := rfl
@[simp] theorem setMcastCtr_sync (n : Nat) (v : McastCtr) : (setMcastCtr s n v).sync = s.sync := rfl
@[simp] theorem setMcastCtr_vec (n : Nat) (v : McastCtr) : (setMcastCtr s n v).vec = s.vec := rfl
@[simp] theorem setMcastCtr_dbg (n : Nat) (v : McastCtr) : (setMcastCtr s n v).dbg = s.dbg := rfl
@[simp] theorem setMcastCtr_net_links (n : Nat) (v : McastCtr) : (setMcastCtr s n v).net.links = s.net.links := rfl
@[simp] theorem setMcastCtr_net_tx (n : Nat) (v : McastCtr) : (setMcastCtr s n v).net.tx = s.net.tx := rfl
@[simp] theorem setMcastCtr_net_rx (n : Nat) (v : McastCtr) : (setMcastCtr s n v).net.rx = s.net.rx := rfl
@[simp] theorem setMcastCtr_net_held (n : Nat) (v : McastCtr) : (setMcastCtr s n v).net.held = s.net.held := rfl
@[simp] theorem setMcastCtr_net_routeLost (n : Nat) (v : McastCtr) : (setMcastCtr s n v).net.routeLost = s.net.routeLost := rfl
@[simp] theorem setMcastCtr_net_mcast (n : Nat) (v : McastCtr) : (setMcastCtr s n v).net.mcast = s.net.mcast := rfl
@[simp] theorem setMcastCtr_net_buffers (n : Nat) (v : McastCtr) : (setMcastCtr s n v).net.buffers = s.net.buffers := rfl
@[simp] theorem setMcastCtr_net_reserves (n : Nat) (v : McastCtr) : (setMcastCtr s n v).net.reserves = s.net.reserves := rfl
@[simp] theorem setMcastCtr_net_nextId (n : Nat) (v : McastCtr) : (setMcastCtr s n v).net.nextId = s.net.nextId := rfl
@[simp] theorem setMcastCtr_net_prbs (n : Nat) (v : McastCtr) : (setMcastCtr s n v).net.prbs = s.net.prbs := rfl

/-! ### setPairRx -/

@[simp] theorem setPairRx_pending (n : Nat) (v : PairRx) : (setPairRx s n v).pending = s.pending := rfl
@[simp] theorem setPairRx_fresh (n : Nat) (v : PairRx) : (setPairRx s n v).fresh = s.fresh := rfl
@[simp] theorem setPairRx_out (n : Nat) (v : PairRx) : (setPairRx s n v).out = s.out := rfl
@[simp] theorem setPairRx_fuse (n : Nat) (v : PairRx) : (setPairRx s n v).fuse = s.fuse := rfl
@[simp] theorem setPairRx_power (n : Nat) (v : PairRx) : (setPairRx s n v).power = s.power := rfl
@[simp] theorem setPairRx_time (n : Nat) (v : PairRx) : (setPairRx s n v).time = s.time := rfl
@[simp] theorem setPairRx_rate (n : Nat) (v : PairRx) : (setPairRx s n v).rate = s.rate := rfl
@[simp] theorem setPairRx_image (n : Nat) (v : PairRx) : (setPairRx s n v).image = s.image := rfl
@[simp] theorem setPairRx_cfg (n : Nat) (v : PairRx) : (setPairRx s n v).cfg = s.cfg := rfl
@[simp] theorem setPairRx_insts (n : Nat) (v : PairRx) : (setPairRx s n v).insts = s.insts := rfl
@[simp] theorem setPairRx_err (n : Nat) (v : PairRx) : (setPairRx s n v).err = s.err := rfl
@[simp] theorem setPairRx_msg (n : Nat) (v : PairRx) : (setPairRx s n v).msg = s.msg := rfl
@[simp] theorem setPairRx_mem (n : Nat) (v : PairRx) : (setPairRx s n v).mem = s.mem := rfl
@[simp] theorem setPairRx_integ (n : Nat) (v : PairRx) : (setPairRx s n v).integ = s.integ := rfl
@[simp] theorem setPairRx_banks (n : Nat) (v : PairRx) : (setPairRx s n v).banks = s.banks := rfl
@[simp] theorem setPairRx_fe (n : Nat) (v : PairRx) : (setPairRx s n v).fe = s.fe := rfl
@[simp] theorem setPairRx_host (n : Nat) (v : PairRx) : (setPairRx s n v).host = s.host := rfl
@[simp] theorem setPairRx_parts (n : Nat) (v : PairRx) : (setPairRx s n v).parts = s.parts := rfl
@[simp] theorem setPairRx_longs (n : Nat) (v : PairRx) : (setPairRx s n v).longs = s.longs := rfl
@[simp] theorem setPairRx_ent (n : Nat) (v : PairRx) : (setPairRx s n v).ent = s.ent := rfl
@[simp] theorem setPairRx_anl (n : Nat) (v : PairRx) : (setPairRx s n v).anl = s.anl := rfl
@[simp] theorem setPairRx_ses (n : Nat) (v : PairRx) : (setPairRx s n v).ses = s.ses := rfl
@[simp] theorem setPairRx_sync (n : Nat) (v : PairRx) : (setPairRx s n v).sync = s.sync := rfl
@[simp] theorem setPairRx_vec (n : Nat) (v : PairRx) : (setPairRx s n v).vec = s.vec := rfl
@[simp] theorem setPairRx_dbg (n : Nat) (v : PairRx) : (setPairRx s n v).dbg = s.dbg := rfl
@[simp] theorem setPairRx_net_links (n : Nat) (v : PairRx) : (setPairRx s n v).net.links = s.net.links := rfl
@[simp] theorem setPairRx_net_tx (n : Nat) (v : PairRx) : (setPairRx s n v).net.tx = s.net.tx := rfl
@[simp] theorem setPairRx_net_held (n : Nat) (v : PairRx) : (setPairRx s n v).net.held = s.net.held := rfl
@[simp] theorem setPairRx_net_routeLost (n : Nat) (v : PairRx) : (setPairRx s n v).net.routeLost = s.net.routeLost := rfl
@[simp] theorem setPairRx_net_mcast (n : Nat) (v : PairRx) : (setPairRx s n v).net.mcast = s.net.mcast := rfl
@[simp] theorem setPairRx_net_buffers (n : Nat) (v : PairRx) : (setPairRx s n v).net.buffers = s.net.buffers := rfl
@[simp] theorem setPairRx_net_reserves (n : Nat) (v : PairRx) : (setPairRx s n v).net.reserves = s.net.reserves := rfl
@[simp] theorem setPairRx_net_nextId (n : Nat) (v : PairRx) : (setPairRx s n v).net.nextId = s.net.nextId := rfl
@[simp] theorem setPairRx_net_groups (n : Nat) (v : PairRx) : (setPairRx s n v).net.groups = s.net.groups := rfl
@[simp] theorem setPairRx_net_prbs (n : Nat) (v : PairRx) : (setPairRx s n v).net.prbs = s.net.prbs := rfl

/-! ### setPairTx -/

@[simp] theorem setPairTx_pending (n : Nat) (v : PairTx) : (setPairTx s n v).pending = s.pending := rfl
@[simp] theorem setPairTx_fresh (n : Nat) (v : PairTx) : (setPairTx s n v).fresh = s.fresh := rfl
@[simp] theorem setPairTx_out (n : Nat) (v : PairTx) : (setPairTx s n v).out = s.out := rfl
@[simp] theorem setPairTx_fuse (n : Nat) (v : PairTx) : (setPairTx s n v).fuse = s.fuse := rfl
@[simp] theorem setPairTx_power (n : Nat) (v : PairTx) : (setPairTx s n v).power = s.power := rfl
@[simp] theorem setPairTx_time (n : Nat) (v : PairTx) : (setPairTx s n v).time = s.time := rfl
@[simp] theorem setPairTx_rate (n : Nat) (v : PairTx) : (setPairTx s n v).rate = s.rate := rfl
@[simp] theorem setPairTx_image (n : Nat) (v : PairTx) : (setPairTx s n v).image = s.image := rfl
@[simp] theorem setPairTx_cfg (n : Nat) (v : PairTx) : (setPairTx s n v).cfg = s.cfg := rfl
@[simp] theorem setPairTx_insts (n : Nat) (v : PairTx) : (setPairTx s n v).insts = s.insts := rfl
@[simp] theorem setPairTx_err (n : Nat) (v : PairTx) : (setPairTx s n v).err = s.err := rfl
@[simp] theorem setPairTx_msg (n : Nat) (v : PairTx) : (setPairTx s n v).msg = s.msg := rfl
@[simp] theorem setPairTx_mem (n : Nat) (v : PairTx) : (setPairTx s n v).mem = s.mem := rfl
@[simp] theorem setPairTx_integ (n : Nat) (v : PairTx) : (setPairTx s n v).integ = s.integ := rfl
@[simp] theorem setPairTx_banks (n : Nat) (v : PairTx) : (setPairTx s n v).banks = s.banks := rfl
@[simp] theorem setPairTx_fe (n : Nat) (v : PairTx) : (setPairTx s n v).fe = s.fe := rfl
@[simp] theorem setPairTx_host (n : Nat) (v : PairTx) : (setPairTx s n v).host = s.host := rfl
@[simp] theorem setPairTx_parts (n : Nat) (v : PairTx) : (setPairTx s n v).parts = s.parts := rfl
@[simp] theorem setPairTx_longs (n : Nat) (v : PairTx) : (setPairTx s n v).longs = s.longs := rfl
@[simp] theorem setPairTx_ent (n : Nat) (v : PairTx) : (setPairTx s n v).ent = s.ent := rfl
@[simp] theorem setPairTx_anl (n : Nat) (v : PairTx) : (setPairTx s n v).anl = s.anl := rfl
@[simp] theorem setPairTx_ses (n : Nat) (v : PairTx) : (setPairTx s n v).ses = s.ses := rfl
@[simp] theorem setPairTx_sync (n : Nat) (v : PairTx) : (setPairTx s n v).sync = s.sync := rfl
@[simp] theorem setPairTx_vec (n : Nat) (v : PairTx) : (setPairTx s n v).vec = s.vec := rfl
@[simp] theorem setPairTx_dbg (n : Nat) (v : PairTx) : (setPairTx s n v).dbg = s.dbg := rfl
@[simp] theorem setPairTx_net_links (n : Nat) (v : PairTx) : (setPairTx s n v).net.links = s.net.links := rfl
@[simp] theorem setPairTx_net_rx (n : Nat) (v : PairTx) : (setPairTx s n v).net.rx = s.net.rx := rfl
@[simp] theorem setPairTx_net_held (n : Nat) (v : PairTx) : (setPairTx s n v).net.held = s.net.held := rfl
@[simp] theorem setPairTx_net_routeLost (n : Nat) (v : PairTx) : (setPairTx s n v).net.routeLost = s.net.routeLost := rfl
@[simp] theorem setPairTx_net_mcast (n : Nat) (v : PairTx) : (setPairTx s n v).net.mcast = s.net.mcast := rfl
@[simp] theorem setPairTx_net_buffers (n : Nat) (v : PairTx) : (setPairTx s n v).net.buffers = s.net.buffers := rfl
@[simp] theorem setPairTx_net_reserves (n : Nat) (v : PairTx) : (setPairTx s n v).net.reserves = s.net.reserves := rfl
@[simp] theorem setPairTx_net_nextId (n : Nat) (v : PairTx) : (setPairTx s n v).net.nextId = s.net.nextId := rfl
@[simp] theorem setPairTx_net_groups (n : Nat) (v : PairTx) : (setPairTx s n v).net.groups = s.net.groups := rfl
@[simp] theorem setPairTx_net_prbs (n : Nat) (v : PairTx) : (setPairTx s n v).net.prbs = s.net.prbs := rfl

/-! ### setPrbs -/

@[simp] theorem setPrbs_pending (v : Option PrbsRun) : (setPrbs s v).pending = s.pending := rfl
@[simp] theorem setPrbs_fresh (v : Option PrbsRun) : (setPrbs s v).fresh = s.fresh := rfl
@[simp] theorem setPrbs_out (v : Option PrbsRun) : (setPrbs s v).out = s.out := rfl
@[simp] theorem setPrbs_fuse (v : Option PrbsRun) : (setPrbs s v).fuse = s.fuse := rfl
@[simp] theorem setPrbs_power (v : Option PrbsRun) : (setPrbs s v).power = s.power := rfl
@[simp] theorem setPrbs_time (v : Option PrbsRun) : (setPrbs s v).time = s.time := rfl
@[simp] theorem setPrbs_rate (v : Option PrbsRun) : (setPrbs s v).rate = s.rate := rfl
@[simp] theorem setPrbs_image (v : Option PrbsRun) : (setPrbs s v).image = s.image := rfl
@[simp] theorem setPrbs_cfg (v : Option PrbsRun) : (setPrbs s v).cfg = s.cfg := rfl
@[simp] theorem setPrbs_insts (v : Option PrbsRun) : (setPrbs s v).insts = s.insts := rfl
@[simp] theorem setPrbs_err (v : Option PrbsRun) : (setPrbs s v).err = s.err := rfl
@[simp] theorem setPrbs_msg (v : Option PrbsRun) : (setPrbs s v).msg = s.msg := rfl
@[simp] theorem setPrbs_mem (v : Option PrbsRun) : (setPrbs s v).mem = s.mem := rfl
@[simp] theorem setPrbs_integ (v : Option PrbsRun) : (setPrbs s v).integ = s.integ := rfl
@[simp] theorem setPrbs_banks (v : Option PrbsRun) : (setPrbs s v).banks = s.banks := rfl
@[simp] theorem setPrbs_fe (v : Option PrbsRun) : (setPrbs s v).fe = s.fe := rfl
@[simp] theorem setPrbs_host (v : Option PrbsRun) : (setPrbs s v).host = s.host := rfl
@[simp] theorem setPrbs_parts (v : Option PrbsRun) : (setPrbs s v).parts = s.parts := rfl
@[simp] theorem setPrbs_longs (v : Option PrbsRun) : (setPrbs s v).longs = s.longs := rfl
@[simp] theorem setPrbs_ent (v : Option PrbsRun) : (setPrbs s v).ent = s.ent := rfl
@[simp] theorem setPrbs_anl (v : Option PrbsRun) : (setPrbs s v).anl = s.anl := rfl
@[simp] theorem setPrbs_ses (v : Option PrbsRun) : (setPrbs s v).ses = s.ses := rfl
@[simp] theorem setPrbs_sync (v : Option PrbsRun) : (setPrbs s v).sync = s.sync := rfl
@[simp] theorem setPrbs_vec (v : Option PrbsRun) : (setPrbs s v).vec = s.vec := rfl
@[simp] theorem setPrbs_dbg (v : Option PrbsRun) : (setPrbs s v).dbg = s.dbg := rfl
@[simp] theorem setPrbs_net_links (v : Option PrbsRun) : (setPrbs s v).net.links = s.net.links := rfl
@[simp] theorem setPrbs_net_tx (v : Option PrbsRun) : (setPrbs s v).net.tx = s.net.tx := rfl
@[simp] theorem setPrbs_net_rx (v : Option PrbsRun) : (setPrbs s v).net.rx = s.net.rx := rfl
@[simp] theorem setPrbs_net_held (v : Option PrbsRun) : (setPrbs s v).net.held = s.net.held := rfl
@[simp] theorem setPrbs_net_routeLost (v : Option PrbsRun) : (setPrbs s v).net.routeLost = s.net.routeLost := rfl
@[simp] theorem setPrbs_net_mcast (v : Option PrbsRun) : (setPrbs s v).net.mcast = s.net.mcast := rfl
@[simp] theorem setPrbs_net_buffers (v : Option PrbsRun) : (setPrbs s v).net.buffers = s.net.buffers := rfl
@[simp] theorem setPrbs_net_reserves (v : Option PrbsRun) : (setPrbs s v).net.reserves = s.net.reserves := rfl
@[simp] theorem setPrbs_net_nextId (v : Option PrbsRun) : (setPrbs s v).net.nextId = s.net.nextId := rfl
@[simp] theorem setPrbs_net_groups (v : Option PrbsRun) : (setPrbs s v).net.groups = s.net.groups := rfl

/-! ### setMarch -/

@[simp] theorem setMarch_pending (v : MarchSt) : (setMarch s v).pending = s.pending := rfl
@[simp] theorem setMarch_fresh (v : MarchSt) : (setMarch s v).fresh = s.fresh := rfl
@[simp] theorem setMarch_out (v : MarchSt) : (setMarch s v).out = s.out := rfl
@[simp] theorem setMarch_fuse (v : MarchSt) : (setMarch s v).fuse = s.fuse := rfl
@[simp] theorem setMarch_power (v : MarchSt) : (setMarch s v).power = s.power := rfl
@[simp] theorem setMarch_time (v : MarchSt) : (setMarch s v).time = s.time := rfl
@[simp] theorem setMarch_rate (v : MarchSt) : (setMarch s v).rate = s.rate := rfl
@[simp] theorem setMarch_image (v : MarchSt) : (setMarch s v).image = s.image := rfl
@[simp] theorem setMarch_cfg (v : MarchSt) : (setMarch s v).cfg = s.cfg := rfl
@[simp] theorem setMarch_insts (v : MarchSt) : (setMarch s v).insts = s.insts := rfl
@[simp] theorem setMarch_err (v : MarchSt) : (setMarch s v).err = s.err := rfl
@[simp] theorem setMarch_msg (v : MarchSt) : (setMarch s v).msg = s.msg := rfl
@[simp] theorem setMarch_mem (v : MarchSt) : (setMarch s v).mem = s.mem := rfl
@[simp] theorem setMarch_integ (v : MarchSt) : (setMarch s v).integ = s.integ := rfl
@[simp] theorem setMarch_banks (v : MarchSt) : (setMarch s v).banks = s.banks := rfl
@[simp] theorem setMarch_fe (v : MarchSt) : (setMarch s v).fe = s.fe := rfl
@[simp] theorem setMarch_host (v : MarchSt) : (setMarch s v).host = s.host := rfl
@[simp] theorem setMarch_parts (v : MarchSt) : (setMarch s v).parts = s.parts := rfl
@[simp] theorem setMarch_longs (v : MarchSt) : (setMarch s v).longs = s.longs := rfl
@[simp] theorem setMarch_ent (v : MarchSt) : (setMarch s v).ent = s.ent := rfl
@[simp] theorem setMarch_anl (v : MarchSt) : (setMarch s v).anl = s.anl := rfl
@[simp] theorem setMarch_ses (v : MarchSt) : (setMarch s v).ses = s.ses := rfl
@[simp] theorem setMarch_sync (v : MarchSt) : (setMarch s v).sync = s.sync := rfl
@[simp] theorem setMarch_vec (v : MarchSt) : (setMarch s v).vec = s.vec := rfl
@[simp] theorem setMarch_net (v : MarchSt) : (setMarch s v).net = s.net := rfl
@[simp] theorem setMarch_dbg_peekBusy (v : MarchSt) : (setMarch s v).dbg.peekBusy = s.dbg.peekBusy := rfl
@[simp] theorem setMarch_dbg_peekPoison (v : MarchSt) : (setMarch s v).dbg.peekPoison = s.dbg.peekPoison := rfl
@[simp] theorem setMarch_dbg_peekFault (v : MarchSt) : (setMarch s v).dbg.peekFault = s.dbg.peekFault := rfl
@[simp] theorem setMarch_dbg_peekAddr (v : MarchSt) : (setMarch s v).dbg.peekAddr = s.dbg.peekAddr := rfl
@[simp] theorem setMarch_dbg_peekData (v : MarchSt) : (setMarch s v).dbg.peekData = s.dbg.peekData := rfl
@[simp] theorem setMarch_dbg_jtagData (v : MarchSt) : (setMarch s v).dbg.jtagData = s.dbg.jtagData := rfl
@[simp] theorem setMarch_dbg_halted (v : MarchSt) : (setMarch s v).dbg.halted = s.dbg.halted := rfl
@[simp] theorem setMarch_dbg_drained (v : MarchSt) : (setMarch s v).dbg.drained = s.dbg.drained := rfl
@[simp] theorem setMarch_dbg_perf (v : MarchSt) : (setMarch s v).dbg.perf = s.dbg.perf := rfl
@[simp] theorem setMarch_dbg_replay (v : MarchSt) : (setMarch s v).dbg.replay = s.dbg.replay := rfl

/-! ### setMarchPart -/

@[simp] theorem setMarchPart_pending (n : Nat) (v : MarchPart) : (setMarchPart s n v).pending = s.pending := rfl
@[simp] theorem setMarchPart_fresh (n : Nat) (v : MarchPart) : (setMarchPart s n v).fresh = s.fresh := rfl
@[simp] theorem setMarchPart_out (n : Nat) (v : MarchPart) : (setMarchPart s n v).out = s.out := rfl
@[simp] theorem setMarchPart_fuse (n : Nat) (v : MarchPart) : (setMarchPart s n v).fuse = s.fuse := rfl
@[simp] theorem setMarchPart_power (n : Nat) (v : MarchPart) : (setMarchPart s n v).power = s.power := rfl
@[simp] theorem setMarchPart_time (n : Nat) (v : MarchPart) : (setMarchPart s n v).time = s.time := rfl
@[simp] theorem setMarchPart_rate (n : Nat) (v : MarchPart) : (setMarchPart s n v).rate = s.rate := rfl
@[simp] theorem setMarchPart_image (n : Nat) (v : MarchPart) : (setMarchPart s n v).image = s.image := rfl
@[simp] theorem setMarchPart_cfg (n : Nat) (v : MarchPart) : (setMarchPart s n v).cfg = s.cfg := rfl
@[simp] theorem setMarchPart_insts (n : Nat) (v : MarchPart) : (setMarchPart s n v).insts = s.insts := rfl
@[simp] theorem setMarchPart_err (n : Nat) (v : MarchPart) : (setMarchPart s n v).err = s.err := rfl
@[simp] theorem setMarchPart_msg (n : Nat) (v : MarchPart) : (setMarchPart s n v).msg = s.msg := rfl
@[simp] theorem setMarchPart_mem (n : Nat) (v : MarchPart) : (setMarchPart s n v).mem = s.mem := rfl
@[simp] theorem setMarchPart_integ (n : Nat) (v : MarchPart) : (setMarchPart s n v).integ = s.integ := rfl
@[simp] theorem setMarchPart_banks (n : Nat) (v : MarchPart) : (setMarchPart s n v).banks = s.banks := rfl
@[simp] theorem setMarchPart_fe (n : Nat) (v : MarchPart) : (setMarchPart s n v).fe = s.fe := rfl
@[simp] theorem setMarchPart_host (n : Nat) (v : MarchPart) : (setMarchPart s n v).host = s.host := rfl
@[simp] theorem setMarchPart_parts (n : Nat) (v : MarchPart) : (setMarchPart s n v).parts = s.parts := rfl
@[simp] theorem setMarchPart_longs (n : Nat) (v : MarchPart) : (setMarchPart s n v).longs = s.longs := rfl
@[simp] theorem setMarchPart_ent (n : Nat) (v : MarchPart) : (setMarchPart s n v).ent = s.ent := rfl
@[simp] theorem setMarchPart_anl (n : Nat) (v : MarchPart) : (setMarchPart s n v).anl = s.anl := rfl
@[simp] theorem setMarchPart_ses (n : Nat) (v : MarchPart) : (setMarchPart s n v).ses = s.ses := rfl
@[simp] theorem setMarchPart_sync (n : Nat) (v : MarchPart) : (setMarchPart s n v).sync = s.sync := rfl
@[simp] theorem setMarchPart_vec (n : Nat) (v : MarchPart) : (setMarchPart s n v).vec = s.vec := rfl
@[simp] theorem setMarchPart_net (n : Nat) (v : MarchPart) : (setMarchPart s n v).net = s.net := rfl
@[simp] theorem setMarchPart_dbg_peekBusy (n : Nat) (v : MarchPart) : (setMarchPart s n v).dbg.peekBusy = s.dbg.peekBusy := rfl
@[simp] theorem setMarchPart_dbg_peekPoison (n : Nat) (v : MarchPart) : (setMarchPart s n v).dbg.peekPoison = s.dbg.peekPoison := rfl
@[simp] theorem setMarchPart_dbg_peekFault (n : Nat) (v : MarchPart) : (setMarchPart s n v).dbg.peekFault = s.dbg.peekFault := rfl
@[simp] theorem setMarchPart_dbg_peekAddr (n : Nat) (v : MarchPart) : (setMarchPart s n v).dbg.peekAddr = s.dbg.peekAddr := rfl
@[simp] theorem setMarchPart_dbg_peekData (n : Nat) (v : MarchPart) : (setMarchPart s n v).dbg.peekData = s.dbg.peekData := rfl
@[simp] theorem setMarchPart_dbg_jtagData (n : Nat) (v : MarchPart) : (setMarchPart s n v).dbg.jtagData = s.dbg.jtagData := rfl
@[simp] theorem setMarchPart_dbg_halted (n : Nat) (v : MarchPart) : (setMarchPart s n v).dbg.halted = s.dbg.halted := rfl
@[simp] theorem setMarchPart_dbg_drained (n : Nat) (v : MarchPart) : (setMarchPart s n v).dbg.drained = s.dbg.drained := rfl
@[simp] theorem setMarchPart_dbg_perf (n : Nat) (v : MarchPart) : (setMarchPart s n v).dbg.perf = s.dbg.perf := rfl
@[simp] theorem setMarchPart_dbg_replay (n : Nat) (v : MarchPart) : (setMarchPart s n v).dbg.replay = s.dbg.replay := rfl

/-! ### setReplay -/

@[simp] theorem setReplay_pending (v : ReplaySt) : (setReplay s v).pending = s.pending := rfl
@[simp] theorem setReplay_fresh (v : ReplaySt) : (setReplay s v).fresh = s.fresh := rfl
@[simp] theorem setReplay_out (v : ReplaySt) : (setReplay s v).out = s.out := rfl
@[simp] theorem setReplay_fuse (v : ReplaySt) : (setReplay s v).fuse = s.fuse := rfl
@[simp] theorem setReplay_power (v : ReplaySt) : (setReplay s v).power = s.power := rfl
@[simp] theorem setReplay_time (v : ReplaySt) : (setReplay s v).time = s.time := rfl
@[simp] theorem setReplay_rate (v : ReplaySt) : (setReplay s v).rate = s.rate := rfl
@[simp] theorem setReplay_image (v : ReplaySt) : (setReplay s v).image = s.image := rfl
@[simp] theorem setReplay_cfg (v : ReplaySt) : (setReplay s v).cfg = s.cfg := rfl
@[simp] theorem setReplay_insts (v : ReplaySt) : (setReplay s v).insts = s.insts := rfl
@[simp] theorem setReplay_err (v : ReplaySt) : (setReplay s v).err = s.err := rfl
@[simp] theorem setReplay_msg (v : ReplaySt) : (setReplay s v).msg = s.msg := rfl
@[simp] theorem setReplay_mem (v : ReplaySt) : (setReplay s v).mem = s.mem := rfl
@[simp] theorem setReplay_integ (v : ReplaySt) : (setReplay s v).integ = s.integ := rfl
@[simp] theorem setReplay_banks (v : ReplaySt) : (setReplay s v).banks = s.banks := rfl
@[simp] theorem setReplay_fe (v : ReplaySt) : (setReplay s v).fe = s.fe := rfl
@[simp] theorem setReplay_host (v : ReplaySt) : (setReplay s v).host = s.host := rfl
@[simp] theorem setReplay_parts (v : ReplaySt) : (setReplay s v).parts = s.parts := rfl
@[simp] theorem setReplay_longs (v : ReplaySt) : (setReplay s v).longs = s.longs := rfl
@[simp] theorem setReplay_ent (v : ReplaySt) : (setReplay s v).ent = s.ent := rfl
@[simp] theorem setReplay_anl (v : ReplaySt) : (setReplay s v).anl = s.anl := rfl
@[simp] theorem setReplay_ses (v : ReplaySt) : (setReplay s v).ses = s.ses := rfl
@[simp] theorem setReplay_sync (v : ReplaySt) : (setReplay s v).sync = s.sync := rfl
@[simp] theorem setReplay_vec (v : ReplaySt) : (setReplay s v).vec = s.vec := rfl
@[simp] theorem setReplay_net (v : ReplaySt) : (setReplay s v).net = s.net := rfl
@[simp] theorem setReplay_dbg_peekBusy (v : ReplaySt) : (setReplay s v).dbg.peekBusy = s.dbg.peekBusy := rfl
@[simp] theorem setReplay_dbg_peekPoison (v : ReplaySt) : (setReplay s v).dbg.peekPoison = s.dbg.peekPoison := rfl
@[simp] theorem setReplay_dbg_peekFault (v : ReplaySt) : (setReplay s v).dbg.peekFault = s.dbg.peekFault := rfl
@[simp] theorem setReplay_dbg_peekAddr (v : ReplaySt) : (setReplay s v).dbg.peekAddr = s.dbg.peekAddr := rfl
@[simp] theorem setReplay_dbg_peekData (v : ReplaySt) : (setReplay s v).dbg.peekData = s.dbg.peekData := rfl
@[simp] theorem setReplay_dbg_jtagData (v : ReplaySt) : (setReplay s v).dbg.jtagData = s.dbg.jtagData := rfl
@[simp] theorem setReplay_dbg_halted (v : ReplaySt) : (setReplay s v).dbg.halted = s.dbg.halted := rfl
@[simp] theorem setReplay_dbg_drained (v : ReplaySt) : (setReplay s v).dbg.drained = s.dbg.drained := rfl
@[simp] theorem setReplay_dbg_perf (v : ReplaySt) : (setReplay s v).dbg.perf = s.dbg.perf := rfl
@[simp] theorem setReplay_dbg_march (v : ReplaySt) : (setReplay s v).dbg.march = s.dbg.march := rfl

/-! ### setMsix -/

@[simp] theorem setMsix_pending (p n : Nat) (v : MsixEntry) : (setMsix s p n v).pending = s.pending := rfl
@[simp] theorem setMsix_fresh (p n : Nat) (v : MsixEntry) : (setMsix s p n v).fresh = s.fresh := rfl
@[simp] theorem setMsix_out (p n : Nat) (v : MsixEntry) : (setMsix s p n v).out = s.out := rfl
@[simp] theorem setMsix_fuse (p n : Nat) (v : MsixEntry) : (setMsix s p n v).fuse = s.fuse := rfl
@[simp] theorem setMsix_power (p n : Nat) (v : MsixEntry) : (setMsix s p n v).power = s.power := rfl
@[simp] theorem setMsix_time (p n : Nat) (v : MsixEntry) : (setMsix s p n v).time = s.time := rfl
@[simp] theorem setMsix_rate (p n : Nat) (v : MsixEntry) : (setMsix s p n v).rate = s.rate := rfl
@[simp] theorem setMsix_image (p n : Nat) (v : MsixEntry) : (setMsix s p n v).image = s.image := rfl
@[simp] theorem setMsix_cfg (p n : Nat) (v : MsixEntry) : (setMsix s p n v).cfg = s.cfg := rfl
@[simp] theorem setMsix_insts (p n : Nat) (v : MsixEntry) : (setMsix s p n v).insts = s.insts := rfl
@[simp] theorem setMsix_err (p n : Nat) (v : MsixEntry) : (setMsix s p n v).err = s.err := rfl
@[simp] theorem setMsix_msg (p n : Nat) (v : MsixEntry) : (setMsix s p n v).msg = s.msg := rfl
@[simp] theorem setMsix_mem (p n : Nat) (v : MsixEntry) : (setMsix s p n v).mem = s.mem := rfl
@[simp] theorem setMsix_integ (p n : Nat) (v : MsixEntry) : (setMsix s p n v).integ = s.integ := rfl
@[simp] theorem setMsix_banks (p n : Nat) (v : MsixEntry) : (setMsix s p n v).banks = s.banks := rfl
@[simp] theorem setMsix_fe (p n : Nat) (v : MsixEntry) : (setMsix s p n v).fe = s.fe := rfl
@[simp] theorem setMsix_parts (p n : Nat) (v : MsixEntry) : (setMsix s p n v).parts = s.parts := rfl
@[simp] theorem setMsix_longs (p n : Nat) (v : MsixEntry) : (setMsix s p n v).longs = s.longs := rfl
@[simp] theorem setMsix_ent (p n : Nat) (v : MsixEntry) : (setMsix s p n v).ent = s.ent := rfl
@[simp] theorem setMsix_anl (p n : Nat) (v : MsixEntry) : (setMsix s p n v).anl = s.anl := rfl
@[simp] theorem setMsix_ses (p n : Nat) (v : MsixEntry) : (setMsix s p n v).ses = s.ses := rfl
@[simp] theorem setMsix_sync (p n : Nat) (v : MsixEntry) : (setMsix s p n v).sync = s.sync := rfl
@[simp] theorem setMsix_vec (p n : Nat) (v : MsixEntry) : (setMsix s p n v).vec = s.vec := rfl
@[simp] theorem setMsix_net (p n : Nat) (v : MsixEntry) : (setMsix s p n v).net = s.net := rfl
@[simp] theorem setMsix_dbg (p n : Nat) (v : MsixEntry) : (setMsix s p n v).dbg = s.dbg := rfl
@[simp] theorem setMsix_host_ports (p n : Nat) (v : MsixEntry) : (setMsix s p n v).host.ports = s.host.ports := rfl
@[simp] theorem setMsix_host_barSize (p n : Nat) (v : MsixEntry) : (setMsix s p n v).host.barSize = s.host.barSize := rfl
@[simp] theorem setMsix_host_msixEnable (p n : Nat) (v : MsixEntry) : (setMsix s p n v).host.msixEnable = s.host.msixEnable := rfl
@[simp] theorem setMsix_host_msixMask (p n : Nat) (v : MsixEntry) : (setMsix s p n v).host.msixMask = s.host.msixMask := rfl
@[simp] theorem setMsix_host_winFaults (p n : Nat) (v : MsixEntry) : (setMsix s p n v).host.winFaults = s.host.winFaults := rfl
@[simp] theorem setMsix_host_winBad (p n : Nat) (v : MsixEntry) : (setMsix s p n v).host.winBad = s.host.winBad := rfl
@[simp] theorem setMsix_host_reads (p n : Nat) (v : MsixEntry) : (setMsix s p n v).host.reads = s.host.reads := rfl
@[simp] theorem setMsix_host_nextTag (p n : Nat) (v : MsixEntry) : (setMsix s p n v).host.nextTag = s.host.nextTag := rfl

/-! ### setPort -/

@[simp] theorem setPort_pending (n : Nat) (v : PortSt) : (setPort s n v).pending = s.pending := rfl
@[simp] theorem setPort_fresh (n : Nat) (v : PortSt) : (setPort s n v).fresh = s.fresh := rfl
@[simp] theorem setPort_out (n : Nat) (v : PortSt) : (setPort s n v).out = s.out := rfl
@[simp] theorem setPort_fuse (n : Nat) (v : PortSt) : (setPort s n v).fuse = s.fuse := rfl
@[simp] theorem setPort_power (n : Nat) (v : PortSt) : (setPort s n v).power = s.power := rfl
@[simp] theorem setPort_time (n : Nat) (v : PortSt) : (setPort s n v).time = s.time := rfl
@[simp] theorem setPort_rate (n : Nat) (v : PortSt) : (setPort s n v).rate = s.rate := rfl
@[simp] theorem setPort_image (n : Nat) (v : PortSt) : (setPort s n v).image = s.image := rfl
@[simp] theorem setPort_cfg (n : Nat) (v : PortSt) : (setPort s n v).cfg = s.cfg := rfl
@[simp] theorem setPort_insts (n : Nat) (v : PortSt) : (setPort s n v).insts = s.insts := rfl
@[simp] theorem setPort_err (n : Nat) (v : PortSt) : (setPort s n v).err = s.err := rfl
@[simp] theorem setPort_msg (n : Nat) (v : PortSt) : (setPort s n v).msg = s.msg := rfl
@[simp] theorem setPort_mem (n : Nat) (v : PortSt) : (setPort s n v).mem = s.mem := rfl
@[simp] theorem setPort_integ (n : Nat) (v : PortSt) : (setPort s n v).integ = s.integ := rfl
@[simp] theorem setPort_banks (n : Nat) (v : PortSt) : (setPort s n v).banks = s.banks := rfl
@[simp] theorem setPort_fe (n : Nat) (v : PortSt) : (setPort s n v).fe = s.fe := rfl
@[simp] theorem setPort_parts (n : Nat) (v : PortSt) : (setPort s n v).parts = s.parts := rfl
@[simp] theorem setPort_longs (n : Nat) (v : PortSt) : (setPort s n v).longs = s.longs := rfl
@[simp] theorem setPort_ent (n : Nat) (v : PortSt) : (setPort s n v).ent = s.ent := rfl
@[simp] theorem setPort_anl (n : Nat) (v : PortSt) : (setPort s n v).anl = s.anl := rfl
@[simp] theorem setPort_ses (n : Nat) (v : PortSt) : (setPort s n v).ses = s.ses := rfl
@[simp] theorem setPort_sync (n : Nat) (v : PortSt) : (setPort s n v).sync = s.sync := rfl
@[simp] theorem setPort_vec (n : Nat) (v : PortSt) : (setPort s n v).vec = s.vec := rfl
@[simp] theorem setPort_net (n : Nat) (v : PortSt) : (setPort s n v).net = s.net := rfl
@[simp] theorem setPort_dbg (n : Nat) (v : PortSt) : (setPort s n v).dbg = s.dbg := rfl
@[simp] theorem setPort_host_barSize (n : Nat) (v : PortSt) : (setPort s n v).host.barSize = s.host.barSize := rfl
@[simp] theorem setPort_host_msix (n : Nat) (v : PortSt) : (setPort s n v).host.msix = s.host.msix := rfl
@[simp] theorem setPort_host_msixEnable (n : Nat) (v : PortSt) : (setPort s n v).host.msixEnable = s.host.msixEnable := rfl
@[simp] theorem setPort_host_msixMask (n : Nat) (v : PortSt) : (setPort s n v).host.msixMask = s.host.msixMask := rfl
@[simp] theorem setPort_host_winFaults (n : Nat) (v : PortSt) : (setPort s n v).host.winFaults = s.host.winFaults := rfl
@[simp] theorem setPort_host_winBad (n : Nat) (v : PortSt) : (setPort s n v).host.winBad = s.host.winBad := rfl
@[simp] theorem setPort_host_reads (n : Nat) (v : PortSt) : (setPort s n v).host.reads = s.host.reads := rfl
@[simp] theorem setPort_host_nextTag (n : Nat) (v : PortSt) : (setPort s n v).host.nextTag = s.host.nextTag := rfl

/-! ### setPart -/

@[simp] theorem setPart_pending (n : Nat) (v : PartSt) : (setPart s n v).pending = s.pending := rfl
@[simp] theorem setPart_fresh (n : Nat) (v : PartSt) : (setPart s n v).fresh = s.fresh := rfl
@[simp] theorem setPart_out (n : Nat) (v : PartSt) : (setPart s n v).out = s.out := rfl
@[simp] theorem setPart_fuse (n : Nat) (v : PartSt) : (setPart s n v).fuse = s.fuse := rfl
@[simp] theorem setPart_power (n : Nat) (v : PartSt) : (setPart s n v).power = s.power := rfl
@[simp] theorem setPart_time (n : Nat) (v : PartSt) : (setPart s n v).time = s.time := rfl
@[simp] theorem setPart_rate (n : Nat) (v : PartSt) : (setPart s n v).rate = s.rate := rfl
@[simp] theorem setPart_image (n : Nat) (v : PartSt) : (setPart s n v).image = s.image := rfl
@[simp] theorem setPart_cfg (n : Nat) (v : PartSt) : (setPart s n v).cfg = s.cfg := rfl
@[simp] theorem setPart_insts (n : Nat) (v : PartSt) : (setPart s n v).insts = s.insts := rfl
@[simp] theorem setPart_err (n : Nat) (v : PartSt) : (setPart s n v).err = s.err := rfl
@[simp] theorem setPart_msg (n : Nat) (v : PartSt) : (setPart s n v).msg = s.msg := rfl
@[simp] theorem setPart_mem (n : Nat) (v : PartSt) : (setPart s n v).mem = s.mem := rfl
@[simp] theorem setPart_integ (n : Nat) (v : PartSt) : (setPart s n v).integ = s.integ := rfl
@[simp] theorem setPart_banks (n : Nat) (v : PartSt) : (setPart s n v).banks = s.banks := rfl
@[simp] theorem setPart_fe (n : Nat) (v : PartSt) : (setPart s n v).fe = s.fe := rfl
@[simp] theorem setPart_host (n : Nat) (v : PartSt) : (setPart s n v).host = s.host := rfl
@[simp] theorem setPart_longs (n : Nat) (v : PartSt) : (setPart s n v).longs = s.longs := rfl
@[simp] theorem setPart_ent (n : Nat) (v : PartSt) : (setPart s n v).ent = s.ent := rfl
@[simp] theorem setPart_anl (n : Nat) (v : PartSt) : (setPart s n v).anl = s.anl := rfl
@[simp] theorem setPart_ses (n : Nat) (v : PartSt) : (setPart s n v).ses = s.ses := rfl
@[simp] theorem setPart_sync (n : Nat) (v : PartSt) : (setPart s n v).sync = s.sync := rfl
@[simp] theorem setPart_vec (n : Nat) (v : PartSt) : (setPart s n v).vec = s.vec := rfl
@[simp] theorem setPart_net (n : Nat) (v : PartSt) : (setPart s n v).net = s.net := rfl
@[simp] theorem setPart_dbg (n : Nat) (v : PartSt) : (setPart s n v).dbg = s.dbg := rfl

/-! ### setVec -/

@[simp] theorem setVec_pending (n : Nat) (v : VecSt) : (setVec s n v).pending = s.pending := rfl
@[simp] theorem setVec_fresh (n : Nat) (v : VecSt) : (setVec s n v).fresh = s.fresh := rfl
@[simp] theorem setVec_out (n : Nat) (v : VecSt) : (setVec s n v).out = s.out := rfl
@[simp] theorem setVec_fuse (n : Nat) (v : VecSt) : (setVec s n v).fuse = s.fuse := rfl
@[simp] theorem setVec_power (n : Nat) (v : VecSt) : (setVec s n v).power = s.power := rfl
@[simp] theorem setVec_time (n : Nat) (v : VecSt) : (setVec s n v).time = s.time := rfl
@[simp] theorem setVec_rate (n : Nat) (v : VecSt) : (setVec s n v).rate = s.rate := rfl
@[simp] theorem setVec_image (n : Nat) (v : VecSt) : (setVec s n v).image = s.image := rfl
@[simp] theorem setVec_cfg (n : Nat) (v : VecSt) : (setVec s n v).cfg = s.cfg := rfl
@[simp] theorem setVec_insts (n : Nat) (v : VecSt) : (setVec s n v).insts = s.insts := rfl
@[simp] theorem setVec_err (n : Nat) (v : VecSt) : (setVec s n v).err = s.err := rfl
@[simp] theorem setVec_msg (n : Nat) (v : VecSt) : (setVec s n v).msg = s.msg := rfl
@[simp] theorem setVec_mem (n : Nat) (v : VecSt) : (setVec s n v).mem = s.mem := rfl
@[simp] theorem setVec_integ (n : Nat) (v : VecSt) : (setVec s n v).integ = s.integ := rfl
@[simp] theorem setVec_banks (n : Nat) (v : VecSt) : (setVec s n v).banks = s.banks := rfl
@[simp] theorem setVec_fe (n : Nat) (v : VecSt) : (setVec s n v).fe = s.fe := rfl
@[simp] theorem setVec_host (n : Nat) (v : VecSt) : (setVec s n v).host = s.host := rfl
@[simp] theorem setVec_parts (n : Nat) (v : VecSt) : (setVec s n v).parts = s.parts := rfl
@[simp] theorem setVec_longs (n : Nat) (v : VecSt) : (setVec s n v).longs = s.longs := rfl
@[simp] theorem setVec_ent (n : Nat) (v : VecSt) : (setVec s n v).ent = s.ent := rfl
@[simp] theorem setVec_anl (n : Nat) (v : VecSt) : (setVec s n v).anl = s.anl := rfl
@[simp] theorem setVec_ses (n : Nat) (v : VecSt) : (setVec s n v).ses = s.ses := rfl
@[simp] theorem setVec_sync (n : Nat) (v : VecSt) : (setVec s n v).sync = s.sync := rfl
@[simp] theorem setVec_net (n : Nat) (v : VecSt) : (setVec s n v).net = s.net := rfl
@[simp] theorem setVec_dbg (n : Nat) (v : VecSt) : (setVec s n v).dbg = s.dbg := rfl

/-! ### setSess -/

@[simp] theorem setSess_pending (n : Nat) (v : SessSt) : (setSess s n v).pending = s.pending := rfl
@[simp] theorem setSess_fresh (n : Nat) (v : SessSt) : (setSess s n v).fresh = s.fresh := rfl
@[simp] theorem setSess_out (n : Nat) (v : SessSt) : (setSess s n v).out = s.out := rfl
@[simp] theorem setSess_fuse (n : Nat) (v : SessSt) : (setSess s n v).fuse = s.fuse := rfl
@[simp] theorem setSess_power (n : Nat) (v : SessSt) : (setSess s n v).power = s.power := rfl
@[simp] theorem setSess_time (n : Nat) (v : SessSt) : (setSess s n v).time = s.time := rfl
@[simp] theorem setSess_rate (n : Nat) (v : SessSt) : (setSess s n v).rate = s.rate := rfl
@[simp] theorem setSess_image (n : Nat) (v : SessSt) : (setSess s n v).image = s.image := rfl
@[simp] theorem setSess_cfg (n : Nat) (v : SessSt) : (setSess s n v).cfg = s.cfg := rfl
@[simp] theorem setSess_insts (n : Nat) (v : SessSt) : (setSess s n v).insts = s.insts := rfl
@[simp] theorem setSess_err (n : Nat) (v : SessSt) : (setSess s n v).err = s.err := rfl
@[simp] theorem setSess_msg (n : Nat) (v : SessSt) : (setSess s n v).msg = s.msg := rfl
@[simp] theorem setSess_mem (n : Nat) (v : SessSt) : (setSess s n v).mem = s.mem := rfl
@[simp] theorem setSess_integ (n : Nat) (v : SessSt) : (setSess s n v).integ = s.integ := rfl
@[simp] theorem setSess_banks (n : Nat) (v : SessSt) : (setSess s n v).banks = s.banks := rfl
@[simp] theorem setSess_fe (n : Nat) (v : SessSt) : (setSess s n v).fe = s.fe := rfl
@[simp] theorem setSess_host (n : Nat) (v : SessSt) : (setSess s n v).host = s.host := rfl
@[simp] theorem setSess_parts (n : Nat) (v : SessSt) : (setSess s n v).parts = s.parts := rfl
@[simp] theorem setSess_longs (n : Nat) (v : SessSt) : (setSess s n v).longs = s.longs := rfl
@[simp] theorem setSess_ent (n : Nat) (v : SessSt) : (setSess s n v).ent = s.ent := rfl
@[simp] theorem setSess_anl (n : Nat) (v : SessSt) : (setSess s n v).anl = s.anl := rfl
@[simp] theorem setSess_sync (n : Nat) (v : SessSt) : (setSess s n v).sync = s.sync := rfl
@[simp] theorem setSess_vec (n : Nat) (v : SessSt) : (setSess s n v).vec = s.vec := rfl
@[simp] theorem setSess_net (n : Nat) (v : SessSt) : (setSess s n v).net = s.net := rfl
@[simp] theorem setSess_dbg (n : Nat) (v : SessSt) : (setSess s n v).dbg = s.dbg := rfl
@[simp] theorem setSess_ses_latch (n : Nat) (v : SessSt) : (setSess s n v).ses.latch = s.ses.latch := rfl
@[simp] theorem setSess_ses_decs (n : Nat) (v : SessSt) : (setSess s n v).ses.decs = s.ses.decs := rfl
@[simp] theorem setSess_ses_moves (n : Nat) (v : SessSt) : (setSess s n v).ses.moves = s.ses.moves := rfl

/-! ### setSesPart -/

@[simp] theorem setSesPart_pending (n : Nat) (v : SesPart) : (setSesPart s n v).pending = s.pending := rfl
@[simp] theorem setSesPart_fresh (n : Nat) (v : SesPart) : (setSesPart s n v).fresh = s.fresh := rfl
@[simp] theorem setSesPart_out (n : Nat) (v : SesPart) : (setSesPart s n v).out = s.out := rfl
@[simp] theorem setSesPart_fuse (n : Nat) (v : SesPart) : (setSesPart s n v).fuse = s.fuse := rfl
@[simp] theorem setSesPart_power (n : Nat) (v : SesPart) : (setSesPart s n v).power = s.power := rfl
@[simp] theorem setSesPart_time (n : Nat) (v : SesPart) : (setSesPart s n v).time = s.time := rfl
@[simp] theorem setSesPart_rate (n : Nat) (v : SesPart) : (setSesPart s n v).rate = s.rate := rfl
@[simp] theorem setSesPart_image (n : Nat) (v : SesPart) : (setSesPart s n v).image = s.image := rfl
@[simp] theorem setSesPart_cfg (n : Nat) (v : SesPart) : (setSesPart s n v).cfg = s.cfg := rfl
@[simp] theorem setSesPart_insts (n : Nat) (v : SesPart) : (setSesPart s n v).insts = s.insts := rfl
@[simp] theorem setSesPart_err (n : Nat) (v : SesPart) : (setSesPart s n v).err = s.err := rfl
@[simp] theorem setSesPart_msg (n : Nat) (v : SesPart) : (setSesPart s n v).msg = s.msg := rfl
@[simp] theorem setSesPart_mem (n : Nat) (v : SesPart) : (setSesPart s n v).mem = s.mem := rfl
@[simp] theorem setSesPart_integ (n : Nat) (v : SesPart) : (setSesPart s n v).integ = s.integ := rfl
@[simp] theorem setSesPart_banks (n : Nat) (v : SesPart) : (setSesPart s n v).banks = s.banks := rfl
@[simp] theorem setSesPart_fe (n : Nat) (v : SesPart) : (setSesPart s n v).fe = s.fe := rfl
@[simp] theorem setSesPart_host (n : Nat) (v : SesPart) : (setSesPart s n v).host = s.host := rfl
@[simp] theorem setSesPart_parts (n : Nat) (v : SesPart) : (setSesPart s n v).parts = s.parts := rfl
@[simp] theorem setSesPart_longs (n : Nat) (v : SesPart) : (setSesPart s n v).longs = s.longs := rfl
@[simp] theorem setSesPart_ent (n : Nat) (v : SesPart) : (setSesPart s n v).ent = s.ent := rfl
@[simp] theorem setSesPart_anl (n : Nat) (v : SesPart) : (setSesPart s n v).anl = s.anl := rfl
@[simp] theorem setSesPart_sync (n : Nat) (v : SesPart) : (setSesPart s n v).sync = s.sync := rfl
@[simp] theorem setSesPart_vec (n : Nat) (v : SesPart) : (setSesPart s n v).vec = s.vec := rfl
@[simp] theorem setSesPart_net (n : Nat) (v : SesPart) : (setSesPart s n v).net = s.net := rfl
@[simp] theorem setSesPart_dbg (n : Nat) (v : SesPart) : (setSesPart s n v).dbg = s.dbg := rfl
@[simp] theorem setSesPart_ses_latch (n : Nat) (v : SesPart) : (setSesPart s n v).ses.latch = s.ses.latch := rfl
@[simp] theorem setSesPart_ses_decs (n : Nat) (v : SesPart) : (setSesPart s n v).ses.decs = s.ses.decs := rfl
@[simp] theorem setSesPart_ses_moves (n : Nat) (v : SesPart) : (setSesPart s n v).ses.moves = s.ses.moves := rfl

/-! ### emit -/

@[simp] theorem emit_pending (v : Output) : (emit s v).pending = s.pending := rfl
@[simp] theorem emit_fresh (v : Output) : (emit s v).fresh = s.fresh := rfl
@[simp] theorem emit_fuse (v : Output) : (emit s v).fuse = s.fuse := rfl
@[simp] theorem emit_power (v : Output) : (emit s v).power = s.power := rfl
@[simp] theorem emit_time (v : Output) : (emit s v).time = s.time := rfl
@[simp] theorem emit_rate (v : Output) : (emit s v).rate = s.rate := rfl
@[simp] theorem emit_image (v : Output) : (emit s v).image = s.image := rfl
@[simp] theorem emit_cfg (v : Output) : (emit s v).cfg = s.cfg := rfl
@[simp] theorem emit_insts (v : Output) : (emit s v).insts = s.insts := rfl
@[simp] theorem emit_err (v : Output) : (emit s v).err = s.err := rfl
@[simp] theorem emit_msg (v : Output) : (emit s v).msg = s.msg := rfl
@[simp] theorem emit_mem (v : Output) : (emit s v).mem = s.mem := rfl
@[simp] theorem emit_integ (v : Output) : (emit s v).integ = s.integ := rfl
@[simp] theorem emit_banks (v : Output) : (emit s v).banks = s.banks := rfl
@[simp] theorem emit_fe (v : Output) : (emit s v).fe = s.fe := rfl
@[simp] theorem emit_host (v : Output) : (emit s v).host = s.host := rfl
@[simp] theorem emit_parts (v : Output) : (emit s v).parts = s.parts := rfl
@[simp] theorem emit_longs (v : Output) : (emit s v).longs = s.longs := rfl
@[simp] theorem emit_ent (v : Output) : (emit s v).ent = s.ent := rfl
@[simp] theorem emit_anl (v : Output) : (emit s v).anl = s.anl := rfl
@[simp] theorem emit_ses (v : Output) : (emit s v).ses = s.ses := rfl
@[simp] theorem emit_sync (v : Output) : (emit s v).sync = s.sync := rfl
@[simp] theorem emit_vec (v : Output) : (emit s v).vec = s.vec := rfl
@[simp] theorem emit_net (v : Output) : (emit s v).net = s.net := rfl
@[simp] theorem emit_dbg (v : Output) : (emit s v).dbg = s.dbg := rfl

/-! ### keepSupply -/

@[simp] theorem keepSupply_fresh (t : State) : (keepSupply s t).fresh = t.fresh := rfl
@[simp] theorem keepSupply_out (t : State) : (keepSupply s t).out = t.out := rfl
@[simp] theorem keepSupply_rate (t : State) : (keepSupply s t).rate = t.rate := rfl
@[simp] theorem keepSupply_image (t : State) : (keepSupply s t).image = t.image := rfl
@[simp] theorem keepSupply_cfg (t : State) : (keepSupply s t).cfg = t.cfg := rfl
@[simp] theorem keepSupply_insts (t : State) : (keepSupply s t).insts = t.insts := rfl
@[simp] theorem keepSupply_err (t : State) : (keepSupply s t).err = t.err := rfl
@[simp] theorem keepSupply_msg (t : State) : (keepSupply s t).msg = t.msg := rfl
@[simp] theorem keepSupply_mem (t : State) : (keepSupply s t).mem = t.mem := rfl
@[simp] theorem keepSupply_integ (t : State) : (keepSupply s t).integ = t.integ := rfl
@[simp] theorem keepSupply_banks (t : State) : (keepSupply s t).banks = t.banks := rfl
@[simp] theorem keepSupply_fe (t : State) : (keepSupply s t).fe = t.fe := rfl
@[simp] theorem keepSupply_host (t : State) : (keepSupply s t).host = t.host := rfl
@[simp] theorem keepSupply_parts (t : State) : (keepSupply s t).parts = t.parts := rfl
@[simp] theorem keepSupply_longs (t : State) : (keepSupply s t).longs = t.longs := rfl
@[simp] theorem keepSupply_ent (t : State) : (keepSupply s t).ent = t.ent := rfl
@[simp] theorem keepSupply_anl (t : State) : (keepSupply s t).anl = t.anl := rfl
@[simp] theorem keepSupply_ses (t : State) : (keepSupply s t).ses = t.ses := rfl
@[simp] theorem keepSupply_sync (t : State) : (keepSupply s t).sync = t.sync := rfl
@[simp] theorem keepSupply_vec (t : State) : (keepSupply s t).vec = t.vec := rfl
@[simp] theorem keepSupply_net (t : State) : (keepSupply s t).net = t.net := rfl
@[simp] theorem keepSupply_dbg (t : State) : (keepSupply s t).dbg = t.dbg := rfl
@[simp] theorem keepSupply_pending (t : State) : (keepSupply s t).pending = s.pending := rfl
@[simp] theorem keepSupply_fuse_grade (t : State) : (keepSupply s t).fuse.grade = s.fuse.grade := rfl
@[simp] theorem keepSupply_fuse_stepping (t : State) : (keepSupply s t).fuse.stepping = s.fuse.stepping := rfl
@[simp] theorem keepSupply_fuse_entFused (t : State) : (keepSupply s t).fuse.entFused = s.fuse.entFused := rfl
@[simp] theorem keepSupply_fuse_dispFused (t : State) : (keepSupply s t).fuse.dispFused = s.fuse.dispFused := rfl
@[simp] theorem keepSupply_fuse_rows (t : State) : (keepSupply s t).fuse.rows = t.fuse.rows := rfl
@[simp] theorem keepSupply_fuse_entGood (t : State) : (keepSupply s t).fuse.entGood = t.fuse.entGood := rfl
@[simp] theorem keepSupply_fuse_dispGood (t : State) : (keepSupply s t).fuse.dispGood = t.fuse.dispGood := rfl
@[simp] theorem keepSupply_fuse_slots (t : State) : (keepSupply s t).fuse.slots = t.fuse.slots := rfl
@[simp] theorem keepSupply_fuse_minSvn (t : State) : (keepSupply s t).fuse.minSvn = t.fuse.minSvn := rfl
@[simp] theorem keepSupply_time_boots (t : State) : (keepSupply s t).time.boots = s.time.boots := rfl
@[simp] theorem keepSupply_time_exhausted (t : State) : (keepSupply s t).time.exhausted = s.time.exhausted := rfl
@[simp] theorem keepSupply_time_count (t : State) : (keepSupply s t).time.count = s.time.count := rfl
@[simp] theorem keepSupply_time_lowLatch (t : State) : (keepSupply s t).time.lowLatch = t.time.lowLatch := rfl
@[simp] theorem keepSupply_time_snapVal (t : State) : (keepSupply s t).time.snapVal = t.time.snapVal := rfl
@[simp] theorem keepSupply_time_snapTag (t : State) : (keepSupply s t).time.snapTag = t.time.snapTag := rfl
@[simp] theorem keepSupply_time_stepSize (t : State) : (keepSupply s t).time.stepSize = t.time.stepSize := rfl
@[simp] theorem keepSupply_time_align (t : State) : (keepSupply s t).time.align = t.time.align := rfl
@[simp] theorem keepSupply_time_leader (t : State) : (keepSupply s t).time.leader = t.time.leader := rfl
@[simp] theorem keepSupply_time_hops (t : State) : (keepSupply s t).time.hops = t.time.hops := rfl
@[simp] theorem keepSupply_time_steps (t : State) : (keepSupply s t).time.steps = t.time.steps := rfl
@[simp] theorem keepSupply_time_offset (t : State) : (keepSupply s t).time.offset = t.time.offset := rfl
@[simp] theorem keepSupply_time_capture (t : State) : (keepSupply s t).time.capture = t.time.capture := rfl
@[simp] theorem keepSupply_time_disagree (t : State) : (keepSupply s t).time.disagree = t.time.disagree := rfl
@[simp] theorem keepSupply_time_refclk156 (t : State) : (keepSupply s t).time.refclk156 = t.time.refclk156 := rfl
@[simp] theorem keepSupply_power_standby (t : State) : (keepSupply s t).power.standby = s.power.standby := rfl
@[simp] theorem keepSupply_power_mainGood (t : State) : (keepSupply s t).power.mainGood = s.power.mainGood := rfl
@[simp] theorem keepSupply_power_state (t : State) : (keepSupply s t).power.state = s.power.state := rfl
@[simp] theorem keepSupply_power_bootStep (t : State) : (keepSupply s t).power.bootStep = s.power.bootStep := rfl
@[simp] theorem keepSupply_power_romCopy (t : State) : (keepSupply s t).power.romCopy = s.power.romCopy := rfl
@[simp] theorem keepSupply_power_wakes (t : State) : (keepSupply s t).power.wakes = s.power.wakes := rfl
@[simp] theorem keepSupply_power_lastReset (t : State) : (keepSupply s t).power.lastReset = s.power.lastReset := rfl
@[simp] theorem keepSupply_power_lastOff (t : State) : (keepSupply s t).power.lastOff = s.power.lastOff := rfl
@[simp] theorem keepSupply_power_coldBoot (t : State) : (keepSupply s t).power.coldBoot = s.power.coldBoot := rfl
@[simp] theorem keepSupply_power_perst (t : State) : (keepSupply s t).power.perst = s.power.perst := rfl
@[simp] theorem keepSupply_power_bootTime (t : State) : (keepSupply s t).power.bootTime = s.power.bootTime := rfl
@[simp] theorem keepSupply_power_waiting (t : State) : (keepSupply s t).power.waiting = t.power.waiting := rfl
@[simp] theorem keepSupply_power_promoted (t : State) : (keepSupply s t).power.promoted = t.power.promoted := rfl

/-- Nothing changes where nothing has changed. -/
@[simp] theorem keepSupply_self : keepSupply s s = s := rfl

/-! ### Reads after writes -/

theorem queueOf_setQueue (n k : Nat) (v : QueueSt) : queueOf (setQueue s n v) k = if k = n then v else queueOf s k := by
  simp [queueOf, setQueue, mget_mput]
@[simp] theorem queueOf_setQueue_same (n : Nat) (v : QueueSt) : queueOf (setQueue s n v) n = v := by simp [queueOf_setQueue]

theorem slotOf_setSlot (n k : Nat) (v : SlotSt) : slotOf (setSlot s n v) k = if k = n then v else slotOf s k := by
  simp [slotOf, setSlot, mget_mput]
@[simp] theorem slotOf_setSlot_same (n : Nat) (v : SlotSt) : slotOf (setSlot s n v) n = v := by simp [slotOf_setSlot]

theorem cqOf_setCq (n k : Nat) (v : CqSt) : cqOf (setCq s n v) k = if k = n then v else cqOf s k := by
  simp [cqOf, setCq, mget_mput]
@[simp] theorem cqOf_setCq_same (n : Nat) (v : CqSt) : cqOf (setCq s n v) n = v := by simp [cqOf_setCq]

theorem eventOf_setEvent (n k : Nat) (v : BitVec 64) : eventOf (setEvent s n v) k = if k = n then v else eventOf s k := by
  simp [eventOf, setEvent, mget_mput]
@[simp] theorem eventOf_setEvent_same (n : Nat) (v : BitVec 64) : eventOf (setEvent s n v) n = v := by simp [eventOf_setEvent]

theorem bankOf_setBank (n k : Nat) (v : BankSt) : bankOf (setBank s n v) k = if k = n then v else bankOf s k := by
  simp [bankOf, setBank, mget_mput]
@[simp] theorem bankOf_setBank_same (n : Nat) (v : BankSt) : bankOf (setBank s n v) n = v := by simp [bankOf_setBank]

theorem portOf_setPort (n k : Nat) (v : PortSt) : portOf (setPort s n v) k = if k = n then v else portOf s k := by
  simp [portOf, setPort, mget_mput]
@[simp] theorem portOf_setPort_same (n : Nat) (v : PortSt) : portOf (setPort s n v) n = v := by simp [portOf_setPort]

theorem dieRateOf_setDieRate (n k : Nat) (v : DieRate) : dieRateOf (setDieRate s n v) k = if k = n then v else dieRateOf s k := by
  simp [dieRateOf, setDieRate, mget_mput]
@[simp] theorem dieRateOf_setDieRate_same (n : Nat) (v : DieRate) : dieRateOf (setDieRate s n v) n = v := by simp [dieRateOf_setDieRate]

theorem stackOf_setStack (n k : Nat) (v : StackCtr) : stackOf (setStack s n v) k = if k = n then v else stackOf s k := by
  simp [stackOf, setStack, mget_mput]
@[simp] theorem stackOf_setStack_same (n : Nat) (v : StackCtr) : stackOf (setStack s n v) n = v := by simp [stackOf_setStack]

theorem dieRepairOf_setDieRepair (n k : Nat) (v : DieRepair) : dieRepairOf (setDieRepair s n v) k = if k = n then v else dieRepairOf s k := by
  simp [dieRepairOf, setDieRepair, mget_mput]
@[simp] theorem dieRepairOf_setDieRepair_same (n : Nat) (v : DieRepair) : dieRepairOf (setDieRepair s n v) n = v := by simp [dieRepairOf_setDieRepair]

theorem rowMapOf_setRowMap (n k : Nat) (v : RowMap) : rowMapOf (setRowMap s n v) k = if k = n then v else rowMapOf s k := by
  simp [rowMapOf, setRowMap, mget_mput]
@[simp] theorem rowMapOf_setRowMap_same (n : Nat) (v : RowMap) : rowMapOf (setRowMap s n v) n = v := by simp [rowMapOf_setRowMap]

theorem keySlotOf_setKeySlot (n k : Nat) (v : KeySlot) : keySlotOf (setKeySlot s n v) k = if k = n then v else keySlotOf s k := by
  simp [keySlotOf, setKeySlot, mget_mput]
@[simp] theorem keySlotOf_setKeySlot_same (n : Nat) (v : KeySlot) : keySlotOf (setKeySlot s n v) n = v := by simp [keySlotOf_setKeySlot]

theorem partOf_setPart (n k : Nat) (v : PartSt) : partOf (setPart s n v) k = if k = n then v else partOf s k := by
  simp [partOf, setPart, mget_mput]
@[simp] theorem partOf_setPart_same (n : Nat) (v : PartSt) : partOf (setPart s n v) n = v := by simp [partOf_setPart]

theorem anlOf_setAnl (n k : Nat) (v : AnlSt) : anlOf (setAnl s n v) k = if k = n then v else anlOf s k := by
  simp [anlOf, setAnl, mget_mput]
@[simp] theorem anlOf_setAnl_same (n : Nat) (v : AnlSt) : anlOf (setAnl s n v) n = v := by simp [anlOf_setAnl]

theorem vecOf_setVec (n k : Nat) (v : VecSt) : vecOf (setVec s n v) k = if k = n then v else vecOf s k := by
  simp [vecOf, setVec, mget_mput]
@[simp] theorem vecOf_setVec_same (n : Nat) (v : VecSt) : vecOf (setVec s n v) n = v := by simp [vecOf_setVec]

theorem linkOf_setLink (n k : Nat) (v : LinkSt) : linkOf (setLink s n v) k = if k = n then v else linkOf s k := by
  simp [linkOf, setLink, mget_mput]
@[simp] theorem linkOf_setLink_same (n : Nat) (v : LinkSt) : linkOf (setLink s n v) n = v := by simp [linkOf_setLink]

theorem sourceOf_setSource (n k : Nat) (v : EntSource) : sourceOf (setSource s n v) k = if k = n then v else sourceOf s k := by
  simp [sourceOf, setSource, mget_mput]
@[simp] theorem sourceOf_setSource_same (n : Nat) (v : EntSource) : sourceOf (setSource s n v) n = v := by simp [sourceOf_setSource]

theorem clientOf_setClient (n k : Nat) (v : Client) : clientOf (setClient s n v) k = if k = n then v else clientOf s k := by
  simp [clientOf, setClient, mget_mput]
@[simp] theorem clientOf_setClient_same (n : Nat) (v : Client) : clientOf (setClient s n v) n = v := by simp [clientOf_setClient]

theorem sessOf_setSess (n k : Nat) (v : SessSt) : sessOf (setSess s n v) k = if k = n then v else sessOf s k := by
  simp [sessOf, setSess, mget_mput]
@[simp] theorem sessOf_setSess_same (n : Nat) (v : SessSt) : sessOf (setSess s n v) n = v := by simp [sessOf_setSess]

end Sys2Proof.Machine
end

