-- ==== Sys2Proof/Laws/StepEnd.lean ====
section
/-!
SUPPORT. Sys2Proof/Laws/StepEnd.lean: what ends every step: each of its parts leaves a state in which it has nothing to do, and
what the three kinds of step are in OFF and out of it.
-/
namespace Sys2Proof.Machine

/-! ### keepSupply -/

/-- A state that shares what belongs to the supplies with s is kept as it is. -/
theorem keepSupply_eq (s t : State) (h1 : t.pending = s.pending) (h2 : t.fuse.grade = s.fuse.grade)
    (h3 : t.fuse.stepping = s.fuse.stepping) (h4 : t.fuse.entFused = s.fuse.entFused) (h5 : t.fuse.dispFused = s.fuse.dispFused)
    (h6 : t.time.boots = s.time.boots) (h9 : t.time.count = s.time.count) (h7 : t.time.exhausted = s.time.exhausted)
    (h8 : t.power = { s.power with waiting := t.power.waiting, promoted := t.power.promoted }) : keepSupply s t = t := by
  unfold keepSupply
  rw [← h1, ← h2, ← h3, ← h4, ← h5, ← h6, ← h9, ← h7, ← h8]

@[simp] theorem keepSupply_twice (s t : State) : keepSupply s (keepSupply s t) = keepSupply s t := rfl

/-! ### Numbered components do not belong to the supplies -/

@[simp] theorem queueOf_keepSupply (s t : State) (n : Nat) : queueOf (keepSupply s t) n = queueOf t n := rfl
@[simp] theorem slotOf_keepSupply (s t : State) (n : Nat) : slotOf (keepSupply s t) n = slotOf t n := rfl
@[simp] theorem cqOf_keepSupply (s t : State) (n : Nat) : cqOf (keepSupply s t) n = cqOf t n := rfl
@[simp] theorem eventOf_keepSupply (s t : State) (n : Nat) : eventOf (keepSupply s t) n = eventOf t n := rfl
@[simp] theorem bankOf_keepSupply (s t : State) (n : Nat) : bankOf (keepSupply s t) n = bankOf t n := rfl
@[simp] theorem portOf_keepSupply (s t : State) (n : Nat) : portOf (keepSupply s t) n = portOf t n := rfl
@[simp] theorem dieRateOf_keepSupply (s t : State) (n : Nat) : dieRateOf (keepSupply s t) n = dieRateOf t n := rfl
@[simp] theorem stackOf_keepSupply (s t : State) (n : Nat) : stackOf (keepSupply s t) n = stackOf t n := rfl
@[simp] theorem dieRepairOf_keepSupply (s t : State) (n : Nat) : dieRepairOf (keepSupply s t) n = dieRepairOf t n := rfl
@[simp] theorem errCtrOf_keepSupply (s t : State) (n : Nat) : errCtrOf (keepSupply s t) n = errCtrOf t n := rfl
@[simp] theorem partOf_keepSupply (s t : State) (n : Nat) : partOf (keepSupply s t) n = partOf t n := rfl
@[simp] theorem anlOf_keepSupply (s t : State) (n : Nat) : anlOf (keepSupply s t) n = anlOf t n := rfl
@[simp] theorem vecOf_keepSupply (s t : State) (n : Nat) : vecOf (keepSupply s t) n = vecOf t n := rfl
@[simp] theorem linkOf_keepSupply (s t : State) (n : Nat) : linkOf (keepSupply s t) n = linkOf t n := rfl
@[simp] theorem pairTxOf_keepSupply (s t : State) (n : Nat) : pairTxOf (keepSupply s t) n = pairTxOf t n := rfl
@[simp] theorem pairRxOf_keepSupply (s t : State) (n : Nat) : pairRxOf (keepSupply s t) n = pairRxOf t n := rfl
@[simp] theorem sourceOf_keepSupply (s t : State) (n : Nat) : sourceOf (keepSupply s t) n = sourceOf t n := rfl
@[simp] theorem clientOf_keepSupply (s t : State) (n : Nat) : clientOf (keepSupply s t) n = clientOf t n := rfl
@[simp] theorem sessOf_keepSupply (s t : State) (n : Nat) : sessOf (keepSupply s t) n = sessOf t n := rfl
@[simp] theorem ctxOf_keepSupply (s t : State) (n : Nat) : ctxOf (keepSupply s t) n = ctxOf t n := rfl
@[simp] theorem haltCause_keepSupply (s t : State) (n : Nat) : haltCause (keepSupply s t) n = haltCause t n := rfl
@[simp] theorem barOf_keepSupply (s t : State) (n m : Nat) : barOf (keepSupply s t) n m = barOf t n m := rfl
@[simp] theorem ctrOf_keepSupply (s t : State) (n m : Nat) : ctrOf (keepSupply s t) n m = ctrOf t n m := rfl
@[simp] theorem regActive_keepSupply (s t : State) (n m : Nat) : regActive (keepSupply s t) n m = regActive t n m := rfl

/-! ### Kinds of step -/

theorem stepEnd_off (t : State) (h : t.power.state = 0) : stepEnd t = t := if_pos h

theorem stepEnd_on (t : State) (h : t.power.state ≠ 0) : stepEnd t = keepSupply t (settleStep t) := if_neg h

@[simp] theorem stepEnd_pending (t : State) : (stepEnd t).pending = t.pending := by
  unfold stepEnd; split <;> simp

@[simp] theorem stepEnd_power_state (t : State) : (stepEnd t).power.state = t.power.state := by
  unfold stepEnd; split <;> simp

@[simp] theorem stepEnd_power_bootStep (t : State) : (stepEnd t).power.bootStep = t.power.bootStep := by
  unfold stepEnd; split <;> simp

@[simp] theorem stepEnd_power_standby (t : State) : (stepEnd t).power.standby = t.power.standby := by
  unfold stepEnd; split <;> simp

@[simp] theorem stepEnd_power_mainGood (t : State) : (stepEnd t).power.mainGood = t.power.mainGood := by
  unfold stepEnd; split <;> simp

@[simp] theorem stepEnd_time_boots (t : State) : (stepEnd t).time.boots = t.time.boots := by
  unfold stepEnd; split <;> simp

@[simp] theorem stepEnd_time_count (t : State) : (stepEnd t).time.count = t.time.count := by
  unfold stepEnd; split <;> simp

@[simp] theorem stepEnd_fuse_grade (t : State) : (stepEnd t).fuse.grade = t.fuse.grade := by
  unfold stepEnd; split <;> simp

theorem plainStep_off (f : State → State) (s : State) (h : s.power.state = 0) : plainStep f s = s := if_pos h

theorem plainStep_on (f : State → State) (s : State) (h : s.power.state ≠ 0) :
    plainStep f s = stepEnd (keepSupply s (f s)) := if_neg h

theorem poweredStep_off (f : State → State) (s : State) (h : s.power.state = 0) : poweredStep f s = s := if_pos h

theorem poweredStep_on (f : State → State) (s : State) (h : s.power.state ≠ 0) : poweredStep f s = stepEnd (f s) := if_neg h

/-! ### The parts of a step's end -/

theorem flushUpTo_empty (n : Nat) (s : State) (h : s.msg.queue = []) : flushUpTo n s = s := by
  cases n <;> simp [flushUpTo, h]

theorem flushMsgs_empty (s : State) (h : s.msg.queue = []) : flushMsgs s = s := flushUpTo_empty 64 s h

theorem tryHolds_empty (s : State) (h : s.fe.holds = []) : tryHolds s = s := by
  unfold tryHolds
  rw [h, releaseHolds, ← h]

theorem foldl_boundary_fixed (l : List (Nat × QueueSt)) (s : State) (h : ∀ x ∈ l, boundaryStep s x.1 = s) :
    l.foldl (fun s qx => boundaryStep s qx.1) s = s := by
  induction l with
  | nil => rfl
  | cons x l ih =>
    rw [List.foldl_cons, h x (List.mem_cons_self ..)]
    exact ih fun y hy => h y (List.mem_cons_of_mem _ hy)

theorem evalDue_nothing (n : Nat) (s : State) (h : s.fe.dueEvents = []) : evalDue n s = s := by
  cases n <;> simp [evalDue, h]

theorem evalSignals_nothing (s : State) (h : s.fe.dueEvents = []) : evalSignals s = s := evalDue_nothing _ s h

theorem boundaries_fixed (n : Nat) (s : State) (he : s.fe.dueEvents = []) (h : ∀ x ∈ s.fe.queues, boundaryStep s x.1 = s) :
    boundaries n s = s := by
  cases n with
  | zero => rfl
  | succ n => simp [boundaries, evalSignals_nothing s he, foldl_boundary_fixed s.fe.queues s h]

theorem runWaiting_empty (s : State) (h : s.power.waiting = []) : runWaiting s = s := by
  unfold runWaiting
  rw [h, List.filter_nil, List.filter_nil, List.foldl_nil, ← h]

theorem applyDue_nothing (s : State) (h1 : dueCells s = []) (h2 : endedCommits s = []) : applyDue s = s := by
  simp [applyDue, h1, h2]

end Sys2Proof.Machine
end

