-- ==== Sys2Proof/Laws/Errors.lean ====
section
/-!
SUPPORT. Sys2Proof/Laws/Errors.lean: a message changes the message queue alone, and a counted error changes the error counters and
that queue alone.
-/
namespace Sys2Proof.Machine

/-- A message changes what belongs to messages alone. -/
theorem sendMsg_eq (s : State) (typ sub arg body : Nat) :
    sendMsg s typ sub arg body = { s with msg := (sendMsg s typ sub arg body).msg } := by
  unfold sendMsg; split <;> rfl

/-- A crossing of a threshold changes error counters and messages alone. -/
theorem sendCrossing_eq (s : State) (key cat n : Nat) :
    sendCrossing s key cat n = { s with err := (sendCrossing s key cat n).err, msg := (sendCrossing s key cat n).msg } := by
  unfold sendCrossing; dsimp only; rw [sendMsg_eq]

/-- A counted error changes error counters and messages alone. -/
theorem countErr_eq (s : State) (key cat : Nat) :
    countErr s key cat = { s with err := (countErr s key cat).err, msg := (countErr s key cat).msg } := by
  unfold countErr; dsimp only
  split
  · rfl
  · split
    · rw [sendCrossing_eq]
    · split
      · rfl
      · rw [sendCrossing_eq]

@[simp] theorem sendMsg_pending (s : State) (typ sub arg body : Nat) : (sendMsg s typ sub arg body).pending = s.pending := by rw [sendMsg_eq]
@[simp] theorem sendMsg_fresh (s : State) (typ sub arg body : Nat) : (sendMsg s typ sub arg body).fresh = s.fresh := by rw [sendMsg_eq]
@[simp] theorem sendMsg_out (s : State) (typ sub arg body : Nat) : (sendMsg s typ sub arg body).out = s.out := by rw [sendMsg_eq]
@[simp] theorem sendMsg_fuse (s : State) (typ sub arg body : Nat) : (sendMsg s typ sub arg body).fuse = s.fuse := by rw [sendMsg_eq]
@[simp] theorem sendMsg_power (s : State) (typ sub arg body : Nat) : (sendMsg s typ sub arg body).power = s.power := by rw [sendMsg_eq]
@[simp] theorem sendMsg_time (s : State) (typ sub arg body : Nat) : (sendMsg s typ sub arg body).time = s.time := by rw [sendMsg_eq]
@[simp] theorem sendMsg_rate (s : State) (typ sub arg body : Nat) : (sendMsg s typ sub arg body).rate = s.rate := by rw [sendMsg_eq]
@[simp] theorem sendMsg_image (s : State) (typ sub arg body : Nat) : (sendMsg s typ sub arg body).image = s.image := by rw [sendMsg_eq]
@[simp] theorem sendMsg_cfg (s : State) (typ sub arg body : Nat) : (sendMsg s typ sub arg body).cfg = s.cfg := by rw [sendMsg_eq]
@[simp] theorem sendMsg_insts (s : State) (typ sub arg body : Nat) : (sendMsg s typ sub arg body).insts = s.insts := by rw [sendMsg_eq]
@[simp] theorem sendMsg_err (s : State) (typ sub arg body : Nat) : (sendMsg s typ sub arg body).err = s.err := by rw [sendMsg_eq]
@[simp] theorem sendMsg_mem (s : State) (typ sub arg body : Nat) : (sendMsg s typ sub arg body).mem = s.mem := by rw [sendMsg_eq]
@[simp] theorem sendMsg_integ (s : State) (typ sub arg body : Nat) : (sendMsg s typ sub arg body).integ = s.integ := by rw [sendMsg_eq]
@[simp] theorem sendMsg_banks (s : State) (typ sub arg body : Nat) : (sendMsg s typ sub arg body).banks = s.banks := by rw [sendMsg_eq]
@[simp] theorem sendMsg_fe (s : State) (typ sub arg body : Nat) : (sendMsg s typ sub arg body).fe = s.fe := by rw [sendMsg_eq]
@[simp] theorem sendMsg_host (s : State) (typ sub arg body : Nat) : (sendMsg s typ sub arg body).host = s.host := by rw [sendMsg_eq]
@[simp] theorem sendMsg_parts (s : State) (typ sub arg body : Nat) : (sendMsg s typ sub arg body).parts = s.parts := by rw [sendMsg_eq]
@[simp] theorem sendMsg_longs (s : State) (typ sub arg body : Nat) : (sendMsg s typ sub arg body).longs = s.longs := by rw [sendMsg_eq]
@[simp] theorem sendMsg_ent (s : State) (typ sub arg body : Nat) : (sendMsg s typ sub arg body).ent = s.ent := by rw [sendMsg_eq]
@[simp] theorem sendMsg_anl (s : State) (typ sub arg body : Nat) : (sendMsg s typ sub arg body).anl = s.anl := by rw [sendMsg_eq]
@[simp] theorem sendMsg_ses (s : State) (typ sub arg body : Nat) : (sendMsg s typ sub arg body).ses = s.ses := by rw [sendMsg_eq]
@[simp] theorem sendMsg_sync (s : State) (typ sub arg body : Nat) : (sendMsg s typ sub arg body).sync = s.sync := by rw [sendMsg_eq]
@[simp] theorem sendMsg_vec (s : State) (typ sub arg body : Nat) : (sendMsg s typ sub arg body).vec = s.vec := by rw [sendMsg_eq]
@[simp] theorem sendMsg_net (s : State) (typ sub arg body : Nat) : (sendMsg s typ sub arg body).net = s.net := by rw [sendMsg_eq]
@[simp] theorem sendMsg_dbg (s : State) (typ sub arg body : Nat) : (sendMsg s typ sub arg body).dbg = s.dbg := by rw [sendMsg_eq]

@[simp] theorem countErr_pending (s : State) (key cat : Nat) : (countErr s key cat).pending = s.pending := by rw [countErr_eq]
@[simp] theorem countErr_fresh (s : State) (key cat : Nat) : (countErr s key cat).fresh = s.fresh := by rw [countErr_eq]
@[simp] theorem countErr_out (s : State) (key cat : Nat) : (countErr s key cat).out = s.out := by rw [countErr_eq]
@[simp] theorem countErr_fuse (s : State) (key cat : Nat) : (countErr s key cat).fuse = s.fuse := by rw [countErr_eq]
@[simp] theorem countErr_power (s : State) (key cat : Nat) : (countErr s key cat).power = s.power := by rw [countErr_eq]
@[simp] theorem countErr_time (s : State) (key cat : Nat) : (countErr s key cat).time = s.time := by rw [countErr_eq]
@[simp] theorem countErr_rate (s : State) (key cat : Nat) : (countErr s key cat).rate = s.rate := by rw [countErr_eq]
@[simp] theorem countErr_image (s : State) (key cat : Nat) : (countErr s key cat).image = s.image := by rw [countErr_eq]
@[simp] theorem countErr_cfg (s : State) (key cat : Nat) : (countErr s key cat).cfg = s.cfg := by rw [countErr_eq]
@[simp] theorem countErr_insts (s : State) (key cat : Nat) : (countErr s key cat).insts = s.insts := by rw [countErr_eq]
@[simp] theorem countErr_mem (s : State) (key cat : Nat) : (countErr s key cat).mem = s.mem := by rw [countErr_eq]
@[simp] theorem countErr_integ (s : State) (key cat : Nat) : (countErr s key cat).integ = s.integ := by rw [countErr_eq]
@[simp] theorem countErr_banks (s : State) (key cat : Nat) : (countErr s key cat).banks = s.banks := by rw [countErr_eq]
@[simp] theorem countErr_fe (s : State) (key cat : Nat) : (countErr s key cat).fe = s.fe := by rw [countErr_eq]
@[simp] theorem countErr_host (s : State) (key cat : Nat) : (countErr s key cat).host = s.host := by rw [countErr_eq]
@[simp] theorem countErr_parts (s : State) (key cat : Nat) : (countErr s key cat).parts = s.parts := by rw [countErr_eq]
@[simp] theorem countErr_longs (s : State) (key cat : Nat) : (countErr s key cat).longs = s.longs := by rw [countErr_eq]
@[simp] theorem countErr_ent (s : State) (key cat : Nat) : (countErr s key cat).ent = s.ent := by rw [countErr_eq]
@[simp] theorem countErr_anl (s : State) (key cat : Nat) : (countErr s key cat).anl = s.anl := by rw [countErr_eq]
@[simp] theorem countErr_ses (s : State) (key cat : Nat) : (countErr s key cat).ses = s.ses := by rw [countErr_eq]
@[simp] theorem countErr_sync (s : State) (key cat : Nat) : (countErr s key cat).sync = s.sync := by rw [countErr_eq]
@[simp] theorem countErr_vec (s : State) (key cat : Nat) : (countErr s key cat).vec = s.vec := by rw [countErr_eq]
@[simp] theorem countErr_net (s : State) (key cat : Nat) : (countErr s key cat).net = s.net := by rw [countErr_eq]
@[simp] theorem countErr_dbg (s : State) (key cat : Nat) : (countErr s key cat).dbg = s.dbg := by rw [countErr_eq]

@[simp] theorem queueOf_countErr (s : State) (key cat n : Nat) : queueOf (countErr s key cat) n = queueOf s n := by rw [countErr_eq]; rfl
@[simp] theorem queueOf_sendMsg (s : State) (typ sub arg body n : Nat) : queueOf (sendMsg s typ sub arg body) n = queueOf s n := by rw [sendMsg_eq]; rfl
@[simp] theorem slotOf_countErr (s : State) (key cat n : Nat) : slotOf (countErr s key cat) n = slotOf s n := by rw [countErr_eq]; rfl
@[simp] theorem slotOf_sendMsg (s : State) (typ sub arg body n : Nat) : slotOf (sendMsg s typ sub arg body) n = slotOf s n := by rw [sendMsg_eq]; rfl
@[simp] theorem cqOf_countErr (s : State) (key cat n : Nat) : cqOf (countErr s key cat) n = cqOf s n := by rw [countErr_eq]; rfl
@[simp] theorem cqOf_sendMsg (s : State) (typ sub arg body n : Nat) : cqOf (sendMsg s typ sub arg body) n = cqOf s n := by rw [sendMsg_eq]; rfl
@[simp] theorem eventOf_countErr (s : State) (key cat n : Nat) : eventOf (countErr s key cat) n = eventOf s n := by rw [countErr_eq]; rfl
@[simp] theorem eventOf_sendMsg (s : State) (typ sub arg body n : Nat) : eventOf (sendMsg s typ sub arg body) n = eventOf s n := by rw [sendMsg_eq]; rfl
@[simp] theorem bankOf_countErr (s : State) (key cat n : Nat) : bankOf (countErr s key cat) n = bankOf s n := by rw [countErr_eq]; rfl
@[simp] theorem bankOf_sendMsg (s : State) (typ sub arg body n : Nat) : bankOf (sendMsg s typ sub arg body) n = bankOf s n := by rw [sendMsg_eq]; rfl
@[simp] theorem portOf_countErr (s : State) (key cat n : Nat) : portOf (countErr s key cat) n = portOf s n := by rw [countErr_eq]; rfl
@[simp] theorem portOf_sendMsg (s : State) (typ sub arg body n : Nat) : portOf (sendMsg s typ sub arg body) n = portOf s n := by rw [sendMsg_eq]; rfl
@[simp] theorem dieRateOf_countErr (s : State) (key cat n : Nat) : dieRateOf (countErr s key cat) n = dieRateOf s n := by rw [countErr_eq]; rfl
@[simp] theorem dieRateOf_sendMsg (s : State) (typ sub arg body n : Nat) : dieRateOf (sendMsg s typ sub arg body) n = dieRateOf s n := by rw [sendMsg_eq]; rfl
@[simp] theorem stackOf_countErr (s : State) (key cat n : Nat) : stackOf (countErr s key cat) n = stackOf s n := by rw [countErr_eq]; rfl
@[simp] theorem stackOf_sendMsg (s : State) (typ sub arg body n : Nat) : stackOf (sendMsg s typ sub arg body) n = stackOf s n := by rw [sendMsg_eq]; rfl
@[simp] theorem dieRepairOf_countErr (s : State) (key cat n : Nat) : dieRepairOf (countErr s key cat) n = dieRepairOf s n := by rw [countErr_eq]; rfl
@[simp] theorem dieRepairOf_sendMsg (s : State) (typ sub arg body n : Nat) : dieRepairOf (sendMsg s typ sub arg body) n = dieRepairOf s n := by rw [sendMsg_eq]; rfl
@[simp] theorem partOf_countErr (s : State) (key cat n : Nat) : partOf (countErr s key cat) n = partOf s n := by rw [countErr_eq]; rfl
@[simp] theorem partOf_sendMsg (s : State) (typ sub arg body n : Nat) : partOf (sendMsg s typ sub arg body) n = partOf s n := by rw [sendMsg_eq]; rfl
@[simp] theorem anlOf_countErr (s : State) (key cat n : Nat) : anlOf (countErr s key cat) n = anlOf s n := by rw [countErr_eq]; rfl
@[simp] theorem anlOf_sendMsg (s : State) (typ sub arg body n : Nat) : anlOf (sendMsg s typ sub arg body) n = anlOf s n := by rw [sendMsg_eq]; rfl
@[simp] theorem vecOf_countErr (s : State) (key cat n : Nat) : vecOf (countErr s key cat) n = vecOf s n := by rw [countErr_eq]; rfl
@[simp] theorem vecOf_sendMsg (s : State) (typ sub arg body n : Nat) : vecOf (sendMsg s typ sub arg body) n = vecOf s n := by rw [sendMsg_eq]; rfl
@[simp] theorem linkOf_countErr (s : State) (key cat n : Nat) : linkOf (countErr s key cat) n = linkOf s n := by rw [countErr_eq]; rfl
@[simp] theorem linkOf_sendMsg (s : State) (typ sub arg body n : Nat) : linkOf (sendMsg s typ sub arg body) n = linkOf s n := by rw [sendMsg_eq]; rfl
@[simp] theorem pairTxOf_countErr (s : State) (key cat n : Nat) : pairTxOf (countErr s key cat) n = pairTxOf s n := by rw [countErr_eq]; rfl
@[simp] theorem pairTxOf_sendMsg (s : State) (typ sub arg body n : Nat) : pairTxOf (sendMsg s typ sub arg body) n = pairTxOf s n := by rw [sendMsg_eq]; rfl
@[simp] theorem pairRxOf_countErr (s : State) (key cat n : Nat) : pairRxOf (countErr s key cat) n = pairRxOf s n := by rw [countErr_eq]; rfl
@[simp] theorem pairRxOf_sendMsg (s : State) (typ sub arg body n : Nat) : pairRxOf (sendMsg s typ sub arg body) n = pairRxOf s n := by rw [sendMsg_eq]; rfl
@[simp] theorem sourceOf_countErr (s : State) (key cat n : Nat) : sourceOf (countErr s key cat) n = sourceOf s n := by rw [countErr_eq]; rfl
@[simp] theorem sourceOf_sendMsg (s : State) (typ sub arg body n : Nat) : sourceOf (sendMsg s typ sub arg body) n = sourceOf s n := by rw [sendMsg_eq]; rfl
@[simp] theorem clientOf_countErr (s : State) (key cat n : Nat) : clientOf (countErr s key cat) n = clientOf s n := by rw [countErr_eq]; rfl
@[simp] theorem clientOf_sendMsg (s : State) (typ sub arg body n : Nat) : clientOf (sendMsg s typ sub arg body) n = clientOf s n := by rw [sendMsg_eq]; rfl
@[simp] theorem sessOf_countErr (s : State) (key cat n : Nat) : sessOf (countErr s key cat) n = sessOf s n := by rw [countErr_eq]; rfl
@[simp] theorem sessOf_sendMsg (s : State) (typ sub arg body n : Nat) : sessOf (sendMsg s typ sub arg body) n = sessOf s n := by rw [sendMsg_eq]; rfl
@[simp] theorem ctxOf_countErr (s : State) (key cat n : Nat) : ctxOf (countErr s key cat) n = ctxOf s n := by rw [countErr_eq]; rfl
@[simp] theorem ctxOf_sendMsg (s : State) (typ sub arg body n : Nat) : ctxOf (sendMsg s typ sub arg body) n = ctxOf s n := by rw [sendMsg_eq]; rfl

end Sys2Proof.Machine
end

