-- ==== Sys2Proof/Laws/Front.lean ====
section
/-!
SUPPORT. Sys2Proof/Laws/Front.lean: the end of a command: what `complete` leaves when its record fits, and the status that
R497's order picks.
-/
namespace Sys2Proof.Machine

variable {s : State} {k q op : Nat} {c : Fetched}

theorem Running.runningCmd (h : Running s k q op c) : runningCmd s k op = some c := by
  simp [Machine.runningCmd, h.cmd, h.state, h.opcode]

/-! ### What the registers note of an end -/

@[simp] theorem noteEnd_fuse (s : State) (k op st : Nat) : (noteEnd s k op st).fuse = s.fuse := by
  unfold noteEnd; dsimp only; split <;> split <;> rfl

@[simp] theorem noteEnd_msg (s : State) (k op st : Nat) : (noteEnd s k op st).msg = s.msg := by
  unfold noteEnd; dsimp only; split <;> split <;> rfl

@[simp] theorem noteEnd_mem (s : State) (k op st : Nat) : (noteEnd s k op st).mem = s.mem := by
  unfold noteEnd; dsimp only; split <;> split <;> rfl

@[simp] theorem cqFull_noteEnd (s : State) (k op st c : Nat) : cqFull (noteEnd s k op st) c = cqFull s c := by
  unfold noteEnd; dsimp only; split <;> split <;> rfl

/-- An end that is no progress and no image command's leaves nothing. -/
theorem noteEnd_none (s : State) (k op st : Nat) (h : endIsProgress op = false) (h1 : op ≠ 0x70) (h2 : op ≠ 0x71) :
    noteEnd s k op st = s := by
  simp [noteEnd, h, h1, h2]

/-- The record of a command that fits its ring is written at once. -/
theorem complete_ended (h : Running s k q op c) (r : RecordFits s c) (d : Done) : complete s k d = ended s k q c d := by
  unfold complete
  rw [h.cmd, h.queue]
  have hd : noDispatcher (noteEnd s k (opcodeOf c.bits) d.status) = false := by
    rw [← r.dispatcher]; simp [noDispatcher]
  have hm : flushMsgs (noteEnd s k (opcodeOf c.bits) d.status) = noteEnd s k (opcodeOf c.bits) d.status :=
    flushMsgs_empty _ (by simp [r.messages])
  simp only [finish, r.dispatcher, Bool.false_eq_true, if_false, hm, hd, cqFull_noteEnd, r.space]
  unfold ended; dsimp only
  by_cases hs : isSilent c.bits = true ∧ d.status = stOk
  · rw [if_pos hs, if_pos hs]
  · rw [if_neg hs, if_neg hs]

/-- OK is picked when nothing else applies. -/
theorem pickStatus_ok : pickStatus defaultOrder [stOk] = stOk := by decide

theorem completeAs_ok (h : Running s k q op c) (r : RecordFits s c) (detail : Nat) :
    completeAs s k stOk detail = ended s k q c (doneWith stOk detail) := by
  unfold completeAs
  rw [h.flags, pickStatus_ok]
  exact complete_ended h r _

theorem pickStatus_format : pickStatus defaultOrder [stFormat] = stFormat := by decide

theorem completeAs_format (h : Running s k q op c) (r : RecordFits s c) (detail : Nat) :
    completeAs s k stFormat detail = ended s k q c (doneWith stFormat detail) := by
  unfold completeAs
  rw [h.flags, pickStatus_format]
  exact complete_ended h r _

/-- Freeing a slot changes neither memory nor any other slot. -/
@[simp] theorem clearSlot_mem (s : State) (k : Nat) : (clearSlot s k).mem = (releaseParts s k).mem := rfl

end Sys2Proof.Machine
end

