-- ==== Sys2Proof/Laws/Memory.lean ====
section
/-!
SUPPORT. Sys2Proof/Laws/Memory.lean: bytes of memory: a read after a write, the bytes that a write leaves alone, and the
canonical form that every write keeps.
-/
namespace Sys2Proof.Machine

/-! ### Runs of bytes -/

theorem setBytes_below (bs : List Byte) (m : List Host.Cell) (a x : Nat) (h : x < a) :
    mget 0#8 (setBytes m a bs) x = mget 0#8 m x := by
  induction bs generalizing m a with
  | nil => rfl
  | cons b bs ih =>
    rw [setBytes, ih _ _ (by omega), setByte, mget_mput, if_neg (by omega)]

/-- A byte outside the bytes written reads as before. -/
theorem setBytes_outside (bs : List Byte) (m : List Host.Cell) (a x : Nat) (h : x < a ∨ a + bs.length ≤ x) :
    mget 0#8 (setBytes m a bs) x = mget 0#8 m x := by
  induction bs generalizing m a with
  | nil => rfl
  | cons b bs ih =>
    rw [List.length_cons] at h
    rw [setBytes, ih _ _ (by omega), setByte, mget_mput, if_neg (by omega)]

/-- A byte that was written reads as written. -/
theorem setBytes_inside (bs : List Byte) (m : List Host.Cell) (a i : Nat) (h : i < bs.length) :
    mget 0#8 (setBytes m a bs) (a + i) = bs[i] := by
  induction bs generalizing m a i with
  | nil => simp at h
  | cons b bs ih =>
    rw [setBytes]
    cases i with
    | zero => rw [setBytes_below _ _ _ _ (by omega), setByte]; simp
    | succ i =>
      have := ih (setByte m a b) (a + 1) i (by simpa using h)
      rw [show a + (i + 1) = a + 1 + i by omega, this]; simp

/-- Writing bytes keeps the canonical form. -/
theorem setBytes_wf (bs : List Byte) (m : List Host.Cell) (a : Nat) (h : Memory.wf m) : Memory.wf (setBytes m a bs) := by
  induction bs generalizing m a with
  | nil => exact h
  | cons b bs ih => exact ih _ _ (mput_canonical _ _ _ _ h)

theorem flipData_wf (m : List Host.Cell) (base d : Nat) (h : Memory.wf m) : Memory.wf (flipData m base d) :=
  mput_canonical _ _ _ _ h

/-- A correction, an injected error and an upset keep the canonical form. -/
theorem flipAll_wf (bits : List Nat) (m : List Host.Cell) (base : Nat) (h : Memory.wf m) : Memory.wf (flipAll m base bits) := by
  unfold flipAll
  induction bits generalizing m with
  | nil => exact h
  | cons d bits ih =>
    rw [List.foldl_cons]
    split
    · exact ih _ (flipData_wf _ _ _ h)
    · exact ih _ h

/-! ### What counts and reports leave memory alone -/

@[simp] theorem reportPoison_mem (s : State) (base : Nat) : (reportPoison s base).mem = s.mem := by
  unfold reportPoison; dsimp only
  repeat' split
  all_goals simp

@[simp] theorem stackPoison_mem (s : State) (base : Nat) : (stackPoison s base).mem = s.mem := by
  unfold stackPoison
  split <;> simp

@[simp] theorem notePoison_mem (s : State) (base : Nat) : (notePoison s base).mem = s.mem := by
  unfold notePoison; simp

@[simp] theorem noteCorrected_mem (s : State) (base : Nat) : (noteCorrected s base).mem = s.mem := by
  unfold noteCorrected; dsimp only
  split <;> simp

@[simp] theorem repairExhausted_mem (s : State) (base : Nat) : (repairExhausted s base).mem = s.mem := by
  unfold repairExhausted
  split <;> simp

@[simp] theorem repairRow_mem (s : State) (base : Nat) : (repairRow s base).2.mem = s.mem := by
  unfold repairRow; dsimp only
  split <;> split <;> simp

@[simp] theorem writeBack_mem (s : State) (base : Nat) (hard : Bool) (e stay : EccCell) :
    (writeBack s base hard e stay).mem = s.mem := by
  unfold writeBack
  split <;> simp

@[simp] theorem takeReport_mem (s : State) (base : Nat) (e : EccCell) : (takeReport s base e).1.mem = s.mem := by
  unfold takeReport
  split <;> simp

@[simp] theorem noteConsumed_mem (s : State) (n : Nat) : (noteConsumed s n).mem = s.mem := rfl

@[simp] theorem countRefused_mem (s : State) (w : Refuse) : (countRefused s w).mem = s.mem := by
  unfold countRefused
  split <;> simp [syncRefused]

/-! ### Every operation on memory keeps the canonical form -/

theorem foldl_wf {α : Type} (f : State → α → State) (h : ∀ s x, Memory.wf s.mem → Memory.wf (f s x).mem) (l : List α) (s : State)
    (hs : Memory.wf s.mem) : Memory.wf (l.foldl f s).mem := by
  induction l generalizing s with
  | nil => exact hs
  | cons x l ih => exact ih _ (h s x hs)

theorem touchCw_wf (s : State) (base : Nat) (e : EccCell) (h : Memory.wf s.mem) : Memory.wf (touchCw s base e).mem := by
  unfold touchCw
  have h0 : Memory.wf (takeReport s base e).1.mem := by rw [takeReport_mem]; exact h
  revert h0
  generalize takeReport s base e = x
  obtain ⟨s0, e'⟩ := x
  intro h0
  dsimp only
  split
  · exact h0
  · exact h0
  · rw [writeBack_mem, noteCorrected_mem]; exact flipAll_wf _ _ _ h0
  · rw [writeBack_mem, notePoison_mem]; exact h0

theorem touch_wf (s : State) (a n : Nat) (h : Memory.wf s.mem) : Memory.wf (touch s a n).mem :=
  foldl_wf _ (fun s x hs => touchCw_wf s x.1 x.2 hs) _ _ h

theorem touchNarrow_wf (s : State) (a n : Nat) (h : Memory.wf s.mem) : Memory.wf (touchNarrow s a n).mem :=
  foldl_wf _ (fun s x hs => show Memory.wf (touchCw s x.1 x.2).mem from touchCw_wf s x.1 x.2 hs) _ _ h

theorem inject_wf (s : State) (a n : Nat) (h : Memory.wf s.mem) : Memory.wf (inject s a n).mem := by
  unfold inject; dsimp only
  split
  · exact h
  · exact flipAll_wf _ _ _ h

theorem storeMem_wf (s : State) (a : Nat) (bs : List PByte) (h : Memory.wf s.mem) : Memory.wf (storeMem s a bs).mem :=
  inject_wf _ _ _ (setBytes_wf _ _ _ (touchNarrow_wf _ _ _ h))

theorem upsets_wf (us : List Upset) (s : State) (h : Memory.wf s.mem) : Memory.wf (upsets s us).mem := by
  refine foldl_wf _ (fun s u hs => ?_) _ _ h
  unfold upset
  split
  · exact hs
  · exact flipAll_wf _ _ _ hs

theorem aliasWrite_wf (set : Bool) (s : State) (a : Nat) (bs : List PByte) (h : Memory.wf s.mem) :
    Memory.wf (aliasWrite set s a bs).mem := by
  refine foldl_wf _ (fun s w hs => ?_) _ _ (touch_wf _ _ _ h)
  unfold aliasWord
  split
  · exact hs
  · exact storeMem_wf _ _ _ hs

theorem writePiece_wf (s : State) (a : Nat) (bs : List PByte) (h : Memory.wf s.mem) : Memory.wf (writePiece s a bs).mem := by
  unfold writePiece
  split
  · exact aliasWrite_wf _ _ _ _ h
  · exact aliasWrite_wf _ _ _ _ h
  · exact storeMem_wf _ _ _ h
  · exact storeMem_wf _ _ _ h
  · exact storeMem_wf _ _ _ h
  · exact h

/-- A write of any requester into local memory keeps the canonical form. -/
theorem localWrite_wf (s : State) (r a : Nat) (bs : List PByte) (h : Memory.wf s.mem) : Memory.wf (localWrite s r a bs).2.mem := by
  unfold localWrite
  generalize pieces s a bs.length = ps
  suffices hx : ∀ x : Bool × State, Memory.wf x.2.mem → Memory.wf ((ps.foldl (fun (x : Bool × State) p =>
      match refusedAt x.2 r true p.1 with
      | some (.sync c) => (x.1, countRefused x.2 (.sync c))
      | some w => (true, countRefused x.2 w)
      | none => (x.1, writePiece x.2 p.1 ((bs.drop (p.1 - a)).take p.2))) x).2.mem) from hx (false, s) h
  induction ps with
  | nil => intro x hx; exact hx
  | cons p ps ih =>
    intro x hx
    refine ih _ ?_
    dsimp only
    split
    · simpa using hx
    · simpa using hx
    · exact writePiece_wf _ _ _ hx

/-- A checked read of local memory keeps the canonical form. -/
theorem localRead_wf (s : State) (r a n : Nat) (h : Memory.wf s.mem) : Memory.wf (localRead s r a n).state.mem := by
  unfold localRead
  generalize pieces s a n = ps
  suffices hx : ∀ x : Access, Memory.wf x.state.mem → Memory.wf (ps.foldl (readPiece r) x).state.mem from hx _ h
  induction ps with
  | nil => intro x hx; exact hx
  | cons p ps ih =>
    intro x hx
    refine ih _ ?_
    unfold readPiece
    split
    · simpa using hx
    · exact touch_wf _ _ _ hx

theorem reset_mem_wf : Memory.wf State.reset.mem := by decide

/-! ### Sound memory -/

/-- With no faulty codeword listed, a read decodes nothing. -/
theorem touch_sound (s : State) (a n : Nat) (h : s.integ.ecc = []) : touch s a n = s := by
  simp [touch, h]

theorem markPoisoned_clean (m : AMap EccCell) (a : Nat) (bs : List PByte) (h : ∀ b ∈ bs, b.2 = false) : markPoisoned m a bs = m := by
  induction bs generalizing m a with
  | nil => rfl
  | cons b bs ih =>
    obtain ⟨v, p⟩ := b
    have hp : p = false := h (v, p) (List.mem_cons_self ..)
    rw [markPoisoned, hp]
    exact ih _ _ fun x hx => h x (List.mem_cons_of_mem _ hx)

/-- A write of clean bytes where nothing is faulty and MEM_INJECT is off stores them, and does nothing else. -/
theorem storeMem_sound (s : State) (a : Nat) (bs : List PByte) (h : s.integ.ecc = []) (hb : ∀ b ∈ bs, b.2 = false)
    (hi : fld (regActive s injectOffset 0) 63 62 = 0) : storeMem s a bs = { s with mem := setBytes s.mem a (dataOf bs) } := by
  have ht : touchNarrow s a bs.length = s := by simp [touchNarrow, h]
  unfold storeMem
  simp only [ht, h, List.filter_nil, markPoisoned_clean [] a bs hb]
  unfold inject
  dsimp only
  have hr : regActive { s with mem := setBytes s.mem a (dataOf bs), integ := { s.integ with ecc := [] } } injectOffset 0
      = regActive s injectOffset 0 := rfl
  rw [hr, hi, if_pos (Or.inl rfl), ← h]

end Sys2Proof.Machine
end

