-- ==== Sys2Proof/Laws/Access.lean ====
section
/-!
SUPPORT. Sys2Proof/Laws/Access.lean: what an access may change: memory and its integrity, banks, counters and messages, fences and
sync units that refuse it, host windows, links and outputs, and the injection register that it uses up. Everything else stays.
-/
namespace Sys2Proof.Machine

/-- t differs from s in nothing that an access does not change. -/
structure Reached (s t : State) : Prop where
  frame : t = { s with out := t.out, cfg := t.cfg, err := t.err, msg := t.msg, mem := t.mem, integ := t.integ, banks := t.banks,
                       host := t.host, anl := t.anl, sync := t.sync, net := t.net }
  cells : ∀ o, o ≠ injectOffset → mfind t.cfg o = mfind s.cfg o

namespace Reached

theorem refl (s : State) : Reached s s := ⟨rfl, fun _ _ => rfl⟩

theorem trans {s t u : State} (h : Reached s t) (g : Reached t u) : Reached s u :=
  ⟨by rw [g.frame, h.frame], fun o ho => (g.cells o ho).trans (h.cells o ho)⟩

variable {s t : State}

theorem pending (h : Reached s t) : t.pending = s.pending := by rw [h.frame]
theorem fresh (h : Reached s t) : t.fresh = s.fresh := by rw [h.frame]
theorem fuse (h : Reached s t) : t.fuse = s.fuse := by rw [h.frame]
theorem power (h : Reached s t) : t.power = s.power := by rw [h.frame]
theorem time (h : Reached s t) : t.time = s.time := by rw [h.frame]
theorem rate (h : Reached s t) : t.rate = s.rate := by rw [h.frame]
theorem image (h : Reached s t) : t.image = s.image := by rw [h.frame]
theorem insts (h : Reached s t) : t.insts = s.insts := by rw [h.frame]
theorem fe (h : Reached s t) : t.fe = s.fe := by rw [h.frame]
theorem parts (h : Reached s t) : t.parts = s.parts := by rw [h.frame]
theorem longs (h : Reached s t) : t.longs = s.longs := by rw [h.frame]
theorem ent (h : Reached s t) : t.ent = s.ent := by rw [h.frame]
theorem ses (h : Reached s t) : t.ses = s.ses := by rw [h.frame]
theorem vec (h : Reached s t) : t.vec = s.vec := by rw [h.frame]
theorem dbg (h : Reached s t) : t.dbg = s.dbg := by rw [h.frame]

theorem regActive (h : Reached s t) (o d : Nat) (ho : o ≠ injectOffset) : Machine.regActive t o d = Machine.regActive s o d := by
  unfold Machine.regActive; rw [h.cells o ho]
theorem queueOf (h : Reached s t) (q : Nat) : Machine.queueOf t q = Machine.queueOf s q := by unfold Machine.queueOf; rw [h.fe]
theorem slotOf (h : Reached s t) (k : Nat) : Machine.slotOf t k = Machine.slotOf s k := by unfold Machine.slotOf; rw [h.fe]
theorem cqOf (h : Reached s t) (c : Nat) : Machine.cqOf t c = Machine.cqOf s c := by unfold Machine.cqOf; rw [h.fe]
theorem partOf (h : Reached s t) (n : Nat) : Machine.partOf t n = Machine.partOf s n := by unfold Machine.partOf; rw [h.parts]

/-- A run of accesses. -/
theorem foldl {α : Type} (f : State → α → State) (h : ∀ s x, Reached s (f s x)) (l : List α) (s : State) : Reached s (l.foldl f s) := by
  induction l generalizing s with
  | nil => exact refl s
  | cons x l ih => exact (h s x).trans (ih _)

end Reached

/-! ### Parts of the state that an access may change -/

theorem setMem_reached (s : State) (m : List Host.Cell) : Reached s { s with mem := m } := ⟨rfl, fun _ _ => rfl⟩
theorem setInteg_reached (s : State) (i : IntegritySt) : Reached s { s with integ := i } := ⟨rfl, fun _ _ => rfl⟩
theorem setMemInteg_reached (s : State) (m : List Host.Cell) (i : IntegritySt) : Reached s { s with mem := m, integ := i } :=
  ⟨rfl, fun _ _ => rfl⟩
theorem setBanks_reached (s : State) (b : AMap BankSt) : Reached s { s with banks := b } := ⟨rfl, fun _ _ => rfl⟩
theorem setHost_reached (s : State) (h : HostSt) : Reached s { s with host := h } := ⟨rfl, fun _ _ => rfl⟩
theorem setNet_reached (s : State) (n : LinksSt) : Reached s { s with net := n } := ⟨rfl, fun _ _ => rfl⟩
theorem setAnls_reached (s : State) (a : AMap AnlSt) : Reached s { s with anl := a } := ⟨rfl, fun _ _ => rfl⟩
theorem setSync_reached (s : State) (y : SyncSt) : Reached s { s with sync := y } := ⟨rfl, fun _ _ => rfl⟩
theorem setMsg_reached (s : State) (m : MsgSt) : Reached s { s with msg := m } := ⟨rfl, fun _ _ => rfl⟩
theorem emit_reached (s : State) (o : Output) : Reached s (emit s o) := ⟨rfl, fun _ _ => rfl⟩

/-! ### Counters and messages -/

theorem sendMsg_reached (s : State) (typ sub arg body : Nat) : Reached s (sendMsg s typ sub arg body) :=
  ⟨by rw [sendMsg_eq], fun _ _ => by rw [sendMsg_cfg]⟩

theorem countErr_reached (s : State) (key cat : Nat) : Reached s (countErr s key cat) :=
  ⟨by rw [countErr_eq], fun _ _ => by rw [countErr_cfg]⟩

theorem noteMoved_reached (s : State) (n : Nat) : Reached s (noteMoved s n) := ⟨rfl, fun _ _ => rfl⟩
theorem noteConsumed_reached (s : State) (n : Nat) : Reached s (noteConsumed s n) := ⟨rfl, fun _ _ => rfl⟩

theorem reportPoison_reached (s : State) (base : Nat) : Reached s (reportPoison s base) := by
  unfold reportPoison; dsimp only
  split
  · exact setInteg_reached s _
  · generalize ht : sendMsg s _ _ _ _ = t
    have h : Reached s t := by rw [← ht]; exact sendMsg_reached s _ _ _ _
    exact h.trans (setInteg_reached t _)

theorem stackPoison_reached (s : State) (base : Nat) : Reached s (stackPoison s base) := by
  unfold stackPoison
  split
  · exact setInteg_reached s _
  · exact Reached.refl s

theorem notePoison_reached (s : State) (base : Nat) : Reached s (notePoison s base) :=
  (countErr_reached s _ _).trans ((setInteg_reached _ _).trans ((stackPoison_reached _ _).trans (reportPoison_reached _ _)))

theorem noteCorrected_reached (s : State) (base : Nat) : Reached s (noteCorrected s base) := by
  have h1 := countErr_reached s (memErrKey s base) catCorrected
  unfold noteCorrected; dsimp only
  refine h1.trans ?_
  split <;> exact ⟨rfl, fun _ _ => rfl⟩

theorem repairExhausted_reached (s : State) (base : Nat) : Reached s (repairExhausted s base) := by
  unfold repairExhausted
  split
  · exact (setInteg_reached s _).trans (countErr_reached _ _ _)
  · exact (setInteg_reached s _).trans (countErr_reached _ _ _)

theorem repairRow_reached (s : State) (base : Nat) : Reached s (repairRow s base).2 := by
  unfold repairRow; dsimp only
  split <;> split <;> first | exact repairExhausted_reached s base | exact ⟨rfl, fun _ _ => rfl⟩

theorem writeBack_reached (s : State) (base : Nat) (hard : Bool) (e stay : EccCell) : Reached s (writeBack s base hard e stay) := by
  unfold writeBack
  split
  · exact (repairRow_reached s base).trans (setInteg_reached _ _)
  · exact setInteg_reached s _

theorem takeReport_reached (s : State) (base : Nat) (e : EccCell) : Reached s (takeReport s base e).1 := by
  unfold takeReport
  split
  · exact ((setInteg_reached s _).trans (countErr_reached _ _ _)).trans (setInteg_reached _ _)
  · exact Reached.refl s

/-! ### Reads -/

theorem touchCw_reached (s : State) (base : Nat) (e : EccCell) : Reached s (touchCw s base e) := by
  unfold touchCw
  have h0 := takeReport_reached s base e
  revert h0
  generalize takeReport s base e = x
  obtain ⟨s0, e'⟩ := x
  intro h0
  dsimp only
  split
  · exact h0
  · exact h0
  · exact h0.trans ((setMem_reached s0 _).trans ((noteCorrected_reached _ _).trans (writeBack_reached _ _ _ _ _)))
  · exact h0.trans ((notePoison_reached _ _).trans (writeBack_reached _ _ _ _ _))

theorem narrowCw_reached (s : State) (base : Nat) (e : EccCell) : Reached s (narrowCw s base e) :=
  (touchCw_reached s base e).trans (setInteg_reached _ _)

theorem touch_reached (s : State) (a n : Nat) : Reached s (touch s a n) :=
  Reached.foldl (fun s (x : Nat × EccCell) => touchCw s x.1 x.2) (fun s x => touchCw_reached s x.1 x.2) _ s

theorem countRefused_reached (s : State) (w : Refuse) : Reached s (countRefused s w) := by
  unfold countRefused
  split
  · exact (setBanks_reached s _).trans (countErr_reached _ _ _)
  · exact setAnls_reached s _
  · exact setSync_reached s _

/-- A read of local memory. -/
theorem localRead_reached (s : State) (r a n : Nat) : Reached s (localRead s r a n).state := by
  unfold localRead
  generalize pieces s a n = ps
  suffices hx : ∀ x : Access, Reached x.state (ps.foldl (readPiece r) x).state from hx { bytes := [], refused := false, state := s }
  induction ps with
  | nil => intro x; exact Reached.refl _
  | cons p ps ih =>
    intro x
    refine Reached.trans ?_ (ih _)
    unfold readPiece
    split
    · exact countRefused_reached _ _
    · exact touch_reached _ _ _

theorem localTouch_reached (s : State) (r a n : Nat) : Reached s (localTouch s r a n).2 := by
  unfold localTouch
  dsimp only
  generalize pieces s a n = ps
  suffices hx : ∀ x : Bool × State, Reached x.2 ((ps.foldl (fun (x : Bool × State) p =>
      match refusedAt x.2 r false p.1 with
      | some w => (true, countRefused x.2 w)
      | none => (x.1, touch x.2 (plainAddr x.2 p.1) p.2)) x).2) from hx (false, s)
  induction ps with
  | nil => intro x; exact Reached.refl _
  | cons p ps ih =>
    intro x
    refine Reached.trans ?_ (ih _)
    dsimp only
    split <;> dsimp only
    · exact countRefused_reached _ _
    · exact touch_reached _ _ _

/-! ### Writes -/

theorem inject_reached (s : State) (a n : Nat) : Reached s (inject s a n) := by
  unfold inject; dsimp only
  split
  · exact Reached.refl s
  · exact ⟨rfl, fun o ho => by show mfind (mins s.cfg injectOffset _) o = _; rw [mfind_mins, if_neg ho]⟩

theorem storeMem_reached (s : State) (a : Nat) (bs : List PByte) : Reached s (storeMem s a bs) := by
  have h := Reached.foldl (fun s (x : Nat × EccCell) => narrowCw s x.1 x.2) (fun s x => narrowCw_reached s x.1 x.2)
    (s.integ.ecc.filter (fun ce => meets a bs.length ce.1 && !covers a bs.length ce.1)) s
  change Reached s (touchNarrow s a bs.length) at h
  unfold storeMem; dsimp only
  refine h.trans (Reached.trans ?_ (inject_reached _ _ _))
  exact setMemInteg_reached _ _ _

theorem upsets_reached (us : List Upset) (s : State) : Reached s (upsets s us) := by
  refine Reached.foldl _ (fun s u => ?_) _ _
  unfold upset
  split
  · exact Reached.refl s
  · exact ⟨rfl, fun _ _ => rfl⟩

theorem aliasWrite_reached (set : Bool) (s : State) (a : Nat) (bs : List PByte) : Reached s (aliasWrite set s a bs) := by
  refine (touch_reached s a bs.length).trans (Reached.foldl _ (fun s w => ?_) _ _)
  unfold aliasWord
  split
  · exact noteConsumed_reached _ _
  · exact storeMem_reached _ _ _

theorem writePiece_reached (s : State) (a : Nat) (bs : List PByte) : Reached s (writePiece s a bs) := by
  unfold writePiece
  split
  · exact aliasWrite_reached _ _ _ _
  · exact aliasWrite_reached _ _ _ _
  · exact storeMem_reached _ _ _
  · exact storeMem_reached _ _ _
  · exact storeMem_reached _ _ _
  · exact Reached.refl s

/-- A write into local memory. -/
theorem localWrite_reached (s : State) (r a : Nat) (bs : List PByte) : Reached s (localWrite s r a bs).2 := by
  unfold localWrite
  generalize pieces s a bs.length = ps
  suffices hx : ∀ x : Bool × State, Reached x.2 ((ps.foldl (fun (x : Bool × State) p =>
      match refusedAt x.2 r true p.1 with
      | some (.sync c) => (x.1, countRefused x.2 (.sync c))
      | some w => (true, countRefused x.2 w)
      | none => (x.1, writePiece x.2 p.1 ((bs.drop (p.1 - a)).take p.2))) x).2) from hx (false, s)
  induction ps with
  | nil => intro x; exact Reached.refl _
  | cons p ps ih =>
    intro x
    refine Reached.trans ?_ (ih _)
    dsimp only
    split <;> dsimp only
    · exact countRefused_reached _ _
    · exact countRefused_reached _ _
    · exact writePiece_reached _ _ _

/-! ### Beyond the module -/

theorem forward_reached (s : State) (p : Packet) : Reached s (forward s p) := by
  unfold forward forwardFrom
  split
  · dsimp only; exact ⟨rfl, fun _ _ => rfl⟩
  · exact ⟨rfl, fun _ _ => rfl⟩

/-- A packet on its way changes what waits on links and among held packets, and nothing else. -/
theorem forward_net (s : State) (p : Packet) : ∃ n, forward s p = { s with net := n } := by
  unfold forward forwardFrom
  split <;> exact ⟨_, rfl⟩

/-- A link that leaves service changes what waits on links and among held packets, and nothing else. -/
theorem requeue_net (s : State) (l : Nat) : ∃ n, requeue s l = { s with net := n } := by
  suffices h : ∀ (ps : List Packet) (u : State), (∃ n, u = { s with net := n }) →
      ∃ n, ps.foldl (fun v p => forward v { p with slot := slotOfPacket v p }) u = { s with net := n } from h _ _ ⟨_, rfl⟩
  intro ps
  induction ps with
  | nil => exact fun _ h => h
  | cons p ps ih =>
    rintro u ⟨n, rfl⟩
    obtain ⟨m, hm⟩ := forward_net { s with net := n } { p with slot := slotOfPacket { s with net := n } p }
    exact ih _ ⟨m, hm⟩

/-- A performance counter's step changes the counters and nothing else. -/
theorem perfAdd_perf (s : State) (off n : Nat) : ∃ p, perfAdd s off n = { s with dbg := { s.dbg with perf := p } } := by
  unfold perfAdd
  split <;> exact ⟨_, rfl⟩

theorem sendPacket_reached (s : State) (p : Packet) : Reached s (sendPacket s p) := by
  unfold sendPacket; dsimp only
  split
  · exact ⟨rfl, fun _ _ => rfl⟩
  · exact (setNet_reached s _).trans (forward_reached _ _)

theorem sendWrite_reached (s : State) (typ m a tag : Nat) (bs : List PByte) (slot : Option Nat) :
    Reached s (sendWrite s typ m a tag bs slot) := Reached.foldl _ (fun _ _ => sendPacket_reached _ _) _ _

theorem peerWrite_reached (s : State) (m x : Nat) (bs : List PByte) (slot : Option Nat) : Reached s (peerWrite s m x bs slot) := by
  unfold peerWrite
  split
  · exact (sendWrite_reached _ _ _ _ _ _ _).trans (noteMoved_reached _ _)
  · exact Reached.refl s

theorem peerAnnounceTag_reached (s : State) (m x : Nat) (w : BitVec 64) (slot : Option Nat) (tag : Nat) :
    Reached s (peerAnnounceTag s m x w slot tag) := by
  unfold peerAnnounceTag
  split
  · exact sendPacket_reached _ _
  · exact Reached.refl s

theorem peerAnnounce_reached (s : State) (m x : Nat) (w : BitVec 64) (slot : Option Nat) : Reached s (peerAnnounce s m x w slot) :=
  peerAnnounceTag_reached _ _ _ _ _ _

theorem sendMgmt_reached (s : State) (m : Nat) (f : BitVec 512) : Reached s (sendMgmt s m f) := by
  unfold sendMgmt
  split
  · exact Reached.refl s
  · exact ⟨rfl, fun _ _ => rfl⟩

theorem sendSync_reached (s : State) (m : Nat) (f : BitVec 512) : Reached s (sendSync s m f) := by
  unfold sendSync
  split
  · exact Reached.refl s
  · exact ⟨rfl, fun _ _ => rfl⟩

theorem mcastSend_reached (s : State) (t : McastTx) : Reached s (mcastSend s t) := by
  unfold mcastSend; dsimp only
  have h1 : Reached s (if t.members.toNat.testBit (moduleId s) = true then (localWrite s t.owner t.offset t.data).2 else s) := by
    split
    · exact localWrite_reached _ _ _ _
    · exact Reached.refl s
  refine h1.trans ?_
  generalize (if t.members.toNat.testBit (moduleId s) = true then (localWrite s t.owner t.offset t.data).2 else s) = u
  refine Reached.trans (Reached.foldl _ (fun v m => ?_) _ _) ((noteMoved_reached _ _).trans ⟨rfl, fun _ _ => rfl⟩)
  split
  · exact Reached.refl v
  · split <;> exact sendWrite_reached _ _ _ _ _ _ _

theorem mcastGo_reached (fuel : Nat) (s : State) (g : Nat) : Reached s (mcastGo fuel s g) := by
  induction fuel generalizing s with
  | zero => exact Reached.refl s
  | succ n ih =>
    unfold mcastGo
    split
    · exact Reached.refl s
    · split
      · exact ((setNet_reached s _).trans (mcastSend_reached _ _)).trans (ih _)
      · exact Reached.refl s

theorem mcastWrite_reached (s : State) (owner g off : Nat) (bs : List PByte) (slot : Option Nat) :
    Reached s (mcastWrite s owner g off bs slot).2 := by
  unfold mcastWrite
  split
  · exact ⟨rfl, fun _ _ => rfl⟩
  · unfold mcastStart; dsimp only
    refine (setNet_reached s _).trans (Reached.trans (Reached.foldl _ (fun v m => ?_) _ _) (mcastGo_reached _ _ _))
    split
    · exact Reached.refl v
    · exact sendMgmt_reached _ _ _

theorem winFault_reached (s : State) (k : Nat) : Reached s (winFault s k) := by
  unfold winFault; dsimp only
  exact (setHost_reached s _).trans (countErr_reached _ _ _)

theorem winWrite_reached (s : State) (k off : Nat) (bs : List PByte) (kind : WriteKind) : Reached s (winWrite s k off bs kind).2 := by
  unfold winWrite; dsimp only
  split
  · exact ⟨rfl, fun _ _ => rfl⟩
  · exact winFault_reached _ _

theorem winRead_reached (s : State) (k off n : Nat) (why : ReadFor) : Reached s (winRead s k off n why).2 := by
  unfold winRead; dsimp only
  split
  · exact ⟨rfl, fun _ _ => rfl⟩
  · exact winFault_reached _ _

/-- A write to any address that a command may name. -/
theorem devWrite_reached (s : State) (slot : Option Nat) (kind : WriteKind) (a : Nat) (bs : List PByte) :
    Reached s (devWrite s slot kind a bs).2 := by
  unfold devWrite
  split
  · exact winWrite_reached _ _ _ _ _
  · split
    · exact peerAnnounce_reached _ _ _ _ _
    · exact peerWrite_reached _ _ _ _ _
  · split
    · exact ⟨rfl, fun _ _ => rfl⟩
    · exact mcastWrite_reached _ _ _ _ _ _
  · exact countErr_reached _ _ _
  · exact localWrite_reached _ _ _ _

/-! ### Messages and records -/

theorem writeMsg_reached (s : State) (r : Rec) (rest : List Rec) : Reached s (writeMsg s r rest) := by
  unfold writeMsg; dsimp only
  exact (devWrite_reached _ _ _ _ _).trans (setMsg_reached _ _)

/-- What goes from the message queue into its ring. -/
theorem flushMsgs_reached (s : State) : Reached s (flushMsgs s) := by
  unfold flushMsgs
  suffices h : ∀ (n : Nat) (s : State), Reached s (flushUpTo n s) from h 64 s
  intro n
  induction n with
  | zero => intro s; exact Reached.refl s
  | succ n ih =>
    intro s
    unfold flushUpTo
    split
    · exact Reached.refl s
    · split
      · exact Reached.refl s
      · exact (writeMsg_reached _ _ _).trans (ih _)

end Sys2Proof.Machine
end

