-- ==== Sys2Proof/Laws/Ends.lean ====
section
/-!
SUPPORT. Sys2Proof/Laws/Ends.lean: what the end of a command may change: what an access may change, slots, completion rings, held records,
the partitions that the slot held, the count from which a queue is ready, the event that its signal write names, and LAST_STATUS of the
image. Everything else stays.
-/
namespace Sys2Proof.Machine

/-- t differs from s in nothing that the end of a command does not change. -/
structure Ended (s t : State) : Prop where
  frame : t = { s with
    out := t.out, cfg := t.cfg, err := t.err, msg := t.msg, mem := t.mem, integ := t.integ, banks := t.banks
    host := t.host, anl := t.anl, sync := t.sync, net := t.net, parts := t.parts
    image := { s.image with lastStatus := t.image.lastStatus }
    fe := { s.fe with queues := t.fe.queues, slots := t.fe.slots, cqs := t.fe.cqs, holds := t.fe.holds,
                      events := t.fe.events, dueEvents := t.fe.dueEvents } }
  cells : ∀ o, o ≠ injectOffset → mfind t.cfg o = mfind s.cfg o
  queues : ∀ q, queueOf t q = { queueOf s q with readySince := (queueOf t q).readySince }

namespace Ended

theorem refl (s : State) : Ended s s := ⟨rfl, fun _ _ => rfl, fun _ => rfl⟩

theorem trans {s t u : State} (h : Ended s t) (g : Ended t u) : Ended s u :=
  ⟨by rw [g.frame, h.frame], fun o ho => (g.cells o ho).trans (h.cells o ho), fun q => by rw [g.queues q, h.queues q]⟩

theorem of {s t : State} (h : Reached s t) : Ended s t :=
  ⟨by rw [h.frame], h.cells, fun q => by rw [h.queueOf]⟩

variable {s t : State}

theorem time (h : Ended s t) : t.time = s.time := by rw [h.frame]
theorem power (h : Ended s t) : t.power = s.power := by rw [h.frame]
theorem fuse (h : Ended s t) : t.fuse = s.fuse := by rw [h.frame]
theorem force (h : Ended s t) : t.image.force = s.image.force := by rw [h.frame]
theorem imagePending (h : Ended s t) : t.image.pending = s.image.pending := by rw [h.frame]
theorem loading (h : Ended s t) : t.image.loading = s.image.loading := by rw [h.frame]
theorem committing (h : Ended s t) : t.image.committing = s.image.committing := by rw [h.frame]
theorem rate (h : Ended s t) : t.rate = s.rate := by rw [h.frame]
theorem longs (h : Ended s t) : t.longs = s.longs := by rw [h.frame]
theorem ent (h : Ended s t) : t.ent = s.ent := by rw [h.frame]
theorem ses (h : Ended s t) : t.ses = s.ses := by rw [h.frame]
theorem vec (h : Ended s t) : t.vec = s.vec := by rw [h.frame]
theorem dbg (h : Ended s t) : t.dbg = s.dbg := by rw [h.frame]
theorem insts (h : Ended s t) : t.insts = s.insts := by rw [h.frame]
theorem fresh (h : Ended s t) : t.fresh = s.fresh := by rw [h.frame]
theorem pending (h : Ended s t) : t.pending = s.pending := by rw [h.frame]
theorem waits (h : Ended s t) : t.fe.waits = s.fe.waits := by rw [h.frame]
theorem captures (h : Ended s t) : t.fe.captures = s.fe.captures := by rw [h.frame]
theorem captureCount (h : Ended s t) : t.fe.captureCount = s.fe.captureCount := by rw [h.frame]
theorem lastQueue (h : Ended s t) : t.fe.lastQueue = s.fe.lastQueue := by rw [h.frame]
theorem rejected (h : Ended s t) : t.fe.rejected = s.fe.rejected := by rw [h.frame]
theorem abandoned (h : Ended s t) : t.fe.abandoned = s.fe.abandoned := by rw [h.frame]
theorem deadlocks (h : Ended s t) : t.fe.deadlocks = s.fe.deadlocks := by rw [h.frame]
theorem stamp (h : Ended s t) : t.fe.stamp = s.fe.stamp := by rw [h.frame]

theorem fetched (h : Ended s t) (q : Nat) : (queueOf t q).fetched = (queueOf s q).fetched := by rw [h.queues q]
theorem dropped (h : Ended s t) (q : Nat) : (queueOf t q).dropped = (queueOf s q).dropped := by rw [h.queues q]
theorem resetDue (h : Ended s t) (q : Nat) : (queueOf t q).resetDue = (queueOf s q).resetDue := by rw [h.queues q]
theorem writeIndex (h : Ended s t) (q : Nat) : (queueOf t q).writeIndex = (queueOf s q).writeIndex := by rw [h.queues q]
theorem readIndex (h : Ended s t) (q : Nat) : (queueOf t q).readIndex = (queueOf s q).readIndex := by rw [h.queues q]
theorem slot (h : Ended s t) (q : Nat) : (queueOf t q).slot = (queueOf s q).slot := by rw [h.queues q]

theorem foldl {α : Type} (f : State → α → State) (h : ∀ s x, Ended s (f s x)) (l : List α) (s : State) : Ended s (l.foldl f s) := by
  induction l generalizing s with
  | nil => exact refl s
  | cons x l ih => exact (h s x).trans (ih _)

end Ended

/-! ### Parts of the state -/

theorem setSlot_ended (s : State) (k : Nat) (v : SlotSt) : Ended s (setSlot s k v) := ⟨rfl, fun _ _ => rfl, fun _ => rfl⟩
theorem setCq_ended (s : State) (c : Nat) (v : CqSt) : Ended s (setCq s c v) := ⟨rfl, fun _ _ => rfl, fun _ => rfl⟩
theorem setPart_ended (s : State) (n : Nat) (v : PartSt) : Ended s (setPart s n v) := ⟨rfl, fun _ _ => rfl, fun _ => rfl⟩
theorem setHolds_ended (s : State) (h : List Hold) : Ended s { s with fe := { s.fe with holds := h } } := ⟨rfl, fun _ _ => rfl, fun _ => rfl⟩

theorem queueOf_setQueue_eq (s : State) (q p : Nat) (v : QueueSt) : queueOf (setQueue s q v) p = if p = q then v else queueOf s p := by
  simp [queueOf, setQueue, mget_mput]

/-- The count from which a queue is ready is no other field of it. -/
theorem setReadySince_ended (s : State) (q : Nat) (v : Option (BitVec 64)) :
    Ended s (setQueue s q { queueOf s q with readySince := v }) := by
  refine ⟨rfl, fun _ _ => rfl, fun p => ?_⟩
  rw [queueOf_setQueue_eq]
  split
  · subst_vars; rfl
  · rfl

theorem markReady_ended (s : State) (q : Nat) : Ended s (markReady s q) := by
  unfold markReady; dsimp only
  split
  · split
    · exact setReadySince_ended s q _
    · exact Ended.refl s
  · split
    · exact setReadySince_ended s q _
    · exact Ended.refl s

theorem releaseParts_ended (s : State) (k : Nat) : Ended s (releaseParts s k) := by
  unfold releaseParts
  exact Ended.foldl _ (fun s np => setPart_ended s _ _) _ s

theorem orphanPackets_ended (s : State) (k : Nat) : Ended s (orphanPackets s k) := ⟨rfl, fun _ _ => rfl, fun _ => rfl⟩

theorem signalEvent_ended (s : State) (e : Nat) (v : BitVec 64) : Ended s (signalEvent s e v) := ⟨rfl, fun _ _ => rfl, fun _ => rfl⟩

theorem signalWrite_ended (s : State) (sig : Option (Nat × BitVec 64)) : Ended s (signalWrite s sig) := by
  unfold signalWrite
  split
  · exact Ended.refl s
  · split
    · exact signalEvent_ended _ _ _
    · exact Ended.of (devWrite_reached _ _ _ _ _)

theorem noteEnd_ended (s : State) (k op st : Nat) : Ended s (noteEnd s k op st) := by
  unfold noteEnd; dsimp only
  split <;> split <;> exact ⟨rfl, fun _ _ => rfl, fun _ => rfl⟩

theorem clearSlot_ended (s : State) (k : Nat) : Ended s (clearSlot s k) := by
  unfold clearSlot; dsimp only
  exact (releaseParts_ended s k).trans ((orphanPackets_ended _ k).trans (setSlot_ended _ _ _))

theorem writeRecord_ended (s : State) (c r : Nat) : Ended s (writeRecord s c r) := by
  unfold writeRecord; dsimp only
  exact (Ended.of (devWrite_reached _ _ _ _ _)).trans (setCq_ended _ _ _)

/-- The end of a command. -/
theorem finish_ended (s : State) (q : Nat) (slot : Option Nat) (c : Fetched) (d : Done) : Ended s (finish s q slot c d) := by
  have hf := Ended.of (flushMsgs_reached s)
  unfold finish; dsimp only
  revert hf; generalize flushMsgs s = u; intro hf
  have hs := fun v => signalWrite_ended v (signalOf c)
  split
  · exact Ended.refl s
  · split
    · split
      · exact hf.trans ((hs u).trans (clearSlot_ended _ _))
      · exact hf.trans ((hs u).trans (markReady_ended _ _))
    · split
      · split
        · refine hf.trans ((setCq_ended u _ _).trans ((setHolds_ended _ _).trans ((releaseParts_ended _ _).trans (setSlot_ended _ _ _))))
        · exact hf.trans ((setCq_ended u _ _).trans (setHolds_ended _ _))
      · split
        · exact hf.trans ((writeRecord_ended u _ _).trans ((hs _).trans (clearSlot_ended _ _)))
        · exact hf.trans ((writeRecord_ended u _ _).trans ((hs _).trans (markReady_ended _ _)))

theorem complete_ends (s : State) (k : Nat) (d : Done) : Ended s (complete s k d) := by
  unfold complete
  split
  · split
    · exact finish_ended _ _ _ _ _
    · exact (noteEnd_ended _ _ _ _).trans (finish_ended _ _ _ _ _)
  · exact Ended.refl s

theorem completeAs_ends (s : State) (k status detail : Nat) : Ended s (completeAs s k status detail) := complete_ends _ _ _

theorem endCmd_ends (s : State) (k status : Nat) : Ended s (endCmd s k status) := complete_ends _ _ _

end Sys2Proof.Machine
end

