-- ==== Sys2Proof/Tests/Slice0.lean ====
section
/-!
SUPPORT. Sys2Proof/Tests/Slice0.lean: ill-formed commands that the checks refuse, states that meet the hypotheses of the
statements, and single steps whose results are read off the spec.
-/
namespace Sys2Proof.Tests

set_option Elab.async false
open Sys2Proof Sys2Proof.Machine

/-! ### Ill-formed commands (each check of WellFormed refuses one) -/

theorem test_wf_smoke :
    [(Instr.flr 2).wf, (Instr.partitionReset 64).wf, (Instr.coreReset 1408).wf, (Instr.rateShortfallRepeat 16).wf, (Instr.beaconSend 8).wf,
      (Instr.beaconReceive 32 0).wf, (Instr.sessionEntryLatch 4096).wf, (Instr.registerWrite 2 0 8 0).wf, (Instr.registerWrite 0 0x4000000 8 0).wf,
      (Instr.commit 0x4000000).wf, (Instr.doorbell 512 0 4 (some 0)).wf, (Instr.doorbell 0 4096 4 none).wf, (Instr.nop 32).wf, (Instr.anlExchTimeout 0 64).wf,
      (Instr.cqHeadWrite 64 0).wf, (Instr.msixSend 65).wf, (Instr.bankTestRegion 0 4 true).wf, (Instr.bar4Read 0 (2 ^ 40) 4 [] []).wf, (Instr.hostAtomicop 0 0 3 8 0 []).wf,
      (Instr.bar4Resize 5).wf, (Instr.arrive 5632 0 0 0 false).wf, (Instr.arrive 0 0 0 32 false).wf, (Instr.biasTrimCheck 0 65537).wf,
      (Instr.balanceWindow []).wf, (Instr.thresholdSpanEnd 3 0 0).wf, (Instr.sensorPeriodic []).wf, (Instr.sensorLimit 22 0).wf, (Instr.dispatcherTakeover 2000001 false).wf,
      (Instr.hostLinkUp 0 7 16 false).wf, (Instr.hostLinkUp 0 1 3 false).wf, (Instr.rateLockWindow [] 0).wf, wfWait (.vector 64),
      (Instr.entropyWaitTimeout (.run 64)).wf, wfUpset { addr := 0, flips := [288], hard := false, report := 0 }, wfLoss { code := 5, id := 0, both := false }].all (· == false) = true := by
  decide +kernel

/-! ### States -/

/-- An ACTIVE module with nothing else in it. -/
def on : State := { State.reset with power := { State.reset.power with state := 2, mainGood := true, bootStep := 10, coldBoot := false } }

/-- A booting module at step n. -/
def booting (n : Nat) : State := { on with power := { on.power with state := 1, bootStep := n } }

/-- The 64 bytes of a command: its opcode and the values at the byte offsets that are given. -/
def word (op : Nat) (fs : List (Nat × Nat)) : CmdWord := BitVec.ofNat 512 (fs.foldl (fun a f => a + f.2 * 2 ^ (8 * f.1)) op)

/-- A fetched command. -/
def cmd (op : Nat) (fs : List (Nat × Nat)) : Fetched :=
  { bits := word op fs, poison := false, ringBad := false, index := 0#64, addr := 0, buf := none, bufPoison := false, cq := 0, sigAddr := 0, stamp := 0, cancelled := false }

/-- Slot 0 of s holds command c of queue 0 in slot state n. -/
def inSlot (s : State) (n : Nat) (c : Fetched) : State :=
  { s with fe := { s.fe with slots := [(0, { slot0 with queue := some 0, cmd := some c, state := n })] } }

/-- Slot 0 of s runs command c of queue 0. -/
def runs (s : State) (c : Fetched) : State := inSlot s 5 c

theorem runs_running (s : State) (c : Fetched) (op : Nat) (h : opcodeOf c.bits = op) : Running (runs s c) 0 0 op c :=
  { cmd := rfl, queue := rfl, state := rfl, flags := rfl, opcode := h }

theorem runs_fits (s : State) (c : Fetched) (h1 : s.fuse = State.reset.fuse) (h2 : s.msg = State.reset.msg) (h3 : s.fe = State.reset.fe) (h4 : s.cfg = []) (h5 : c.cq = 0) :
    RecordFits (runs s c) c := by
  constructor
  · simp [noDispatcher, runs, inSlot, h1]; decide
  · simp [runs, inSlot, h2]; rfl
  · have : cqFull (runs s c) 0 = false := by
      simp [cqFull, runs, inSlot, cqOf, cqRing, regActive, h3, h4]; decide
    rw [h5]; exact this

/-! ### Witnesses: steps, power and resets -/

/-- A module in OFF whose main input is good. -/
def offGood : State := { State.reset with power := { State.reset.power with mainGood := true } }

theorem dark_reset : Dark State.reset :=
  { mem := rfl, ecc := rfl, force := rfl, staged := rfl, loading := rfl, committing := rfl, fe := rfl, parts := rfl, longs := rfl, vec := rfl, banks := rfl
    ses := rfl, sync := rfl, net := rfl, dbg := rfl, messages := rfl, reads := rfl }

theorem legal_reset : PowerLegal State.reset := by constructor <;> decide

theorem witness_StepRunsFrontCommand :
    State.reset.pending = [] ∧ State.reset.power.standby = true ∧ { State.reset with power := { State.reset.power with standby := false } }.power.standby = false := ⟨rfl, rfl, rfl⟩

theorem witness_StepEndIsQuiet : Quiet on :=
  { resets := rfl, cells := rfl, commits := rfl, messages := rfl, records := rfl, signals := rfl, queues := by intro x h; cases h }

theorem witness_CountsChangeOnlyWhereLaidDown : (∃ t, exec .heartbeat on = .next t) ∧ (∃ t, exec .coldStart on = .next t) := ⟨⟨_, rfl⟩, ⟨_, rfl⟩⟩

theorem witness_OffIsLeftOnlyByWaking : (State.reset.power.state = 0 ∧ actsInOff .heartbeat = false) ∧ ∃ t, exec .coldStart offGood = .next t ∧ t.power.state ≠ 0 :=
  ⟨by decide, _, rfl, by decide⟩

theorem witness_OffIsDarkForever : Dark State.reset ∧ ∃ t, step State.reset = .next t ∧ t.power.state = 0 := ⟨dark_reset, _, rfl, rfl⟩

theorem witness_PowerStaysLegal : PowerLegal State.reset ∧ ∃ t, step { State.reset with pending := [.coldStart] } = .next t := ⟨legal_reset, _, rfl⟩

theorem witness_ColdStartsAndWakes :
    (State.reset.time.boots.toNat < 1048576 ∧ State.reset.power.mainGood = false) ∧
    (1048576 ≤ { offGood with time := { offGood.time with boots := 1048576#32 } }.time.boots.toNat ∧ offGood.power.mainGood = true) ∧
    (State.reset.power.state = 0 ∧ State.reset.power.standby = true ∧ autoWake State.reset = true ∧ State.reset.power.coldBoot = true) ∧
    (offGood.power.state = 0 ∧ offGood.power.standby = true) ∧ on.power.state ≠ 0 ∧
    autoWake { State.reset with cfg := [(0x2208, { active := 1#64, last := 1#64, shadow := 0#64, snap := none })] } = false := by decide +kernel

theorem witness_OffIsEnteredAtOnce : on.power.state ≠ 0 ∧ on.power.standby = true ∧ 0x46464F51#32 ≠ 0x46464F50#32 := by decide +kernel

/-- What a boot brings that finds nothing wrong and an empty flash. -/
def plainBoot : Boot := { failsA := false, failsB := false, lanes := List.replicate 32 0xFF#8, checkers := [], repairs := [], flash := [] }

theorem witness_BootRunsItsSteps :
    (∀ n ∈ [1, 2, 3, 4, 5, 6, 7, 8, 9], (booting n).power.state = 1 ∧ (booting n).power.bootStep = n) ∧
    ({ plainBoot with failsA := true, failsB := true }.failsB = true ∧ plainBoot.failsA = false ∧ plainBoot.flash = []) ∧
    ((booting 9).power.perst = false ∧ (booting 9).image.loading = none ∧ (booting 9).image.committing = none) ∧
    { (booting 9) with power := { (booting 9).power with perst := true } }.power.perst = true := by decide +kernel

theorem witness_DeviceResetsKeepMemory : on.power.state = 2 ∧ on.power.perst = false ∧ on.image.committing = none ∧ (1 : Nat) < 2 := by decide +kernel

/-- Partition 0: the first core of die 0. -/
def part0Img : PartImage where
  shape := { dieRect := false, die := 0, loRow := 0, hiRow := 0, loCol := 0, hiCol := 0 }
  defaultMode := 0
  defaultBand := 0
  tree := { order := 0, transfer := 0, rootPos := 0, modules := [] }
  regions := { regions := 1, colours := 0, tag := 0#64, vars := 0, regionOf := [], colourOf := [] }
  clients := { ctxMode := 0, annMode := 0, noEntropyUs := 0, overrides := [] }
  owners := []
  rescale := []
  uprog := []
  firmware := []
  buildId := 0#128

/-- An image with that partition, with queue 0 a kernel queue of it. -/
def image0 : ImageForce where
  moduleId := 0
  domainSize := 1
  clearHbm := false
  rate := 0
  parts := [(0, part0Img)]
  queues := [(0, { part := 0, kernel := true, priority := 0, residency := some 0 })]
  slots := []
  leader := 0
  beaconParent := none
  links := []
  routes := []
  interleave := { policy := 0, keySource := 0, key := 0#128, lat150 := 0, lat135 := 0, lat120 := 0 }
  scalarFw := []
  dispFw := []
  buildId := 0#128

/-- An ACTIVE module with that image in force. -/
def imaged : State := { on with image := { on.image with force := some image0 } }

theorem witness_PartitionAndCoreResets :
    (imaged.power.state ≠ 0 ∧ imaged.power.waiting = [] ∧ (partImg imaged 0).isSome = true ∧ structural imaged 0 = false) ∧
    (1 < logicalCores imaged ∧ partOfCore imaged 1 = none) ∧ partImg imaged 63 = none ∧ logicalCores imaged ≤ 1408 := by decide +kernel

/-! ### Witnesses: time, alignment and the rate lock -/

/-- Module 1 of a domain of 2, whose link 0 leads to module 0, the leader, and is its beacon parent. -/
def image1 : ImageForce := { image0 with
  moduleId := 1
  domainSize := 2
  beaconParent := some 0
  links := [(0, { peer := 0, peerLink := 0, maxLanes := 8, tree := true })]
  routes := [(0, 1#32)] }

/-- That module, with link 0 as x says. -/
def linked (x : LinkSt) : State := { on with image := { on.image with force := some image1 }, net := { on.net with links := [(0, x)] } }

/-- A link that is up on eight lanes. -/
def upLink : LinkSt := { link0 with state := 3, laneMask := 0xFF, trained := true, everUp := true, creditData := 100, creditResp := 100, creditSync := 100, creditMgmt := 100 }

/-- A flit with the values at the byte offsets that are given. -/
def flit (fs : List (Nat × Nat)) : BitVec 512 := word 0 fs

def withTime (s : State) (al : Nat) : State := { s with time := { s.time with align := al, parentFresh := true } }

/-- DEV_SYNC_CTRL in mode n. -/
def syncCell (n : Nat) : CfgCell := { active := BitVec.ofNat 64 n, last := BitVec.ofNat 64 n, shadow := 0#64, snap := none }
def inMode (n : Nat) : State := { on with cfg := [(0x140, syncCell n)] }

theorem witness_LatchedReads : on.power.state ≠ 0 ∧ (4095 : Nat) < 4096 ∧ logicalCores on - 1 < logicalCores on := by decide +kernel

/-- A module in HOLDOVER at count c, in sync mode 3. -/
def pulsed (c : Nat) : State := { inMode 3 with time := { on.time with align := 3, count := BitVec.ofNat 64 c } }

theorem witness_SyncPins :
    on.power.state ≠ 0 ∧ mfind on.cfg 0x140 = none ∧ on.time.count.toNat % 2 ^ 20 = 0 ∧ (pulsed 9).time.count.toNat % 2 ^ 20 ≠ 0 ∧
    ((pulsed 9).time.align = 3 ∧ regActive (pulsed 9) 0x140 0 % 4 = 3 ∧ isFollower (pulsed 9) = true ∧ 8 < pulseError 9#64 ∧ isFollower on = false) ∧
    (pulseError 0#64 = 0 ∧ 0 < pulseError 1#64 ∧ pulseError 1048575#64 < 0 ∧ pulseError 1048567#64 < -8) ∧ (∀ n ∈ [0, 1, 2, 3], mfind (inMode n).cfg 0x140 = some (syncCell n) ∧ regActive (inMode n) 0x140 0 % 4 = n) := by decide +kernel

theorem witness_RateLockMovesTrim :
    on.power.state = 2 ∧ (dieRateOf on 15).ceiling = false ∧ (dieRateOf on 15).shortRun < 3 ∧ on.msg.queue.length < 64 ∧
    (63 ≤ (dieRateOf { on with rate := { on.rate with dies := [(15, { dieRate0 with age := 63 })] } } 15).age ∧
      40000 * ((dieRateOf on 15).history.take 63).foldl (· + ·) 0 ≤ rateUnits on.rate.rate * 65536 * 2001) ∧
    (dieRateOf { on with rate := { on.rate with dies := [(15, { dieRate0 with ceiling := true })] } } 15).ceiling = true ∧
    (let s := { on with rate := { on.rate with dies := [(15, { dieRate0 with ceiling := true })] }, time := { on.time with count := 1073741824#64 } }
     sinceCount s (dieRateOf s 15).entered % 2 ^ 30 = 0 ∧ (dieRateOf s 15).entered ≠ s.time.count ∧
     sinceCount (pulsed 9) (dieRateOf (pulsed 9) 15).entered % 2 ^ 30 ≠ 0) := by decide +kernel

theorem witness_BeaconsAndDelays :
    (withTime (linked upLink) 4).time.align = 4 ∧ isUp (linked upLink) 0 = true ∧ (linkTopo (linked upLink) 0).tree = true ∧ isUp (linked upLink) 1 = false ∧
    (withTime (linked upLink) 2).time.align ≠ 4 ∧ (linked upLink).time.reRooted = false ∧
    (linkOf (linked { upLink with rxSync := [flit [(0, 0x19)]] }) 0).rxSync = [flit [(0, 0x19)]] ∧ flitByte (flit [(0, 0x19)]) 0 0 = 0x19 ∧
    (linkOf (linked { upLink with reqIn := [(0#64, 0)] }) 0).reqIn = [(0#64, 0)] ∧
    8 * ((linked { upLink with reqIn := [(0#64, 0)] }).time.count - 0#64).toNat + 7 % 8 - 0 < 1600 ∧
    1600 ≤ 8 * ({ linked { upLink with reqIn := [(0#64, 0)] } with time := { on.time with count := 200#64 } }.time.count - 0#64).toNat + 0 % 8 - 0 ∧
    (linkOf (linked { upLink with rxSync := [flit [(0, 0x1A)]], reqOut := some (0#64, 0) }) 0).reqOut = some (0#64, 0) ∧ flitByte (flit [(0, 0x1A)]) 0 0 = 0x1A ∧
    40000 < (8 * ({ on with time := { on.time with count := 11000#64 } }.time.count - 0#64).toNat + 7 % 8 - 0 - (1600 + 0)) / 2 := by decide +kernel

theorem witness_FollowersAlign :
    flitByte (flit [(0, 0x18), (8, 1000)]) 0 0 = 0x18 ∧ (linkOf (linked { upLink with rxSync := [flit [(0, 0x18), (8, 1000)]] }) 0).rxSync = [flit [(0, 0x18), (8, 1000)]] ∧
    (withTime (linked upLink) 0).time.align = 0 ∧ (withTime (linked upLink) 1).time.align = 1 ∧ (withTime (linked upLink) 1).time.goodBeacons = 0 ∧
    flitByte (flit [(0, 0x18), (8, 1000)]) 17 17 % 64 ≠ moduleId (linked upLink) ∧ flitByte (flit [(0, 0x18), (8, 1000)]) 17 17 % 64 = imageLeader (linked upLink) ∧
    beaconParent (linked upLink) = some 0 ∧ (withTime (linked upLink) 1).time.parentFresh = true ∧ (withTime (linked upLink) 1).time.leader = 0 ∧
    (withTime (linked upLink) 1).time.reRooted = false ∧ { (withTime (linked upLink) 1).time with parent := some 0 }.parent = some 0 ∧
    { (withTime (linked upLink) 2).time with goodBeacons := 1 }.goodBeacons ≠ 0 ∧
    (0 < { (withTime (linked upLink) 2).time with leader := 1 }.leader ∧ { (withTime (linked upLink) 2).time with parentFresh := false }.parentFresh = false) ∧
    (follows (withTime (linked upLink) 2) = true ∧
      1000000 ≤ sinceCount { linked upLink with time := { on.time with count := 1000000#64 } } on.time.lastBeacon ∧ follows (withTime (linked upLink) 0) = false ∧
      sinceCount (withTime (linked upLink) 2) on.time.lastBeacon < 1000000) ∧ (withTime (linked upLink) 2).time.align = 2 ∧
    (withTime (linked upLink) 3).time.align = 3 ∧ (1#64 : BitVec 64).getLsbD 0 = true ∧ 0 < moduleId (linked upLink) := by decide +kernel

theorem witness_ReferenceClocks :
    on.time.refclk156 = true ∧ { on with time := { on.time with refclk156 := false } }.time.refclk156 = false ∧
    (linkOf (linked { upLink with state := 1 }) 0).state = 1 ∧ (linkOf (linked { upLink with state := 1 }) 0).everUp = true := by decide +kernel

/-! ### Witnesses: the command front end -/

/-- The imaged module, with queue 0 as x says. -/
def withQueue (x : QueueSt) : State := { imaged with fe := { imaged.fe with queues := [(0, x)] } }

/-- Queue 0 in slot 0, with ten commands in its ring. -/
def queueIn : QueueSt := { queue0 with slot := some 0, writeIndex := 10#32, pending := true, busy := true }

/-- Queue 0 in slot 0, which is free, with command c fetched. -/
def headed (c : Fetched) : State :=
  { imaged with fe := { imaged.fe with queues := [(0, { queue0 with slot := some 0, fetched := [c] })], slots := [(0, { slot0 with queue := some 0 })] } }

/-- The register cell of FE_QUEUE_CTRL_0 with STOP set. -/
def stopped (s : State) : State := { s with cfg := [(queueReg 0 0x18, { active := 1#64, last := 1#64, shadow := 0#64, snap := none })] }

theorem witness_DoorbellsAndBatches :
    (imaged.power.state = 2 ∧ queuePart imaged 0 ≠ 0xFF ∧ replays imaged 0 = false ∧ (64#32 - (queueOf imaged 0).readIndex).toNat ≤ ringEntries (queueRing imaged 0)) ∧
    queuePart imaged 1 = 0xFF ∧ ringEntries (queueRing imaged 0) < (65#32 - (queueOf imaged 0).readIndex).toNat ∧ (booting 9).power.state ≠ 2 ∧
    ((queueOf (withQueue queueIn) 0).slot.isSome = true ∧ isStopped (withQueue queueIn) 0 = false ∧ (queueOf (withQueue queueIn) 0).resetDue = false ∧
      (queueOf (withQueue queueIn) 0).reading = none ∧ noDispatcher (withQueue queueIn) = false ∧ replays (withQueue queueIn) (queuePart (withQueue queueIn) 0) = false ∧
      region (withQueue queueIn).fuse.grade (ringBase (queueRing (withQueue queueIn) 0)) = .hbm ∧
      region (withQueue queueIn).fuse.grade (entryAddr (withQueue queueIn) 0 0) = .hbm ∧ largePart (withQueue queueIn) 0 = false) ∧
    (queueOf imaged 0).slot = none ∧ isStopped (stopped imaged) 0 = true ∧ (queueOf (withQueue { queueIn with resetDue := true }) 0).resetDue = true ∧
    noDispatcher { imaged with fuse := { imaged.fuse with dispGood := 0#2 } } = true := by decide +kernel

theorem witness_MappingLeavesRunningSlots :
    (slotOf (runs imaged (cmd 1 [])) 0).cmd.isSome = true ∧ (slotOf (runs imaged (cmd 1 [])) 0).queue.isSome = true ∧ (slotOf (runs imaged (cmd 1 [])) 0).state ≠ 6 ∧
    noDispatcher { imaged with fuse := { imaged.fuse with dispGood := 0#2 } } = true ∧
    noDispatcher (withQueue { queueIn with slot := none }) = false ∧ isReady (withQueue { queueIn with slot := none }) 0 = true ∧
    (queuePol (withQueue { queueIn with slot := none }) 0).residency = some 0 ∧ (slotOf (withQueue { queueIn with slot := none }) 0).queue = none ∧
    (withQueue { queueIn with slot := none, readySince := some 0#64 }).fe.queues = [(0, { queueIn with slot := none, readySince := some 0#64 })] ∧
    isReady (withQueue { queueIn with slot := none, readySince := some 0#64 }) 0 = true ∧ ({ queueIn with readySince := some 0#64 } : QueueSt).readySince.isSome = true ∧
    (let s := { withQueue { queueIn with slot := none, readySince := some 0#64 } with
       image := { on.image with force := some { image0 with queues := [(0, { part := 0, kernel := true, priority := 0, residency := none })] } } }
     (queuePol s 0).residency = none ∧ isReady s 0 = true ∧ mayHold s 0 0 = true) := by decide +kernel

theorem witness_HeadsAreCheckedInOrder :
    (∀ c ∈ [cmd 1 [], cmd 0xFF [], { cmd 1 [] with poison := true }], (slotOf (headed c) 0).queue = some 0 ∧ (slotOf (headed c) 0).cmd = none ∧ (slotOf (headed c) 0).state ≠ 7 ∧
      isStopped (headed c) 0 = false ∧ (queueOf (headed c) 0).resetDue = false ∧ noDispatcher (headed c) = false ∧ (queueOf (headed c) 0).fetched = [c]) ∧
    (fetchCheck (headed (cmd 1 [])) 0 (cmd 1 []) = none ∧ reservedAction (cmd 1 []).bits = false) ∧ fetchCheck (headed (cmd 0xFF [])) 0 (cmd 0xFF []) = some (8, 1) ∧
    knownOpcodes.contains (opcodeOf (cmd 0xFF []).bits) = false ∧
    (knownOpcodes.contains (opcodeOf (cmd 0x70 []).bits) = true ∧ kernelOnly (opcodeOf (cmd 0x70 []).bits) = true ∧ (queuePol on 1).kernel = false) ∧
    (knownOpcodes.contains (opcodeOf (cmd 0x20 []).bits) = true ∧ kernelOnly (opcodeOf (cmd 0x20 []).bits) = false ∧ on.image.force = none ∧ bootOpcode (opcodeOf (cmd 0x20 []).bits) = false) ∧
    (imaged.image.force.isSome = true ∧ needsPartition (opcodeOf (cmd 0x20 []).bits) = true ∧ partImg imaged (queuePart imaged 1) = none) := by decide +kernel

theorem witness_QueuesStopAndReset :
    isStopped imaged 0 = false ∧ (queueOf (withQueue queueIn) 0).slot = some 0 ∧ (slotOf (withQueue queueIn) 0).state ≠ 6 ∧ isStopped (stopped imaged) 0 = true := by decide +kernel

/-- An EVENT_RECORD of event 5 and an EVENT_WAIT for event 5 to reach n. -/
def recordCmd (mode v : Nat) : Fetched := cmd 2 [(16, 5), (18, mode), (24, v)]
def waitCmd (n us : Nat) : Fetched := cmd 3 [(16, 5), (20, us), (24, n)]

/-- Queues 0 and 1 wait for events that each other's ring would record. -/
def aWait (e : Nat) : Wait := { event := e, target := 1#64, deadline := some 5#64, seen := 0#64, slot := none, cmd := waitCmd 1 0 }

theorem witness_EventCommandsAndWaits_running :
    Running (runs imaged (cmd 1 [])) 0 0 1 (cmd 1 []) ∧ RecordFits (runs imaged (cmd 1 [])) (cmd 1 []) ∧ Running (runs imaged (recordCmd 2 7)) 0 0 2 (recordCmd 2 7) ∧
    Running (runs imaged (waitCmd 0 0)) 0 0 3 (waitCmd 0 0) ∧ Running (runs imaged (waitCmd 1 3)) 0 0 3 (waitCmd 1 3) ∧ RecordFits (runs imaged (waitCmd 1 3)) (waitCmd 1 3) :=
  ⟨runs_running _ _ _ (by decide +kernel), runs_fits _ _ rfl rfl rfl rfl rfl, runs_running _ _ _ (by decide +kernel), runs_running _ _ _ (by decide +kernel),
    runs_running _ _ _ (by decide +kernel), runs_fits _ _ rfl rfl rfl rfl rfl⟩

theorem witness_EventCommandsAndWaits :
    (∀ m ∈ [0, 1, 2], cmdFld (recordCmd m 7).bits 18 18 = m ∧ (recordCmd m 7).cancelled = false) ∧ (runs imaged (recordCmd 2 7)).fe.waits = [] ∧
    cmdFld (waitCmd 0 0).bits 24 31 ≤ (eventOf (runs imaged (waitCmd 0 0)) (cmdFld (waitCmd 0 0).bits 16 17)).toNat ∧
    (eventOf (runs imaged (waitCmd 1 3)) (cmdFld (waitCmd 1 3).bits 16 17)).toNat < cmdFld (waitCmd 1 3).bits 24 31 ∧
    isStopped (runs imaged (waitCmd 1 3)) 0 = false ∧ (queueOf (runs imaged (waitCmd 1 3)) 0).resetDue = false ∧
    mfind ({ imaged with fe := { imaged.fe with waits := [(0, aWait 5)] } } : State).fe.waits 0 = some (aWait 5) ∧ (aWait 5).deadline.isSome = true ∧ (aWait 5).slot = none ∧
    mfind imaged.fe.waits 0 = none ∧ waitCycles imaged = [] ∧
    countReached { imaged with time := { imaged.time with count := 5#64 } } 5#64 = true ∧ countReached imaged 5#64 = false := by decide +kernel

theorem witness_EventCommandsAndWaits_deadline :
    RecordFits { imaged with time := { imaged.time with count := 5#64 }, fe := { imaged.fe with waits := [(0, aWait 5)] } } (aWait 5).cmd :=
  ⟨by decide +kernel, rfl, by decide +kernel⟩

/-- Queue 0 waits for event 5, which a command of queue 1 will record, and queue 1 for event 6, which one of queue 0 will. -/
def cycle : State :=
  let w (e : Nat) : Wait := { event := e, target := 1#64, deadline := none, seen := 0#64, slot := none, cmd := cmd 3 [(16, e), (24, 1)] }
  { imaged with fe := { imaged.fe with
    queues := [(0, { queue0 with fetched := [cmd 2 [(16, 6), (24, 1)]] }), (1, { queue0 with fetched := [cmd 2 [(16, 5), (24, 1)]] })]
    waits := [(0, w 5), (1, w 6)] } }

theorem witness_EventCommandsAndWaits_cycle : waitEdge cycle 1 = some 0 ∧ waitEdge cycle 0 = some 1 ∧ cycle.time.count.toNat % 1000000 = 0 := by decide +kernel

/-! ### Witnesses: copies, fuses, watchdog and rings -/

def fillCmd (n : Nat) : Fetched := cmd 5 [(24, 0x1000), (32, n), (40, 0x0807060504030201)]
def copyCmd : Fetched := cmd 4 [(24, 0x1000), (32, 0x2000), (40, 64)]
def scrubCmd (n : Nat) : Fetched := cmd 6 [(24, 0x1000), (32, n), (40, 0x2000)]

theorem witness_CopyEnginesRun_running :
    Running (runs imaged copyCmd) 0 0 4 copyCmd ∧ Running (runs imaged (fillCmd 70000)) 0 0 5 (fillCmd 70000) ∧ Running (runs imaged (scrubCmd 64)) 0 0 6 (scrubCmd 64) ∧
    Running (runs imaged (scrubCmd 63)) 0 0 6 (scrubCmd 63) ∧ RecordFits (runs imaged (scrubCmd 63)) (scrubCmd 63) :=
  ⟨runs_running _ _ _ (by decide +kernel), runs_running _ _ _ (by decide +kernel), runs_running _ _ _ (by decide +kernel), runs_running _ _ _ (by decide +kernel),
    runs_fits _ _ rfl rfl rfl rfl rfl⟩

/-- A FILL of 70,000 bytes at 0x1000 that has begun. -/
def filling : State := setCopy (runs imaged (fillCmd 70000)) 0 { copy0 with dst := 0x1000, total := 70000, pattern := 0x0807060504030201#64 }

theorem witness_CopyEnginesRun :
    (copyOf (runs imaged copyCmd) 0).total = 0 ∧ farSource (runs imaged copyCmd) (cmdFld copyCmd.bits 24 31) = false ∧
    scrubRange (runs imaged (scrubCmd 64)) (cmdFld (scrubCmd 64).bits 24 31) (cmdFld (scrubCmd 64).bits 32 39) = true ∧
    scrubRange (runs imaged (scrubCmd 63)) (cmdFld (scrubCmd 63).bits 24 31) (cmdFld (scrubCmd 63).bits 32 39) = false ∧
    (filling.integ.ecc = [] ∧ regActive filling 0xC00010 0 < 2 ^ 62 ∧ region filling.fuse.grade ((copyOf filling 0).dst + (copyOf filling 0).done) = .hbm ∧ readsOf filling 0 = false ∧
      chunkHeld filling (copyOf filling 0) = false ∧ (copyOf filling 0).done + 65536 < (copyOf filling 0).total ∧ (slotOf filling 0).cmd = some (fillCmd 70000) ∧
      (slotOf filling 0).queue = some 0 ∧ (slotOf filling 0).state = 5 ∧ (slotOf filling 0).flags = [] ∧ opcodeOf (fillCmd 70000).bits = 5) := by decide +kernel

def fuseCmd (action slot svn confirm : Nat) : Fetched := cmd 0x76 [(16, action), (17, slot), (18, svn), (20, confirm), (24, 0x1000)]

/-- A module whose key slots 0 and 1 are live. -/
def twoKeys : State := { imaged with fuse := { imaged.fuse with slots := [(0, { programmed := true, revoked := false, hash := 0#384 }), (1, { programmed := true, revoked := false, hash := 1#384 })] } }

/-- A command that runs and that has its block at hand. -/
def withParam (s : State) (bs : List PByte) : State := setSlot s 0 { slotOf s 0 with param := some bs }

theorem witness_FuseCommandsNeedConfirm_running : ∀ a sl v cf, a ∈ [1, 2, 3] → sl < 4 → v < 64 → (cf = 0 ∨ cf = 0x45535546) → opcodeOf (fuseCmd a sl v cf).bits = 0x76 →
    Running (runs imaged (fuseCmd a sl v cf)) 0 0 0x76 (fuseCmd a sl v cf) ∧ RecordFits (runs imaged (fuseCmd a sl v cf)) (fuseCmd a sl v cf) :=
  fun _ _ _ _ _ _ _ _ h => ⟨runs_running _ _ _ h, runs_fits _ _ rfl rfl rfl rfl rfl⟩

theorem witness_FuseCommandsNeedConfirm :
    (∀ a ∈ [1, 2, 3], opcodeOf (fuseCmd a 1 0 0).bits = 0x76 ∧ cmdFld (fuseCmd a 1 0 0).bits 20 23 ≠ 0x45535546 ∧ cmdFld (fuseCmd a 1 0 0).bits 16 16 = a) ∧
    (cmdFld (fuseCmd 1 1 0 0x45535546).bits 20 23 = 0x45535546 ∧ cmdFld (fuseCmd 1 3 0 0x45535546).bits 17 17 = 3 ∧ (keySlotOf imaged 1).programmed = false ∧ (keySlotOf imaged 1).revoked = false) ∧
    (∃ b u, blockRead (withParam (runs imaged (fuseCmd 1 1 0 0x45535546)) (clean (List.replicate 48 7#8))) 0 0x1000 48 = .bytes b u ∧ b = List.replicate 48 7#8) ∧
    ((liveSlots twoKeys).contains 1 = true ∧ 1 < (liveSlots twoKeys).length) ∧
    (cmdFld (fuseCmd 3 0 63 0x45535546).bits 18 18 ≤ 63 ∧ imaged.fuse.minSvn < cmdFld (fuseCmd 3 0 63 0x45535546).bits 18 18) :=
  ⟨by decide +kernel, by decide +kernel, ⟨_, _, rfl, by decide +kernel⟩, by decide +kernel, by decide +kernel⟩

/-- The imaged module with a watchdog of 100 us on slot 0. -/
def watched : State := { imaged with time := { imaged.time with count := 100000#64 }, image := { imaged.image with force := some { image0 with slots := [(0, { watchdogUs := 100, minPriority := 0 })] } } }

/-- A completion ring whose message is due, of a port with MSI-X enabled. -/
def due : State := { imaged with fe := { imaged.fe with cqs := [(0, { cq0 with msixDue := true })] }, host := { imaged.host with msixEnable := 1#2, msix := [(0, { msixEntry0 with masked := false })] } }

theorem witness_WatchdogAndRings :
    isWatched imaged 0 = false ∧
    (isWatched (runs watched copyCmd) 0 = true ∧ (slotOf (runs watched copyCmd) 0).cmd = some copyCmd ∧ (slotOf (runs watched copyCmd) 0).queue = some 0 ∧
      holdsPartition (opcodeOf copyCmd.bits) = false ∧ noDispatcher (runs watched copyCmd) = false) ∧
    ((cqOf { imaged with fe := { imaged.fe with cqs := [(63, { cq0 with tail := 64#32 })] } } 63).tail - 0#32).toNat ≤ ringEntries (cqRing imaged 63) ∧
    ringEntries (cqRing imaged 63) < ((cqOf { imaged with fe := { imaged.fe with cqs := [(63, { cq0 with tail := 65#32 })] } } 63).tail - 0#32).toNat ∧
    msixIsDue imaged 64 = false ∧ ((cqOf due 0).msixDue = true ∧ region due.fuse.grade (ringBase (cqRing due 0)) = .hbm ∧ due.host.msixEnable.toNat.testBit (msixPort due) = true ∧
      due.host.msixMask.toNat.testBit (msixPort due) = false ∧ (msixOf due (msixPort due) (msixVector due 0)).masked = false) ∧
    (msixOf { due with host := { due.host with msix := [(0, { msixEntry0 with masked := true })] } } 0 0).masked = true ∧
    msixFree due 0 = true ∧ msixFree { due with fe := { due.fe with cqs := [(0, { cq0 with msixDue := true, msixAt := some 0#64 })] } } 0 = false := by decide +kernel

/-! ### Witnesses: registers, images and banks -/

/-- BANK_OWNERS of core c (R369, R382). -/
def bankDescOf (c : Nat) : RegDesc := { inst := .bank c, live := 0, staged := mask 19 16 + mask 14 12 + mask 10 8 + mask 6 4 + mask 2 0, frozen := 0, reset := 0x3210 }

theorem witness_FieldClasses :
    (imaged.power.state = 2 ∧ imaged.power.perst = false) ∧ (7 : Nat) % 8 ≠ 0 ∧
    (regDesc imaged (bankReg 3) = some (bankDescOf 3) ∧ (bankDescOf 3).live = 0 ∧ (bankDescOf 3).frozen = 0 ∧ holdsInst imaged (bankDescOf 3).inst = false ∧
      legalWrite (bankDescOf 3).inst (bankReg 3) (cellOf imaged (bankReg 3) (bankDescOf 3)).active.toNat (cellOf imaged (bankReg 3) (bankDescOf 3)).shadow.toNat (0x4444#64 : BitVec 64).toNat = (0x4444#64 : BitVec 64).toNat) := by
  decide +kernel

/-- BAR_CFG_0 of core 1, whose barrier has an arrival. -/
def barArrived : State := { imaged with sync := { imaged.sync with bars := [(32, { bar0 with arrived := 1 })] } }
def barDesc : RegDesc := (regDesc imaged 0x700800).getD (bankDescOf 0)

theorem witness_FieldClasses_frozen :
    barDesc.inst = .sync 1 ∧ regDesc barArrived 0x700800 = some barDesc ∧ busyFor barArrived barDesc.inst 0x700800 = true ∧ holdsInst barArrived barDesc.inst = false ∧
    (BitVec.ofNat 64 (legalWrite barDesc.inst 0x700800 (mergeBits barDesc.live (cellOf barArrived 0x700800 barDesc).active (cellOf barArrived 0x700800 barDesc).last).toNat
      (cellOf barArrived 0x700800 barDesc).shadow.toNat (3#64 : BitVec 64).toNat) ^^^ (cellOf barArrived 0x700800 barDesc).active) &&& BitVec.ofNat 64 barDesc.frozen ≠ 0#64 := by
  decide +kernel

def bankCell (snap : Option (BitVec 64)) : CfgCell := { active := 0x3210#64, last := 0x3210#64, shadow := 0x3213#64, snap := snap }
def withBank (snap : Option (BitVec 64)) : State :=
  { imaged with cfg := [(bankReg 3, bankCell snap)], insts := [{ inst := .bank 3, frozenWrites := 0, lastOffset := 0, lastStatus := 0, seen := false, commitPending := snap.isSome, pairFailed := false, held := [] }] }

theorem witness_RegistersCommit :
    (commitInst (withBank none).fuse.grade 0x6000C8 = some (.bank 3) ∧ holdsInst (withBank none) (.bank 3) = false ∧ instCells (withBank none) (.bank 3) = [(bankReg 3, bankDescOf 3, bankCell none)] ∧
      mfind (withBank none).cfg (bankReg 3) = some (bankCell none) ∧ (bankDescOf 3).staged ≠ 0) ∧
    (8 * (0#23 : BitVec 23).toNat < 0xF80000) ∧ 0xF88100 ≤ 8 * (0x1F1020#23 : BitVec 23).toNat := by decide +kernel

def loadCmd (n : Nat) : Fetched := cmd 0x70 [(24, 0x1000), (32, n)]

/-- A signed partition image of partition 0 that holds one section, which the device skips. It was signed for this test: the signature is made, by hand, from a public key of the test's own. -/
def testImage : List PByte := clean (leBytes 448 0xde911f34ee3572ea25c9097970ceeadd72def3be3350133b56830c757e0c27c01d7604383634a80b98cd75eda1713de0de911f34ee3572ea25c9097970ceeadd72def3be3350133b56830c757e0c27c01d7604383634a80b98cd75eda1713deb79fdfd145f9d9bf9699ae4b2bef1adcd018b18988b4beb358ec23509ddb28d0a737f893c97666d22f16e6195d0c1d484883b4d2da7dc715f13f5dd860cfe620a19ec107c7bb2ae2b6df271f5ce8e24663aed4ae6011b1d2751df882472a1c415bb99848f1d21ad5fb656fe7bfde4e27dae1f663bfc70c4c4307be1411b7fd216ae3b1b17e32d94c3896ac51a760b03800000000000000000001000000017777000000000000000000000000000000000000000000000000000000000000000000000000000000000000000000000000000000000000000000000000000000000000000000000000000000000000000000000000000000000000000000000001000000000000000000000000000001c000000001000064160002000155534345)

/-- A module whose slot 0 runs the load of that image, copied whole, and whose key slot 0 names the test's key. -/
def loading (bs : List PByte) : State :=
  let s := runs { imaged with fuse := { imaged.fuse with slots := [(0, { programmed := true, revoked := false, hash := 0xa69128b25a9f3f01b5d4df17369c3dfee293931b41d66d20e5f24014e71c8287be688ca1ae462c44960bf009649834fb#384 })] } } (loadCmd 448)
  { s with image := { s.image with loading := some { mask := 1#64, slot := 0, source := 0x1000, length := 448, data := bs, asked := false } } }

def loadRun (bs : List PByte) : LoadRun := { mask := 1#64, slot := 0, source := 0x1000, length := 448, data := bs, asked := false }

theorem witness_ImagesLoadAndTakeEffect_load :
    structuralTurn imaged 0 = false ∧
    (structuralTurn (runs imaged (loadCmd 448)) 0 = true ∧ region imaged.fuse.grade (cmdFld (loadCmd 448).bits 24 31) = .hbm ∧ 0 < cmdFld (loadCmd 448).bits 32 39 ∧
      dmaHeld (runs imaged (loadCmd 448)) (cmdFld (loadCmd 448).bits 24 31) (min 128 (cmdFld (loadCmd 448).bits 32 39)) = false ∧ opcodeOf (loadCmd 448).bits = 0x70) ∧
    ((loading testImage).image.loading = some (loadRun testImage) ∧ fromWindow (loading testImage) (loadRun testImage) = false ∧ (loadRun testImage).data.length = loadGoal (loadRun testImage) ∧
      headBytes (loadRun testImage) ≤ (loadRun testImage).data.length ∧ keyUnderWay (loading testImage) = false ∧
      needsKey (loading testImage) (loadHeader (loadRun testImage)) (stagedSections (loadHeader (loadRun testImage)) (dataOf testImage)).1 = false) ∧
    stagingFits (loading testImage) false 1#64 448 = true := by decide +kernel

theorem witness_ImagesLoadAndTakeEffect_passes : checkStages (loading testImage) (loadHeader (loadRun testImage)) testImage = none := by decide +kernel

/-- The image with poison in its key: the stage KEY fails. -/
def poisonImage : List PByte := testImage.take 192 ++ [(0#8, true)] ++ testImage.drop 193

theorem witness_ImagesLoadAndTakeEffect_fails :
    (loadRun poisonImage).data.length = loadGoal (loadRun poisonImage) ∧
    checkStages (loading poisonImage) (loadHeader (loadRun poisonImage)) poisonImage = some { stage := 2, sect := 0, status := stImageAuth, poison := true } := by decide +kernel

def commitCmd (m : Nat) : Fetched := cmd 0x71 [(24, m)]

/-- A pending load for partitions 0 and 1. -/
def pending2 : PendingLoad := { whole := false, tag := 3#64, bytes := 448, rate := 0, buildId := 0#128, key := none, sections := [] }
def staged : State := runs { imaged with image := { imaged.image with pending := [pending2] } } (commitCmd 1)
def committing : State := { imaged with image := { imaged.image with pending := [pending2], committing := some { slot := some 0, mask := 3#64, drains := [], rateChange := false, relockWait := false, applied := false, insts := [] } } }

theorem witness_ImagesLoadAndTakeEffect_commit :
    (structuralTurn staged 0 = true ∧ opcodeOf (commitCmd 1).bits = 0x71 ∧ (∃ p ∈ staged.image.pending, p.tag &&& BitVec.ofNat 64 (cmdFld (commitCmd 1).bits 24 31) ≠ 0#64 ∧
      p.tag &&& BitVec.ofNat 64 (cmdFld (commitCmd 1).bits 24 31) ≠ p.tag)) ∧
    (structuralTurn (runs imaged (commitCmd 0)) 0 = true ∧ (∀ p ∈ staged.image.pending, p.tag &&& BitVec.ofNat 64 (cmdFld (commitCmd 0).bits 24 31) = 0#64)) ∧
    (∀ p ∈ staged.image.pending, p.tag &&& BitVec.ofNat 64 (cmdFld (commitCmd 3).bits 24 31) = p.tag) ∧ imaged.image.committing = none ∧ committing.image.committing.isSome = true ∧
    RecordFits staged (commitCmd 1) ∧
    (commitLoads { committing with image := { committing.image with pending := [] } } 3#64 = [] ∧
      (∀ i ∈ coveredInsts imaged { slot := some 0, mask := 3#64, drains := [], rateChange := false, relockWait := false, applied := false, insts := [] }, instCells imaged i = []) ∧
      (slotOf committing 0).flags = []) := by
  refine ⟨by decide +kernel, by decide +kernel, by decide +kernel, rfl, rfl, runs_fits _ _ rfl rfl rfl rfl rfl, by decide +kernel, by decide +kernel, rfl⟩

theorem witness_BanksChangeHandsAndAreTested :
    (3 < logicalCores imaged ∧ (instOf (withBank (some 0x3213#64)) (.bank 3)).commitPending = true ∧ holdsSnap (withBank (some 0x3213#64)) (.bank 3) = false ∧
      (heldBanks (withBank (some 0x3213#64)) 3).all (ownerRests (withBank (some 0x3213#64)) 3) = true ∧ instCells (withBank (some 0x3213#64)) (.bank 3) = [(bankReg 3, bankDescOf 3, bankCell (some 0x3213#64))] ∧
      regDesc (withBank (some 0x3213#64)) (bankReg 3) = some (bankDescOf 3) ∧ mfind (withBank (some 0x3213#64)).cfg (bankReg 3) = some (bankCell (some 0x3213#64)) ∧
      (bankCell (some 0x3213#64)).snap = some 0x3213#64 ∧ imaged.net.rx = [] ∧ imaged.integ.ecc = []) ∧
    ((bankOf imaged 3).region.length = 4 ∧ bankTestOn imaged 3 = true ∧ nth 0 ({ bank0 with region := [0, 0, 0, 4095] } : BankSt).region 3 = 4095) ∧
    bankTestOn { imaged with cfg := [(bankTestReg 3, { active := 0#64, last := 0#64, shadow := 0#64, snap := none })] } 3 = false := by decide +kernel

/-- Core 0, whose bank 0 a commit gives from the array to the vector unit, while an array operation holds its partition. -/
def bankBusy : State :=
  { imaged with
    cfg := [(bankReg 0, { active := 0x3210#64, last := 0x3210#64, shadow := 0x3211#64, snap := some 0x3211#64 })]
    insts := [{ inst := .bank 0, frozenWrites := 0, lastOffset := 0, lastStatus := 0, seen := false, commitPending := true, pairFailed := false, held := [] }]
    parts := [(0, { part0 with holder := some 1, op := some { slot := 1, kind := .array, desc := 0#2048, tree := false, band64 := false, table := [], status := 0, started := 0#64 } })] }

theorem witness_BanksChangeHandsAndAreTested_waits :
    (instOf bankBusy (.bank 0)).commitPending = true ∧ holdsSnap bankBusy (.bank 0) = false ∧ (heldBanks bankBusy 0).all (ownerRests bankBusy 0) = false := by decide +kernel

/-! ### Witnesses: the host interface, errors and availability -/

theorem witness_Bar4ReachesMemory :
    (imaged.integ.ecc = [] ∧ imaged.integ.badCheckers = [] ∧ regActive imaged 0xC00010 0 < 2 ^ 62 ∧ barRanges 18 imaged 0x1000 16 = [(some 0x1000, 16)]) ∧
    (∀ i, i < 16 → region imaged.fuse.grade (0x1000 + i) = .hbm) ∧ (booting 9).power.state ≠ 2 := by decide +kernel

/-- Segment 1 of BAR4 is a hole. -/
def holed : State := { imaged with cfg := [(segReg 1, { active := 0#64, last := 0#64, shadow := 0#64, snap := none })] }

theorem witness_Bar4ReachesMemory_hole : barRanges 18 holed (2 ^ 32) 4 = [(none, 4)] ∧ (clean (leBytes 4 7)).length = 4 ∧ (∀ b ∈ clean (leBytes 4 7), b.2 = false) := by decide +kernel

/-- BAR4 reaches the scratchpads, and bank 0 of core 0 belongs to the DMA engine. -/
def scratchOpen : State := { imaged with cfg := [(bankReg 0, { active := 0x3213#64, last := 0x3213#64, shadow := 0#64, snap := none }), (segReg 0, { active := 0x8000011000000000#64, last := 0#64, shadow := 0#64, snap := none })] }

theorem witness_AtomicsActInScratchpads :
    barRanges 2 scratchOpen 0xFFFF8 8 = [(some 0x0110000FFFF8, 8)] ∧ region scratchOpen.fuse.grade 0x0110000FFFF8 = .scratch 0 0xFFFF8 ∧ (0xFFFF8 : Nat) % 2 ^ 20 + 8 ≤ 2 ^ 20 ∧
    dmaHeld scratchOpen 0x0110000FFFF8 8 = false ∧ bankAdmits scratchOpen 3 0 0 = true ∧ (∀ i, i < 8 → region scratchOpen.fuse.grade (0x0110000FFFF8 + i) = .scratch 0 (0xFFFF8 + i)) ∧
    scratchOpen.integ.ecc = [] ∧ scratchOpen.integ.badCheckers = [] ∧ regActive scratchOpen 0xC00010 0 < 2 ^ 62 ∧
    (barRanges 2 scratchOpen 0xFFFF4 8 = [(some 0x0110000FFFF4, 8)] ∧ region scratchOpen.fuse.grade 0x0110000FFFF4 = .scratch 0 0xFFFF4 ∧ (0xFFFF4 : Nat) % 8 ≠ 0) ∧
    (barRanges 2 imaged 8 8 = [(some 8, 8)] ∧ region imaged.fuse.grade 8 = .hbm) := by decide +kernel

theorem witness_PortsAndCompletions :
    (booting 3).power.bootStep ≤ 3 ∧ (booting 3).power.state ≠ 2 ∧ (booting 3).power.perst = false ∧ 3 < (booting 4).power.bootStep ∧ (booting 4).host.msix = [] ∧
    (16 : Nat) ∈ [1, 2, 4, 8, 16] ∧ on.power.perst = false := by decide +kernel

/-- Slot 0's block is being read from a host window. -/
def paramRead (got : List PByte) : DevRead := { tag := 5, port := 0, addr := 0, bytes := 64, got := got, why := .param 0 }
def reading : State :=
  let s := runs imaged (fuseCmd 1 1 0 0x45535546)
  { setSlot s 0 { slotOf s 0 with paramDue := true } with host := { s.host with reads := [paramRead []] } }

theorem witness_PortsAndCompletions_reads :
    windowReadOf reading 6 = none ∧ windowReadOf reading 5 = some (paramRead []) ∧ (slotOf reading 0).paramDue = true ∧ records reading (slotPart reading 0) 8 = false := by decide +kernel

theorem witness_FaultsAreCountedOnce :
    (3 : Nat) < 4 ∧ catField (errCtrOf on 5) 1 < 65535 ∧ threshold on 1 ≠ 0 ∧ (catField (errCtrOf on 5) 1 + 1) % threshold on 1 = 0 ∧ mfind on.err.crossings (4 * 5 + 1) = none ∧
    on.msg.queue.length < 64 ∧ (catField (errCtrOf on 5) 0 + 1) % threshold on 0 ≠ 0 ∧
    threshold { on with cfg := [(0x4000, { active := 0#64, last := 0#64, shadow := 0#64, snap := none })] } 1 = 0 := by decide +kernel

/-- A span of the CONFIG counter's PROTOCOL that held n crossings back. -/
def spanned (n : Nat) : State := { on with err := { on.err with crossings := [(4 * (2 * 4096 + 4095) + 3, { at_ := 0#64, suppressed := n })] } }

theorem witness_MessagesAndSensors :
    (mfind (spanned 0).err.crossings (4 * (2 * 4096 + 4095) + 3) = some { at_ := 0#64, suppressed := 0 } ∧ mfind (spanned 1).err.crossings (4 * (2 * 4096 + 4095) + 3) = some { at_ := 0#64, suppressed := 1 }) ∧
    (on.msg.tail - 0#32).toNat ≤ ringEntries (msgRing on) ∧ ringEntries (msgRing on) < (on.msg.tail - 1#32).toNat ∧ sensorPeriod on = 0 ∧
    sensorPeriod { on with cfg := [(0x4210, { active := 0x10000000000#64, last := 0#64, shadow := 0#64, snap := none })] } ≠ 0 ∧
    on.time.count.toNat % (1 * 2 ^ 30) = 0 ∧ (1#64 : BitVec 64).toNat % (1 * 2 ^ 30) ≠ 0 ∧
    (2 ^ 20 ≤ sinceCount { spanned 1 with time := { on.time with count := 1048576#64 } } 0#64 ∧ sinceCount (spanned 1) 0#64 < 2 ^ 20) ∧
    (sensorZone on.rate.rate 0 30000 ≠ 0 ∧ sensorZone on.rate.rate 0 30000 ≠ mget 0 on.err.sensorOut 0 ∧ mfind on.err.sensorAt 0 = none) ∧
    (State.reset.power.standby = true ∧ State.reset.power.state ≠ 2 ∧ 8 * (0x21#24 : BitVec 24).toNat = 0x108 ∧ 0x2000 ≤ 8 * (0x400#24 : BitVec 24).toNat) := by decide +kernel

def oneDispatcher (g : BitVec 2) : State := { imaged with fuse := { imaged.fuse with dispGood := g } }

/-- A window whose channel 7 has 1,000 requests. -/
def hotCounts : List Nat := (List.range 512).map (fun i => if i = 7 then 1000 else 100)

theorem witness_DispatchersAndBalance :
    noDispatcher imaged = false ∧ noDispatcher (oneDispatcher 0#2) = true ∧ imaged.fuse.dispGood = 3#2 ∧ (oneDispatcher 1#2).fuse.dispGood = 1#2 ∧ (oneDispatcher 2#2).fuse.dispGood = 2#2 ∧
    hotCounts.length = 512 ∧ hotCounts.foldl (· + ·) 0 ≠ 0 := by decide +kernel

def retireCmd (c : Nat) : Fetched := cmd 0x77 [(16, 1), (20, c)]

theorem witness_CoresRetire_running : Running (runs imaged (retireCmd 0)) 0 0 0x77 (retireCmd 0) ∧ RecordFits (runs imaged (retireCmd 0)) (retireCmd 0) :=
  ⟨runs_running _ _ _ (by decide +kernel), runs_fits _ _ rfl rfl rfl rfl rfl⟩

/-- The row of core 0 has lost its spares. -/
def spent : State := { imaged with fuse := { imaged.fuse with rows := [(0, { fail0 := none, fail1 := none, retired := [0, 1] })] } }

/-- RETIRE_AUTO is set, and the HARD count of core 0 has reached its threshold. -/
def failing : State :=
  { imaged with
    cfg := [(0x4000, { active := 1#64, last := 1#64, shadow := 0#64, snap := none }), (0x4210, { active := 2#64, last := 2#64, shadow := 0#64, snap := none })]
    err := { imaged.err with counters := [(errCore 0, { errCtr0 with hard := 1 })] } }

theorem witness_CoresRetire_auto :
    (structuralFree imaged = true ∧ retiresItself imaged 0 = false) ∧
    (structuralFree failing = true ∧ failing.power.state = 2 ∧ retiresItself failing 0 = true ∧ hasSpare failing (rowNo failing 0) = true ∧ retireQuiet failing (rowNo failing 0) = true) := by decide +kernel

theorem witness_CoresRetire :
    cmdFld (retireCmd 0).bits 16 16 = 1 ∧ structuralTurn (runs imaged (retireCmd 0)) 0 = true ∧ logicalCores imaged ≤ cmdFld (retireCmd 2000).bits 20 21 ∧
    cmdFld (retireCmd 0).bits 20 21 < logicalCores imaged ∧ hasSpare (runs imaged (retireCmd 0)) (rowNo imaged 0) = true ∧ retireQuiet (runs imaged (retireCmd 0)) (rowNo imaged 0) = true ∧
    hasSpare spent (rowNo spent 0) = false ∧
    retireQuiet { imaged with parts := [(0, { part0 with holder := some 3 })] } (rowNo imaged 0) = false := by decide +kernel

/-! ### Witnesses: links -/

/-- A link that is up on four lanes. -/
def link4 : LinkSt := { upLink with laneMask := 0x0F }

/-- A frame of four lanes whose slots are empty and whose sequence number and acknowledgement are zero. -/
def emptyFrame : List Byte := List.replicate 2562 0#8 ++ leBytes 8 (crc64 (List.replicate 2562 0#8))

/-- The messages of its four lanes. -/
def emptyLanes : List (BitVec 5140) := laneMessages 4 emptyFrame

set_option maxRecDepth 20000 in
theorem witness_FramesAndLanes_lanes : emptyLanes.length = 4 ∧ frameOfLanes emptyLanes = emptyFrame := by decide +kernel

set_option maxRecDepth 20000 in
theorem witness_FramesAndLanes :
    (sendsFrames (linkOf (linked link4) 0) = true ∧ (linkOf (linked link4) 0).resend = [] ∧ (linkOf (linked link4) 0).unacked.length < 64 ∧ (linkOf (linked link4) 0).switchOurs = false) ∧
    ((linkOf (linked { link4 with switchAt := some (0#32, 0x0F), switchOurs := true }) 0).switchOurs = true ∧
      (linkOf (linked { link4 with switchAt := some (0#32, 0x0F), switchOurs := true }) 0).switchAt.map Prod.fst = some (linkOf (linked link4) 0).txSeq) ∧
    (linkOf (linked { link4 with resend := [[1#8]] }) 0).resend = [[1#8]] ∧ 64 ≤ (linkOf (linked { link4 with unacked := List.replicate 64 (0#32, []) }) 0).unacked.length ∧
    (takesLanes (linkOf (linked link4) 0) 4 = true ∧ takesLanes (linkOf (linked link4) 0) 8 = true ∧ codeLength 4 + 64 * (10 * 4) = 2570 ∧ emptyFrame.length = 2570 ∧
      crc64 (emptyFrame.take 2562) = ofLe ((emptyFrame.drop 2562).take 8) ∧ BitVec.ofNat 32 (ofLe ((emptyFrame.drop 2506).take 4)) = (linkOf (linked link4) 0).rxSeq + 1#32 ∧
      BitVec.ofNat 32 (ofLe ((emptyFrame.drop 2506).take 4)) ≠ (linkOf (linked { link4 with rxSeq := 5#32 }) 0).rxSeq + 1#32 ∧ takesLanes (linkOf (linked link4) 0) ([] : List (BitVec 5140)).length = false) ∧
    (linkOf (linked { link4 with state := 5 }) 0).state = 5 ∧
    ((linkOf (linked upLink) 0).state = 3 ∧ (∀ g ∈ [0x3F, 0x1F, 0x0F, 0x07], g &&& (linkOf (linked upLink) 0).laneMask ≠ (linkOf (linked upLink) 0).laneMask) ∧
      6 ≤ popUpTo 8 0x3F ∧ 4 ≤ popUpTo 8 0x1F ∧ popUpTo 8 0x1F < 6 ∧ 4 ≤ popUpTo 8 0x0F ∧ popUpTo 8 0x07 < 4) ∧
    ((linkOf (linked { upLink with switchAt := some (0#32, 0x0F) }) 0).switchAt = some (0#32, 0x0F) ∧ switchReached { upLink with switchAt := some (0#32, 0x0F) } (0#32, 0x0F) = true ∧
      switchReached { upLink with switchAt := some (64#32, 0x0F) } (64#32, 0x0F) = false) := by decide +kernel

/-- A HELLO of the peer that LINK_TOPOLOGY names, and one of another module. -/
def helloFlit (peer : Nat) : BitVec 512 := flit [(0, 0x20), (2, peer), (4, 0), (5, 2), (6, 0)]

def linkCmd (action links : Nat) : Fetched := cmd 0x72 [(16, action), (20, links), (24, 0x1000)]

theorem witness_LinksTrainAndComeUp_running (s : State) (a l : Nat) (h : opcodeOf (linkCmd a l).bits = 0x72) (h1 : s.fuse = State.reset.fuse) (h2 : s.msg = State.reset.msg)
    (h3 : s.fe = State.reset.fe) (h4 : s.cfg = []) : Running (runs s (linkCmd a l)) 0 0 0x72 (linkCmd a l) ∧ RecordFits (runs s (linkCmd a l)) (linkCmd a l) :=
  ⟨runs_running _ _ _ h, runs_fits _ _ h1 h2 h3 h4 rfl⟩

theorem witness_LinksTrainAndComeUp :
    ((linkOf (linked { upLink with state := 2, trained := false }) 0).trained = false ∧ popUpTo 8 (0xFF#8).toNat ∈ [8, 6, 4] ∧ popUpTo 8 (0xFF#8).toNat ≤ maxLanes (linked { upLink with state := 2, trained := false }) 0) ∧
    ((linkOf (linked { upLink with state := 1 }) 0).state = 1 ∧ (linkOf (linked { upLink with state := 1 }) 0).everUp = true) ∧
    ((linkOf (linked { upLink with state := 4, rxMgmt := [helloFlit 0] }) 0).rxMgmt = [helloFlit 0] ∧ flitByte (helloFlit 0) 0 0 = 0x20 ∧ flitByte (helloFlit 0) 2 2 = (linkTopo (linked upLink) 0).peer ∧
      flitByte (helloFlit 0) 4 4 = (linkTopo (linked upLink) 0).peerLink ∧ flitByte (helloFlit 0) 5 5 = domainSize (linked upLink) ∧ flitByte (helloFlit 0) 6 6 = image1.leader) ∧
    flitByte (helloFlit 1) 2 2 ≠ (linkTopo (linked upLink) 0).peer ∧
    (cmdFld (linkCmd 1 1).bits 16 16 = 1 ∧ (linksNamed (linkCmd 2 1)).any (unused (linked link0)) = false ∧ waitsForLinks (linked link0) 0 = false ∧ linksNamed (linkCmd 2 1) = [0] ∧
      (∀ l ∈ linksNamed (linkCmd 2 1), (linkOf (linked link0) l).state ≤ 1) ∧ (∀ l ∈ linksNamed (linkCmd 2 1), (linkOf (linked upLink) l).state = 3) ∧ cmdFld (linkCmd 3 1).bits 16 16 = 3) ∧
    (linksNamed (linkCmd 2 2)).any (unused (linked link0)) = true := by decide +kernel

theorem witness_LinksTrainAndComeUp_trainers : ∀ l, (linkOf (linked upLink) l).trainers = [] := by
  intro l
  by_cases h : l = 0
  · subst h; rfl
  · have : linkOf (linked upLink) l = link0 := by
      have h' : ¬ 0 = l := fun e => h e.symm
      simp [linkOf, linked, mget, mfind, h']
    rw [this]; rfl

/-- A block of 64 bytes whose first 32-bit word is n. -/
def block (n : Nat) : List PByte := clean (leBytes 64 n)

/-- Module 1 with link 0 disabled, a LINK_CONFIG with its block at hand. -/
def linkBlock (x : LinkSt) (a links n : Nat) : State := withParam (runs (linked x) (linkCmd a links)) (block n)

/-- A PRBS test of link 0 that runs. -/
def prbsRuns : State := { runs (linked link0) (linkCmd 5 1) with net := { (linked link0).net with prbs := some { slot := 0, links := [0], dest := 0x1040 } } }

/-- A packet that module 0 has sent to module 1. -/
def packet (typ seq addr : Nat) (bs : List PByte) : Packet :=
  { typ := typ, dst := 1, src := 0, seq := seq, addr := addr, len := bs.length, offset := addr % 64, tag := 5, inline := 7#64, data := bs, slot := none }

/-- A multicast transfer of module 1 to modules 0 and 2. -/
def transfer (granted : Nat) : McastTx :=
  { group := 3, id := 9#32, members := 5#64, granted := BitVec.ofNat 64 granted, sent := false, offset := 0, data := [], slot := none, owner := 1 }

def withNet (s : State) (n : LinksSt) : State := { s with net := { n with links := s.net.links } }

theorem witness_LinkSettingsAndMulticast :
    (∃ b u, blockRead (linkBlock link0 4 1 6) 0 0x1000 64 = .bytes b u ∧ blkFld b 0 0 ∈ [8, 6, 4] ∧ (linksNamed (linkCmd 4 1)).all (disabled u) = true) ∧
    (∃ b u, blockRead (linkBlock upLink 4 1 6) 0 0x1000 64 = .bytes b u ∧ (linksNamed (linkCmd 4 1)).find? (fun l => !disabled u l) = some 0 ∧ (slotOf u 0).state = 5) ∧
    (∃ b u, blockRead (linkBlock link0 5 1 1000000) 0 0x1000 64 = .bytes b u ∧ blkFld b 0 3 = 1000000 ∧ (linkBlock link0 5 1 1).net.prbs = none ∧
      (∀ l ∈ linksNamed (linkCmd 5 1), unused u l = false ∧ disabled u l = true)) :=
  ⟨⟨_, _, rfl, by decide +kernel⟩, ⟨_, _, rfl, by decide +kernel⟩, ⟨_, _, rfl, by decide +kernel⟩⟩

theorem witness_LinkSettingsAndMulticast_rest :
    (prbsRuns.net.prbs = some { slot := 0, links := [0], dest := 0x1040 } ∧ opcodeOf (linkCmd 5 1).bits = 0x72 ∧ cmdFld (linkCmd 5 1).bits 16 16 = 5 ∧ prbsRuns.integ.ecc = [] ∧
      (∀ i, i < 64 → region prbsRuns.fuse.grade (0x1040 + i) = .hbm)) ∧
    ((pairRxOf (withNet (linked upLink) { on.net with rx := [(0, { pairRx0 with unreported := 3 })] }) 0).unreported ≠ 0 ∧ upRoute (linked upLink) 0 = [0] ∧ (pairRxOf (linked upLink) 0).unreported = 0 ∧
      upRoute (linked { upLink with state := 1 }) 0 = []) ∧
    ((linkOf (linked { upLink with rxMgmt := [flit [(0, 0x21), (4, 2)]] }) 0).rxMgmt = [flit [(0, 0x21), (4, 2)]] ∧ flitByte (flit [(0, 0x21), (4, 2)]) 0 0 = 0x21 ∧ (pairTxOf (linked upLink) 0).waiting = []) ∧
    (flitByte (flit [(0, 0x22), (4, 9)]) 0 0 = 0x22 ∧ (linked upLink).net.reserves = [] ∧ (linked upLink).net.buffers.length < 16 ∧ 16 ≤ (List.replicate 16 (0, 0#32, 0)).length ∧
      flitByte (flit [(0, 0x24)]) 0 0 = 0x24) ∧
    (flitByte (flit [(0, 0x23), (2, 2), (4, 9)]) 0 0 = 0x23 ∧ (transfer 0).id = BitVec.ofNat 32 (flitByte (flit [(0, 0x23), (2, 2), (4, 9)]) 4 7) ∧
      (transfer 0).members &&& ~~~((transfer 0).granted ||| BitVec.ofNat 64 (2 ^ flitByte (flit [(0, 0x23), (2, 2), (4, 9)]) 2 2)) ≠ 0#64 ∧
      (transfer 1).members &&& ~~~((transfer 1).granted ||| BitVec.ofNat 64 (2 ^ flitByte (flit [(0, 0x23), (2, 2), (4, 9)]) 2 2)) = 0#64 ∧ (transfer 1).members &&& ~~~(transfer 1).granted ≠ 0#64) := by
  decide +kernel

def wr (seq : Nat) : Packet := packet 1 seq 0x1000 (clean (leBytes 8 0x0807060504030201))

/-- A packet of module 1 to module 0 that waits whole on link 0. -/
def waits0 : Packet := { wr 0 with dst := 0, src := 1 }
def waitingLink : LinkSt := { upLink with txData := [packetFlits waits0] }

theorem witness_FramesAndLanes_waiting : popUpTo 8 0x07 < 4 ∧ (linkOf (linked waitingLink) 0).txData = [packetFlits waits0] ∧
    (linkOf (linked waitingLink) 0).txResp = [] ∧ packetHead (packetFlits waits0) = some (waits0, []) ∧ upRoute (linked waitingLink) waits0.dst = [0] := by decide +kernel

/-- Link 0 has received the flits of packet p. -/
def arrived (p : Packet) : State := linked { upLink with rxData := packetFlits p }

/-- Packet p of module 0 has been released and waits for its row. -/
def released (p : Packet) : State := withNet (linked upLink) { on.net with rx := [(0, { pairRx0 with announce := [p] })] }

/-- Slot 0's block is being read from module 0. -/
def peerReading : State :=
  let s := runs (linked upLink) (fuseCmd 1 1 0 0x45535546)
  { setSlot s 0 { slotOf s 0 with paramDue := true } with
    host := { s.host with reads := [{ tag := 5, port := peerPort, addr := 0, bytes := 8, got := [], why := .param 0 }] }
    net := { s.net with rx := [(0, { pairRx0 with announce := [packet 4 0 0 (clean (leBytes 8 3))] })] } }

/-- A packet for module 2, to which no route leads. -/
def lost : Packet := { wr 0 with dst := 2, slot := some 0 }

def held : State := withNet (linked upLink) { on.net with held := [{ pkt := lost, since := 0#64, via := none }] }

theorem witness_PacketsLandInPairOrder_data :
    packetHead (packetFlits (wr 0)) = some (wr 0, []) ∧ (wr 0).dst = moduleId (linked upLink) ∧
    BitVec.ofNat 16 (wr 0).seq = (pairRxOf (linked upLink) 0).next ∧ (pairRxOf (linked upLink) 0).window = [] ∧ (∀ i, i < 8 → region on.fuse.grade (0x1000 + i) = .hbm) ∧
    (replayOf (linked upLink)).ranges = [] := by decide +kernel

theorem witness_PacketsLandInPairOrder :
    (∀ t ∈ [2, 3, 4], (packetHead (packetFlits (packet t 0 0x1000 []))).map (fun x => x.1.typ) = some t) ∧
    (BitVec.ofNat 16 1023 ≠ (pairRxOf (linked upLink) 0).next ∧ (BitVec.ofNat 16 1023 - (pairRxOf (linked upLink) 0).next).toNat < 1024) ∧
    (lost.dst ≠ moduleId (linked upLink) ∧ upRoute (linked upLink) 2 = []) ∧
    ((takePending (released (packet 3 0 0x1000 (clean (leBytes 8 0)))) 0 3).isSome = true ∧ bestLink (linked upLink) (upRoute (linked upLink) 0) = some 0 ∧ (pairTxOf (linked upLink) 0).unreleased < 1024) ∧
    ((takePending peerReading 0 4).isSome = true ∧ (peerReadOf peerReading 5).isSome = true ∧ (slotOf peerReading 0).paramDue = true) ∧
    ((takePending (released (packet 2 0 eventBase [])) 0 2).isSome = true ∧ region on.fuse.grade eventBase = .events ∧ eventBase % 8 = 0) ∧
    (held.net.held.find? (fun h => h.pkt.dst == 2) = some { pkt := lost, since := 0#64, via := none } ∧ marchWith held 2 = [] ∧ upRoute held 2 = [] ∧ lost.typ ≠ 3 ∧ 1000 * holdUs held ≤ sinceCount { held with time := { held.time with count := 2000000#64 } } 0#64 ∧ sinceCount held 0#64 < 1000 * holdUs held ∧ upRoute (linked upLink) 0 ≠ []) := by
  decide +kernel

/-! ### Witnesses: synchronisation -/

/-- Register cell off holds v. -/
def cell (v : Nat) : CfgCell := { active := BitVec.ofNat 64 v, last := BitVec.ofNat 64 v, shadow := BitVec.ofNat 64 v, snap := none }

/-- Module 1, whose barrier 31 of core 2 counts n arrivals and stands as x says; context 9 of core 2 stands as w says. -/
def barred (n : Nat) (x : BarSt) (w : CtxSt) : State :=
  let s := linked upLink
  { s with cfg := [(0x700000 + 0x800 * 2 + 0x10 * 31, cell (n + 0xFFF * 2 ^ 35))], sync := { s.sync with bars := [(2 * 32 + 31, x)], ctxs := [(9, w)] } }

/-- A host signal word for barrier 31. -/
def signal (sense : Nat) : BitVec 64 := BitVec.ofNat 64 (31 + sense * 2 ^ 61)

/-- Context 9 waits for barrier 31 of core 2 with sense 1. -/
def waiting9 : CtxSt := { ctx0 with wait := some (.bar (1 * 2048 + 2) 31 true) }

/-- Core 2 of module 1 belongs to partition 0, one of whose packets is held. -/
def blocked (s : State) : State :=
  let p := { image1 with parts := [(0, { part0Img with shape := { part0Img.shape with loCol := 2, hiCol := 2 } })] }
  { s with image := { s.image with force := some p }, net := { s.net with held := [{ pkt := { wr 0 with slot := some 0 }, since := 0#64, via := none }] },
           fe := (runs imaged copyCmd).fe }

theorem witness_SynchronisationObjectsCount_held :
    writesOut (blocked (barred 2 bar0 ctx0)) 2 = true ∧ (ctxOf (blocked (barred 2 bar0 ctx0)) 9).wait = none ∧ moduleId (blocked (barred 2 bar0 ctx0)) = 1 ∧ writesOut (barred 2 bar0 ctx0) 2 = false ∧
    (ctxOf (barred 2 bar0 { waiting9 with owed := true }) 9).owed = true ∧ waiting9.held = false ∧ (∀ x ∈ (barred 2 bar0 waiting9).sync.ctxs, x.2.owed = false) := by decide +kernel

theorem witness_SynchronisationObjectsCount_barriers :
    ((9 : Nat) < 4 * logicalCores on ∧ (2 : Nat) < logicalCores on ∧ (ctxOf (barred 2 bar0 ctx0) 9).wait = none ∧ moduleId (barred 2 bar0 ctx0) = 1 ∧
      senseOf (ctxOf (barred 2 bar0 ctx0) 9) (barName 1 2 31) = false ∧ (barOf (barred 2 bar0 ctx0) 2 31).sense = false ∧ barCount (barred 2 bar0 ctx0) 2 31 = 2 ∧
      (barOf (barred 2 bar0 ctx0) 2 31).arrived + 1 ≠ 2) ∧
    ((barOf (barred 2 { bar0 with arrived := 1 } ctx0) 2 31).arrived + 1 = barCount (barred 2 { bar0 with arrived := 1 } ctx0) 2 31) ∧
    (barOf (barred 2 { bar0 with sense := true } ctx0) 2 31).sense = true ∧ barCount (barred 0 bar0 ctx0) 2 31 = 0 ∧
    (upRoute (barred 2 bar0 ctx0) 0 = [0] ∧ 0 ≠ moduleId (barred 2 bar0 ctx0)) ∧
    (sigOk true (signal 1).toNat = true ∧ sigKind (signal 1).toNat = 0 ∧ sigSense (signal 1).toNat ≠ (barOf (barred 2 bar0 ctx0) 2 (fld (signal 1).toNat 4 0)).sense ∧
      (barOf (barred 2 bar0 ctx0) 2 (fld (signal 1).toNat 4 0)).arrived + 1 < barCount (barred 2 bar0 ctx0) 2 (fld (signal 1).toNat 4 0)) ∧
    (sigOk true (BitVec.ofNat 64 (2 ^ 62 * 3)).toNat = false ∧ logicalCores on ≤ 1408) ∧
    ((barOf (barred 2 { bar0 with sense := true } waiting9) 2 31).sense = true ∧ (9 : Nat) / 4 = 2 ∧ (ctxOf (barred 2 bar0 waiting9) 9).wait = some (.bar (1 * 2048 + 2) 31 true)) ∧
    (ctxOf (barred 2 bar0 { waiting9 with mark := 4 }) 9).mark = 4 ∧ (ctxOf (barred 2 bar0 { waiting9 with mark := 4 }) 9).wait = some (.bar (1 * 2048 + 2) 31 true) ∧ (ctxOf (barred 2 bar0 waiting9) 9).mark = 0 := by decide +kernel

theorem witness_SynchronisationObjectsCount_flits :
    (flitByte (flit [(0, 0x11), (1, 1), (4, 2 + 31 * 2048), (8, 1)]) 0 0 = 0x11 ∧ flitByte (flit [(0, 0x11), (1, 1)]) 1 1 = moduleId (linked upLink)) ∧
    (flitByte (flit [(0, 0x10), (1, 1), (4, 2 + 31 * 2048), (8, 2 ^ 61)]) 0 0 = 0x10 ∧ fld (flitByte (flit [(4, 2 + 31 * 2048)]) 4 7) 10 0 = 2 ∧ fld (flitByte (flit [(4, 2 + 31 * 2048)]) 4 7) 15 11 = 31 ∧
      partOfCore (barred 2 bar0 ctx0) 2 = none ∧ bitOf (flitByte (flit [(4, 2 + 31 * 2048)]) 4 7) 16 = false ∧ flitByte (flit [(8, 2 ^ 61)]) 8 15 = arriveWord true) ∧
    0x1A < flitByte (flit [(0, 0x1B)]) 0 0 := by decide +kernel

/-- Module 1, whose counter 31 of core 2 has SLACK n and stands as x says, with context 9 as w says. -/
def counted (n : Nat) (x : CtrSt) (w : CtxSt) : State :=
  let s := linked upLink
  { s with cfg := [(0x700000 + 0x800 * 2 + 0x200 + 0x10 * 31, cell (n + 0xFFF * 2 ^ 35))], sync := { s.sync with ctrs := [(2 * 32 + 31, x)], ctxs := [(9, w)] } }

theorem witness_SynchronisationObjectsCount_counters :
    (ctrWaiters (counted 65535 ctr0 ctx0) 2 31 = [] ∧ fillOf { ctrOf (counted 65535 ctr0 ctx0) 2 31 with produced := (ctrOf (counted 65535 ctr0 ctx0) 2 31).produced + BitVec.ofNat 32 65535 } = 65535 ∧
      ctrSlack (counted 65535 ctr0 ctx0) 2 31 = 65535) ∧
    fillOf { ctrOf (counted 1 { ctr0 with produced := 1#32 } ctx0) 2 31 with consumed := (ctrOf (counted 1 { ctr0 with produced := 1#32 } ctx0) 2 31).consumed + BitVec.ofNat 32 1 } = 0 ∧
    ctrSlack (counted 0 ctr0 ctx0) 2 31 < fillOf { ctrOf (counted 0 ctr0 ctx0) 2 31 with produced := (ctrOf (counted 0 ctr0 ctx0) 2 31).produced + BitVec.ofNat 32 1 } ∧
    (ctrWaiters (counted 1 ctr0 { ctx0 with wait := some (.data 31 1) }) 2 31 = [9] ∧
      (1 : Int) ≤ fillOf { ctrOf (counted 1 ctr0 ctx0) 2 31 with produced := (ctrOf (counted 1 ctr0 ctx0) 2 31).produced + BitVec.ofNat 32 1 }) ∧
    (bestLink (linked upLink) (upRoute (linked upLink) 0) = some 0 ∧ (pairTxOf (linked upLink) 0).unreleased < 1024) ∧
    writesOut (blocked (counted 65535 ctr0 ctx0)) 2 = true := by decide +kernel

/-! ### Witnesses: sessions and decode -/

/-- The imaged module with a model record at 0x4000 (64 bytes a token, contexts up to 100 tokens, a vocabulary of 10), two hot slots of 64 KiB in partition 0, and session 4095 as x says. -/
def served (x : SessSt) : State :=
  { imaged with
    mem := [(0x4000, 0x20#8), (0x4004, 64#8), (0x4008, 100#8), (0x400C, 10#8)]
    cfg := [(sesReg 0, cell (2 * 2 ^ 52 + 1 * 2 ^ 32))]
    ses := { imaged.ses with table := [(4095, x)] } }

def coldSess : SessSt := { sess0 with state := 1, part := 0, modelAddr := 0x4000#64, coldAddr := 0x10000#64, ctxMax := 100, perToken := 64 }
def hotSess : SessSt := { coldSess with state := 2, hotSlot := 1 }

def sesCmd (op : Nat) : Fetched := cmd op [(16, 4095), (19, 0), (24, 0x4000), (32, 0x10000), (56, 77)]
def migrateCmd : Fetched := cmd 0x77 [(16, 0), (18, 0), (20, 4095)]

/-- The same SESSION_CREATE with a seed at 0x8000. -/
def seededCmd : Fetched := cmd 0x60 [(16, 4095), (18, 2), (19, 0), (24, 0x4000), (32, 0x10000), (40, 0x8000), (56, 77)]

/-- Context 0 of core 0 waits for counter 5 of core 0. -/
def waitsOn (s : State) : State := { s with sync := { s.sync with ctxs := [(0, { ctx0 with wait := some (.data 5 1) })] } }

theorem served_running (x : SessSt) (c : Fetched) (op : Nat) (h : opcodeOf c.bits = op) : Running (runs (served x) c) 0 0 op c := runs_running _ _ _ h

theorem served_fits : ∀ x ∈ [sess0, coldSess, hotSess], ∀ c ∈ [sesCmd 0x61, sesCmd 0x62, sesCmd 0x63, migrateCmd],
    noDispatcher (runs (served x) c) = false ∧ (runs (served x) c).msg.queue = [] ∧ cqFull (runs (served x) c) c.cq = false := by decide +kernel

theorem witness_SessionsLiveAndMove :
    (∀ op ∈ [0x60, 0x61, 0x62, 0x63], opcodeOf (sesCmd op).bits = op ∧ cmdFld (sesCmd op).bits 16 17 = 4095) ∧ (served sess0).ses.moves = [] ∧
    ((sessOf (served sess0) 4095).state = 0 ∧ (partImg (served sess0) (cmdFld (sesCmd 0x60).bits 19 19)).isSome = true ∧ (recRead (runs (served sess0) (sesCmd 0x60)) 0x4000 64).poison = false ∧
      modelOk (runs (served sess0) (sesCmd 0x60)) (modelOf (recRead (runs (served sess0) (sesCmd 0x60)) 0x4000 64).bytes) = true ∧ bitOf (cmdFld (sesCmd 0x60).bits 18 18) 1 = false ∧
      coldOk (cmdFld (sesCmd 0x60).bits 32 39) 100 64 = true ∧ (modelOf (recRead (runs (served sess0) (sesCmd 0x60)) 0x4000 64).bytes).ctxMax = 100) ∧
    ((sessOf (served coldSess) 4095).state = 1 ∧ inFlight (served coldSess) 4095 = false ∧ sessionAdmits (runs (served coldSess) (sesCmd 0x62)) 0 (sessOf (served coldSess) 4095) = true ∧
      sessionAdmits (runs (served { coldSess with part := 1 }) (sesCmd 0x62)) 0 { coldSess with part := 1 } = false ∧ (sessOf (served hotSess) 4095).state = 2 ∧
      sessionAdmits (runs (served hotSess) (sesCmd 0x62)) 0 (sessOf (served hotSess) 4095) = true) ∧
    ((instOf (runs (served coldSess) (sesCmd 0x62)) (.ses 0)).pairFailed = false ∧ hotCount (runs (served coldSess) (sesCmd 0x62)) < 48 ∧ fitsSlot (served coldSess) 0 100 64 = true ∧
      freeHotSlot (runs (served coldSess) (sesCmd 0x62)) 0 = some 0) ∧
    (opcodeOf migrateCmd.bits = 0x77 ∧ cmdFld migrateCmd.bits 16 16 = 0 ∧ cmdFld migrateCmd.bits 20 21 = 4095 ∧ cmdFld migrateCmd.bits 24 31 = 0 ∧ cmdFld migrateCmd.bits 17 17 = 0 ∧
      captured (served coldSess) 4095 1#16 = false ∧ (instOf (runs (served coldSess) migrateCmd) (.ses (cmdFld migrateCmd.bits 18 18))).pairFailed = false ∧ (partImg (served coldSess) (cmdFld migrateCmd.bits 18 18)).isSome = true) := by decide +kernel

theorem witness_SessionsLiveAndMove_seeded :
    Running (runs (served sess0) seededCmd) 0 0 0x60 seededCmd ∧ cmdFld seededCmd.bits 16 17 = 4095 ∧ bitOf (cmdFld seededCmd.bits 18 18) 1 = true ∧ cmdFld seededCmd.bits 40 47 = 0x8000 ∧
    (recRead (runs (served sess0) seededCmd) 0x4000 64).poison = false ∧ (recRead (recRead (runs (served sess0) seededCmd) 0x4000 64).s 0x8000 32).poison = false ∧
    modelOk (runs (served sess0) seededCmd) (modelOf (recRead (runs (served sess0) seededCmd) 0x4000 64).bytes) = true :=
  ⟨runs_running _ _ _ (by decide +kernel), by decide +kernel⟩

/-- Session 4095 moves from hot slot `fs` to hot slot `ts` of partition 0. -/
def move (ts fs : Nat) : MoveRun :=
  { slot := none, session := 4095, kind := 0, copying := true, toPart := 0, toSlot := ts, fromPart := 0, fromSlot := fs, model := 0x4000#64, hot := false, drainFirst := false }

def decodeCmd (n : Nat) : Fetched := cmd 0x64 [(16, n), (24, 0x4000), (32, 0x5000), (40, 0x6000)]

/-- A DECODE of n entries that waits in slot 0 for partition 0. -/
def decodeWaits (n : Nat) : State := inSlot (served hotSess) 3 (decodeCmd n)

theorem waits_take (s : State) (c : Fetched) (op : Nat) (h1 : opcodeOf c.bits = op) (h2 : slotPart (inSlot s 3 c) 0 = 0) (h3 : turnOf (inSlot s 3 c) 0 = some 0)
    (h4 : (partOf s 0).holder = none) (h5 : (partOf s 0).launching = true) (h6 : haltCause s 0 = 0) (h7 : breakBefore s 0 0 c = false) : MayTake (inSlot s 3 c) 0 0 0 op c :=
  { cmd := rfl, queue := rfl, state := rfl, flags := rfl, opcode := h1, part := h2, turn := h3, free := h4, launching := h5, runs := h6, noBreak := h7 }

theorem witness_DecodeAppliesItsEntries_take : ∀ n ∈ [1, 48], MayTake (decodeWaits n) 0 0 0 0x64 (decodeCmd n) ∧ cmdFld (decodeCmd n).bits 16 17 = n := by
  intro n h
  simp only [List.mem_cons, List.not_mem_nil, or_false] at h
  rcases h with rfl | rfl <;>
    exact ⟨waits_take _ _ _ (by decide +kernel) (by decide +kernel) (by decide +kernel) rfl rfl (by decide +kernel) (by decide +kernel), by decide +kernel⟩

/-- A DECODE of one entry in flight: session 4095, MODE m, COUNT 3, with epoch ep captured. -/
def entry (m ep : Nat) : DecEntry := { bits := BitVec.ofNat 128 (4095 + m * 2 ^ 16 + 3 * 2 ^ 32), session := 4095, epoch := BitVec.ofNat 16 ep, status := 0, hotPart := 0, hotSlot := 1, context := 0, lastToken := 0xFFFFFFFF }
def decoding (m ep : Nat) : State :=
  let s := runs (served hotSess) (decodeCmd 1)
  { s with ses := { s.ses with decs := [(0, { slot := 0, result := 0x6000, model := leBytes 64 (0x20 + 64 * 2 ^ 32 + 100 * 2 ^ 64 + 10 * 2 ^ 96), entries := [entry m ep] })] }
           parts := [(0, { part0 with holder := some 0, op := some { slot := 0, kind := .decode, desc := 0#2048, tree := false, band64 := false, table := [], status := 0, started := 0#64 } })] }

theorem witness_DecodeAppliesItsEntries :
    ({ served coldSess with ses := { (served coldSess).ses with moves := [move 0 0xFF] } }.ses.moves = [move 0 0xFF] ∧ (move 0 0xFF).copying = true ∧ (move 0 0xFF).fromPart = (move 0 0xFF).toPart) ∧
    ((recRead (tryTake (decodeWaits 48) 0).2 (cmdFld (decodeCmd 48).bits 24 31) 64).poison = false ∧
      modelOk (decodeWaits 48) (modelOf (recRead (tryTake (decodeWaits 48) 0).2 (cmdFld (decodeCmd 48).bits 24 31) 64).bytes) = true ∧ spaceOk (decodeWaits 48) 64 0x4000 64 = true ∧
      spaceOk (decodeWaits 48) 64 0x5000 768 = true ∧ rangeAllowed (decodeWaits 48) .store 0x6000 768 = true) ∧
    (∀ m ∈ [0, 1], ∀ ep ∈ [0, 1], decMode (entry m ep).bits = m ∧ (entry m ep).status = 0 ∧ contextWaits (decoding m ep) 0 = false ∧ (decoding m ep).ses.moves = [] ∧ ((sessOf (decoding m ep) 4095).epoch = (entry m ep).epoch ↔ ep = 0)) ∧
    (tempSamples (decTemp (entry 0 0).bits) = false ∧ (sessOf (decoding 0 0) 4095).context = 0 ∧ (entry 0 0).context = 0 ∧ 0 < (modelOf (leBytes 64 (0x20 + 64 * 2 ^ 32 + 100 * 2 ^ 64 + 10 * 2 ^ 96))).vocab) ∧
    (∃ d, mfind (waitsOn (decoding 0 0)).ses.decs 0 = some d ∧ samplers (waitsOn (decoding 0 0)) d = [] ∧ contextWaits (waitsOn (decoding 0 0)) 0 = true) ∧
    mfind (served hotSess).ses.decs 0 = none := by decide +kernel

/-! ### Witnesses: annealing -/

/-- The imaged module with a problem descriptor of one free variable at 0x7000, a run descriptor of one step at 0x7100, a constant curve at 0x7200 and partition 0's annealer as x says. -/
def annealed (x : AnlSt) : State :=
  { imaged with
    mem := [(0x7000, 0x10#8), (0x7001, 1#8), (0x7004, 1#8), (0x700C, 1#8), (0x7052, 1#8), (0x7100, 0x11#8), (0x7108, 1#8), (0x7111, 0x72#8), (0x7139, 0x73#8)]
    anl := [(0, x)] }

/-- That problem, loaded. -/
def prob1 : AnlProb :=
  { dense := false, qubo := false, int4 := false, n := 1, nc := 0, jscale := 1, tag := 0#64, base := 0, bytes := 0x10000, e0 := 0, offset := 0, bound := 0, spins0 := [false], sigma0 := [],
    degrees := [], members := [], lin := [0], constrs := [] }

def loaded : AnlSt := { anl0 with prob := some prob1, vars := { anlVars0 with spins := [false], g := [0] } }

/-- A run of that problem in slot 0, in run state n. -/
def run1 (n : Nat) (x : Option SplitRun) : AnlRun :=
  { newRun (annealed loaded) 0 0x7100 part0Img prob1 with state := n, frost := true, split := x }

def runningAnl (n : Nat) (x : Option SplitRun) : AnlSt := { loaded with run := some (run1 n x) }

def anlCmd (op : Nat) : Fetched := cmd op [(24, if op = 0x40 then 0x7000 else if op = 0x41 then 0x7100 else 0x7400)]

theorem witness_ProblemsLoadAndRun_take :
    MayTake (inSlot (annealed anl0) 3 (anlCmd 0x40)) 0 0 0 0x40 (anlCmd 0x40) ∧ MayTake (inSlot (annealed loaded) 3 (anlCmd 0x41)) 0 0 0 0x41 (anlCmd 0x41) :=
  ⟨waits_take _ _ _ (by decide +kernel) (by decide +kernel) (by decide +kernel) rfl rfl (by decide +kernel) (by decide +kernel),
    waits_take _ _ _ (by decide +kernel) (by decide +kernel) (by decide +kernel) rfl rfl (by decide +kernel) (by decide +kernel)⟩

def geo1 : Geo := geoOf .af part0Img.shape
def seenLoad (x : AnlSt) : State := loadTouched (tryTake (inSlot (annealed x) 3 (anlCmd 0x40)) 0).2 0 0x7000

theorem witness_ProblemsLoadAndRun_load :
    partImg (annealed anl0) 0 = some part0Img ∧ (anlOf (annealed anl0) 0).run = none ∧ cmdFld (anlCmd 0x40).bits 24 31 = 0x7000 ∧
    anlCheck (seenLoad anl0) 0 0x7000 geo1 (anlDesc (inWord (seenLoad anl0) 0x7000 128)) = none ∧
    anlCheck (seenLoad anl0) 0 0x7000 geo1 (anlDesc 0) = some { code := 2, index := 0, status := stFormat } := by decide +kernel

def st0 : Stalls := { mem := 0, link := 0, shortfall := 0, extra := 0, outage := 0, perf := [] }
def load1 : AnlLoad := { slot := 0, desc := 0x7000, base := 0, bytes := 0x10000 }

/-- The build of the problem at 0x7000, or of nothing at 0x9000. -/
def building (a : Nat) : State := runs (annealed { anl0 with loading := some { load1 with desc := a } }) (anlCmd 0x40)

theorem witness_ProblemsLoadAndRun_build :
    (anlOf (building 0x7000) 0).loading = some load1 ∧ (anlOf (building 0x9000) 0).loading = some { load1 with desc := 0x9000 } ∧
    anlCheck (loadTouched (addStalls (building 0x7000) 0 st0) 0 0x7000) 0 0x7000 geo1 (anlDesc (inWord (loadTouched (addStalls (building 0x7000) 0 st0) 0 0x7000) 0x7000 128)) = none ∧
    anlCheck (loadTouched (addStalls (building 0x9000) 0 st0) 0 0x9000) 0 0x9000 geo1 (anlDesc (inWord (loadTouched (addStalls (building 0x9000) 0 st0) 0 0x9000) 0x9000 128)) =
      some { code := 2, index := 0, status := stFormat } := by decide +kernel

/-- ANL_LOAD while a run holds the annealer, and a context that waits while the problem at 0x7000 is built. -/
theorem witness_ProblemsLoadAndRun_stops :
    MayTake (inSlot (annealed (runningAnl 1 none)) 3 (anlCmd 0x40)) 0 0 0 0x40 (anlCmd 0x40) ∧ partImg (annealed (runningAnl 1 none)) 0 = some part0Img ∧
    (anlOf (annealed (runningAnl 1 none)) 0).run.isSome = true ∧ contextWaits (building 0x7000) 0 = false ∧ contextWaits (waitsOn (building 0x7000)) 0 = true ∧
    (anlOf (waitsOn (building 0x7000)) 0).loading = some load1 ∧ (partImg (waitsOn (building 0x7000)) 0).isSome = true :=
  ⟨waits_take _ _ _ (by decide +kernel) (by decide +kernel) (by decide +kernel) rfl rfl (by decide +kernel) (by decide +kernel), by decide +kernel⟩

/-- ANL_RUN while a hand-over of the annealer's bank 2 of core 0 is awaited. -/
def bankAwaited : State :=
  { annealed loaded with
    cfg := [(bankReg 0, { active := 0x3210#64, last := 0x3210#64, shadow := 0x3110#64, snap := some 0x3110#64 })]
    insts := [{ inst := .bank 0, frozenWrites := 0, lastOffset := 0, lastStatus := 0, seen := false, commitPending := true, pairFailed := false, held := [] }] }

theorem witness_ProblemsLoadAndRun_held :
    MayTake (inSlot bankAwaited 3 (anlCmd 0x41)) 0 0 0 0x41 (anlCmd 0x41) ∧ partHeld (inSlot bankAwaited 3 (anlCmd 0x41)) 0 [2] = true ∧
    partHeld (inSlot (annealed loaded) 3 (anlCmd 0x41)) 0 [2] = false :=
  ⟨waits_take _ _ _ (by decide +kernel) (by decide +kernel) (by decide +kernel) rfl rfl (by decide +kernel) (by decide +kernel), by decide +kernel⟩

def seenRun (x : AnlSt) : State := runTouched (tryTake (inSlot (annealed x) 3 (anlCmd 0x41)) 0).2 0 0 0x7100 part0Img

theorem witness_ProblemsLoadAndRun_run :
    isTimed (anlCmd 0x41).bits = false ∧ cmdFld (anlCmd 0x41).bits 24 31 = 0x7100 ∧ runCheck (seenRun loaded) 0 0x7100 part0Img = none ∧ (anlOf (seenRun loaded) 0).prob = some prob1 ∧
    runCheck (seenRun anl0) 0 0x7100 part0Img = some stFormat := by decide +kernel

/-- A steering command in slot 0 beside a run in slot m of state n, frozen or not. -/
def steered (op n m : Nat) (frost : Bool) : State := runs (annealed { loaded with run := some { run1 n none with slot := m, frost := frost } }) (anlCmd op)

theorem witness_SteeringWaitsForTheBoundary_running (op n m : Nat) (frost : Bool) (h : opcodeOf (anlCmd op).bits = op) :
    Running (steered op n m frost) 0 0 op (anlCmd op) := runs_running _ _ _ h

theorem witness_SteeringWaitsForTheBoundary :
    (∀ op ∈ [0x42, 0x43, 0x44, 0x45], opcodeOf (anlCmd op).bits = op ∧ slotPart (steered op 1 1 false) 0 = 0 ∧ noDispatcher (steered op 1 1 false) = false ∧
      (steered op 1 1 false).msg.queue = [] ∧ cqFull (steered op 1 1 false) (anlCmd op).cq = false) ∧
    activeRun (runs (annealed loaded) (anlCmd 0x42)) 0 = none ∧
    (activeRun (steered 0x42 2 1 false) 0 = some { run1 2 none with slot := 1, frost := false } ∧ activeRun (steered 0x42 1 1 false) 0 = some { run1 1 none with slot := 1, frost := false } ∧
      activeRun (steered 0x44 1 1 true) 0 = some { run1 1 none with slot := 1 }) ∧
    (run1 2 none).steer = [] ∧ (partImg (steered 0x43 2 1 false) 0).isSome = true ∧
    (run1 2 none).newCurve = false ∧ nextStep { run1 2 none with slot := 1, frost := false } ≠ .stop ∧ (∀ x ∈ (steered 0x43 2 1 false).parts, x.2.holder ≠ some 0) := by decide +kernel

/-- A run that holds its partition in slot 1, paused, while slot 0 resumes it. -/
def pausedHolder : State := let s := steered 0x43 2 1 false
  setPart s 0 { partOf s 0 with holder := some 1 }

def readCmd (n : Nat) : Fetched := cmd 0x45 [(16, n), (24, 0x7400)]
def readLoaded : State := runs (annealed loaded) (readCmd 0)

theorem witness_SteeringWaitsForTheBoundary_read :
    (partOf pausedHolder 0).holder.isSome = true ∧ (slotOf pausedHolder 0).state = 5 ∧ cmdFld (readCmd 3).bits 16 16 = 3 ∧ cmdFld (readCmd 0).bits 16 16 = 0 ∧ cmdFld (readCmd 0).bits 24 31 = 0x7400 ∧
    activeRun readLoaded 0 = none ∧ (anlOf readLoaded 0).prob = some prob1 ∧ rangeAllowed readLoaded .store 0x7400 (imageSize 1 0) = true ∧
    (imageBytes prob1 (anlOf readLoaded 0).vars.spins (anlOf readLoaded 0).vars.sigma).length = imageSize 1 0 ∧ (∀ i, i < imageSize 1 0 → region readLoaded.fuse.grade (0x7400 + i) = .hbm) ∧
    (partOf readLoaded 0).holder ≠ some 0 ∧ readLoaded.integ.ecc = [] ∧ readLoaded.integ.badCheckers = [] ∧ regActive readLoaded 0xC00010 0 < 2 ^ 62 := by decide +kernel

/-- A run split over modules 0 (the leader) and 1, that waits at a sync point or does not. -/
def shared (waiting : Bool) : SplitRun :=
  { table := { key := 9#64, modules := 2, leader := 0, epoch := false, epochSteps := 1, nOwn := 1, beats := 1, timeoutUs := 100, domainTrace := 0, ghosts := [], exports := [(0, 1, 0)] }
    lastSent := [], setupDone := true, waiting := waiting, quiet := false, pendSpins := [], pendSigma := [], pendStep := 0, pendE := 0, domainBest := none, promote := false, endNext := 0
    pauseNext := false, resumeNext := false, frostNext := false, noticed := false, pausedPeers := [], domainE := 0, domainRecords := 0, moved := [], lastDomain := [], since := 0#64 }

def splitRun (waiting : Bool) : State := annealed (runningAnl 1 (some (shared waiting)))

/-- That, n ns after the module reached its sync point, with the pause notices of ps. -/
def sinceSync (waiting setup : Bool) (ps : List Nat) (n : Nat) : State :=
  let s := annealed (runningAnl 1 (some { shared waiting with setupDone := setup, pausedPeers := ps }))
  { s with time := { s.time with count := BitVec.ofNat 64 n } }
def share (m : Nat) : Share := { peer := m, updates := [], doubled := 0, quiet := false, violated := 0, setup := [], promote := false, endWith := 0, pause := false, resume := false, frost := false, mismatch := false }

/-- Its key in a notice of module 1 on link 0. -/
def noticed (typ : Nat) (waiting : Bool) : State :=
  { splitRun waiting with net := { (splitRun waiting).net with links := [(0, { upLink with rxMgmt := [flit [(0, typ), (2, 1), (4, 9)]] })] } }

/-- A steering command beside a run of a split that another module leads, or this one. -/
def ledBy (op leader : Nat) : State :=
  runs (annealed { loaded with run := some { run1 1 (some { shared false with table := { (shared false).table with leader := leader } }) with slot := 1 } }) (anlCmd op)

theorem witness_SteeringWaitsForTheBoundary_leader :
    (∀ op ∈ [0x42, 0x43, 0x44], ∃ r, activeRun (ledBy op 1) 0 = some r ∧ mayDirect (ledBy op 1) r = false) ∧ (∃ r, activeRun (ledBy 0x42 0) 0 = some r ∧ mayDirect (ledBy 0x42 0) r = true) ∧
    mayDirect (steered 0x43 2 1 false) { run1 2 none with slot := 1, frost := false } = true ∧ canResume (steered 0x43 2 1 false) 0 = true ∧ canResume pausedHolder 0 = false := by decide +kernel

theorem witness_RunsStepAndExchange :
    (runCtx (annealed (runningAnl 1 none)) 0 = some (part0Img, prob1, run1 1 none) ∧ (run1 1 none).state = 1 ∧ (run1 1 none).split = none ∧ (run1 1 none).frost = true ∧
      (annealed (runningAnl 1 none)).integ.ecc = []) ∧
    (∀ b, runCtx (splitRun b) 0 = some (part0Img, prob1, run1 1 (some (shared b)))) ∧
    (1 ∈ peersOf (moduleId (splitRun true)) (shared true).table ∧ shareOf [] 1 = none ∧ (∀ m ∈ peersOf (moduleId (splitRun true)) (shared true).table, (shareOf [share 1] m).isSome = true)) ∧
    ((shared true).setupDone = true ∧ (shared true).pausedPeers = [] ∧ (1000 * (shared true).table.timeoutUs < sinceCount (sinceSync true true [] 100001) (shared true).since) ∧
      sinceCount (sinceSync true true [] 100000) (shared true).since ≤ 1000 * (shared true).table.timeoutUs ∧ 2 ∉ peersOf (moduleId (splitRun true)) (shared true).table) ∧
    (∀ b, contextWaits (splitRun b) 0 = false ∧ contextWaits (waitsOn (splitRun b)) 0 = true ∧ (anlOf (waitsOn (splitRun b)) 0).run = some (run1 1 (some (shared b)))) ∧
    (contextWaits (annealed (runningAnl 1 none)) 0 = false ∧ contextWaits (waitsOn (annealed (runningAnl 1 none))) 0 = true) ∧
    (∀ b, (∀ t ∈ [0x25, 0x26], (linkOf (noticed t b) 0).rxMgmt = [flit [(0, t), (2, 1), (4, 9)]]) ∧ keyedRuns (noticed 0x25 b) (BitVec.ofNat 64 (flitByte (flit [(0, 0x25), (2, 1), (4, 9)]) 4 11)) = [0] ∧
      runCtx (noticed 0x25 b) 0 = some (part0Img, prob1, run1 1 (some (shared b)))) ∧
    flitByte (flit [(0, 0x25), (2, 1), (4, 9)]) 0 0 = 0x25 ∧ flitByte (flit [(0, 0x26), (2, 1), (4, 9)]) 0 0 = 0x26 := by decide +kernel

theorem witness_RunsStepAndExchange_stores : ∀ (s : State) (o : Geo) (v : Nat), (storedNeighbours s o prob1 v).2 = false ∧ (storedMembers s o prob1 v).2 = false := by
  intro s o v
  have hd : prob1.degree v = 0 := by simp [AnlProb.degree, prob1, nth]
  have hm : prob1.memberCount v = 0 := by simp [AnlProb.memberCount, prob1, nth]
  constructor
  · simp [storedNeighbours, listRange, hd, peekBytes]
    first | decide | simp [prob1, anyPoison]
  · simp [storedMembers, memberRange, hm, peekBytes, anyPoison]

/-! ### Witnesses: operations -/

/-- A descriptor: values at byte offsets. -/
def desc (fs : List (Nat × Nat)) : BitVec 2048 := BitVec.ofNat 2048 (fs.foldl (fun a f => a + f.2 * 2 ^ (8 * f.1)) 0)

/-- One token, one row and one column of INT8 by INT8, all in HBM; the same as a drain; one iteration of a program of the image; and a descriptor of a reserved type. -/
def matmul : BitVec 2048 :=
  desc [(0, 1), (1, 2), (2, 0xA), (3, 2), (8, 1), (12, 1), (14, 1), (24, 0x10000), (32, 0x12000), (40, 0x13000), (48, 0x13100), (64, 0x14000)]
def drainOut : BitVec 2048 := desc [(0, 2), (8, 1), (14, 1), (64, 0x14000)]
def vectorOp : BitVec 2048 := desc [(0, 3), (8, 1)]
def badType : BitVec 2048 := desc [(0, 9)]

/-- The program library: program 0 is one word, a NOP or a URAND. -/
def library (op : Nat) : List Byte := leBytes 8 1 ++ leBytes 2 0 ++ leBytes 2 1 ++ leBytes 4 16 ++ leBytes 8 op
def urand : Nat := 0x3B30000000000000
def imgOf (op : Nat) : PartImage := { part0Img with uprog := library op }
def withLibrary (op : Nat) : State := { on with image := { on.image with force := some { image0 with parts := [(0, imgOf op)] } } }

/-- A command whose descriptor b is at hand. -/
def opCmd (op flags : Nat) (b : BitVec 2048) : Fetched := { cmd op [(1, flags), (8, if flags = 4 then 50000 else 0), (24, 0x7000), (32, 1)] with buf := some b }
def waits (n op flags : Nat) (b : BitVec 2048) : State := inSlot (withLibrary 0) n (opCmd op flags b)

theorem witness_OperationsTakeTheirPartition_take (op flags : Nat) (b : BitVec 2048) (s : State) (c : Fetched) (hs : s = waits 3 op flags b) (hc : c = opCmd op flags b)
    (h1 : opcodeOf c.bits = op) (h2 : slotPart s 0 = 0) (h3 : turnOf s 0 = some 0) (h4 : haltCause s 0 = 0) (h5 : breakBefore s 0 0 c = false) : MayTake s 0 0 0 op c := by
  subst hs hc
  exact { cmd := rfl, queue := rfl, state := rfl, flags := rfl, opcode := h1, part := h2, turn := h3, free := rfl, launching := rfl, runs := h4, noBreak := h5 }

/-- What the premises above ask of a command and a state. -/
def goes (op flags : Nat) (b : BitVec 2048) : Bool :=
  let c := opCmd op flags b; let s := waits 3 op flags b
  decide (opcodeOf c.bits = op) && slotPart s 0 == 0 && turnOf s 0 == some 0 && haltCause s 0 == 0 && breakBefore s 0 0 c == false && isTimed c.bits == (flags == 4) && noDispatcher s == false &&
    !launchHeld s 0 c && !partHeld s 0 [0, 1]

theorem witness_OperationsTakeTheirPartition :
    [goes 0x20 0 matmul, goes 0x20 0 vectorOp, goes 0x20 0 badType, goes 0x22 0 drainOut, goes 0x21 0 0, goes 0x20 4 matmul, goes 0x21 4 0].all id = true ∧
    partImg (waits 3 0x20 0 matmul) 0 = some (imgOf 0) ∧ (slotOf (waits 2 0x20 0 matmul) 0).state = 2 := by decide +kernel

def taken (op : Nat) (b : BitVec 2048) : State := (tryTake (waits 3 op 0 b) 0).2

theorem witness_OperationsTakeTheirPartition_descriptors :
    (fld matmul.toNat 7 0 = 1 ∧ (arrDesc matmul.toNat).rescale = false ∧
      arrChecks (taken 0x20 matmul) 0 (imgOf 0) (partOf (taken 0x20 matmul) 0).arr false (regActive (taken 0x20 matmul) 0x400000 0) (arrDesc matmul.toNat) = true) ∧
    (fld vectorOp.toNat 7 0 = 3 ∧ vecProgram (taken 0x20 vectorOp) (imgOf 0) (vDesc vectorOp.toNat) = some (clean (leBytes 8 0)) ∧ (vDesc vectorOp.toNat).progSrc = 0 ∧
      vecChecks (taken 0x20 vectorOp) (imgOf 0) (vDesc vectorOp.toNat) (wordsOfProgram (dataOf (clean (leBytes 8 0)))) = true) ∧
    3 < fld badType.toNat 7 0 ∧
    (fld drainOut.toNat 7 0 = 2 ∧ (arrDesc drainOut.toNat).rescale = false ∧
      arrChecks (taken 0x22 drainOut) 0 (imgOf 0) (partOf (taken 0x22 drainOut) 0).arr false (regActive (taken 0x22 drainOut) 0x400000 0) (drainDesc (arrDesc drainOut.toNat)) = true) := by
  decide +kernel

/-- A graph of one node at 0x7000, whose descriptor at 0x8000 is the matmul above. -/
def inMem (a : Nat) (bs : List Byte) : List (Nat × Byte) := ((List.range bs.length).map (fun i => (a + i, nth 0#8 bs i))).filter (fun x => x.2 != 0#8)
def graphOf (s : State) : State := { s with mem := inMem 0x7000 (leBytes 16 0x8000) ++ inMem 0x8000 (leBytes 256 matmul.toNat) }
def graphWaits : State := graphOf (waits 3 0x21 0 0)
def graphTaken : State := let u := (tryTake graphWaits 0).2
  applyDue (setSlot u 0 { slotOf u 0 with param := some (clean (leBytes 256 0)), graph := graph0 })

/-- A graph of n nodes. -/
def graphOfNodes (n : Nat) : Fetched := { opCmd 0x21 0 0 with bits := word 0x21 [(24, 0x7000), (32, n)] }
def nodesWait (n : Nat) : State := inSlot (withLibrary 0) 3 (graphOfNodes n)

theorem witness_OperationsTakeTheirPartition_graph :
    (slotPart graphWaits 0 = 0 ∧ turnOf graphWaits 0 = some 0 ∧ haltCause graphWaits 0 = 0 ∧ breakBefore graphWaits 0 0 (opCmd 0x21 0 0) = false ∧ isTimed (opCmd 0x21 0 0).bits = false) ∧
    1 ≤ cmdFld (opCmd 0x21 0 0).bits 32 35 ∧ cmdFld (opCmd 0x21 0 0).bits 32 35 ≤ 4096 ∧ haltCause graphTaken 0 = 0 ∧ partHeld graphTaken 0 [0, 1] = false ∧ (beginNode graphTaken 0 0 (imgOf 0) (opCmd 0x21 0 0)).1.status = none := by decide +kernel

theorem witness_OperationsTakeTheirPartition_nodes : ∀ n ∈ [0, 4097],
    opcodeOf (graphOfNodes n).bits = 0x21 ∧ cmdFld (graphOfNodes n).bits 32 35 = n ∧ isTimed (graphOfNodes n).bits = false ∧ slotPart (nodesWait n) 0 = 0 ∧ turnOf (nodesWait n) 0 = some 0 ∧
    haltCause (nodesWait n) 0 = 0 ∧ breakBefore (nodesWait n) 0 0 (graphOfNodes n) = false ∧ noDispatcher (nodesWait n) = false := by decide +kernel

/-- Another command has the turn. -/
def behind (op : Nat) : State := let s := waits 3 op 0 matmul
  { s with fe := { s.fe with slots := [(0, slotOf s 0), (1, { slotOf s 0 with since := 0#64 })] } }

theorem witness_OperationsTakeTheirPartition_turn : ∀ op ∈ [0x20, 0x21, 0x22],
    (slotOf (behind op) 1).cmd = some (opCmd op 0 matmul) ∧ (slotOf (behind op) 1).state = 3 ∧ slotPart (behind op) 1 = 0 ∧ turnOf (behind op) 0 ≠ some 1 ∧ launchHeld (behind op) 1 (opCmd op 0 matmul) = false := by
  decide +kernel

def armedCmd : Fetched := opCmd 0x20 4 matmul
def armed : State := waits 4 0x20 4 matmul

/-- Its count has come; its partition is halted. -/
def atStart (s : State) : State := { s with time := { s.time with count := 50000#64 } }
def haltedPart : State := { atStart armed with dbg := { armed.dbg with halted := [(0, 1)] } }

/-- A graph, or a run, armed in slot 0. -/
def armedGraph : State := graphOf (waits 4 0x21 4 0)
def runCmd : Fetched := cmd 0x41 [(1, 4), (8, 50000), (24, 0x7100)]
def armedRun (s : State) : State := inSlot { s with anl := [(0, runningAnl 0 none)], parts := [(0, { part0 with holder := some 0, armed := true })] } 4 runCmd
def farCmd : Fetched := { armedCmd with bits := word 0x20 [(1, 4), (8, 2 ^ 37), (24, 0x7000)] }

theorem witness_TimedCommandsArmAndFire :
    (startCount armedCmd.bits).toNat ≤ armed.time.count.toNat + 2 ^ 36 ∧ armed.time.count.toNat + 2 ^ 36 < (startCount farCmd.bits).toNat ∧ isTimed farCmd.bits = true ∧
    (slotOf (waits 3 0x20 4 matmul) 0).state ≠ 4 ∧ ((slotOf armed 0).late = false ∧ armed.time.count.toNat < (startCount armedCmd.bits).toNat) ∧
    (startCount armedCmd.bits).toNat ≤ (atStart armed).time.count.toNat ∧ haltCause haltedPart 0 ≠ 0 ∧ haltCause (atStart armed) 0 = 0 ∧ slotPart (atStart armed) 0 = 0 ∧
    breakBefore (atStart armed) 0 0 armedCmd = false ∧ launchHeld (atStart armed) 0 armedCmd = false ∧
    arrChecks (fireSlot (atStart armed) 0) 0 (imgOf 0) (partOf (fireSlot (atStart armed) 0) 0).arr false (regActive (atStart armed) 0x400000 0) (arrDesc matmul.toNat) = true := by decide +kernel

theorem witness_TimedCommandsArmAndFire_fires :
    (opcodeOf (opCmd 0x21 4 0).bits = 0x21 ∧ (slotOf (atStart armedGraph) 0).cmd = some (opCmd 0x21 4 0) ∧ slotPart (atStart armedGraph) 0 = 0 ∧ haltCause (atStart armedGraph) 0 = 0 ∧
      breakBefore (atStart armedGraph) 0 0 (opCmd 0x21 4 0) = false) ∧
    (∀ s ∈ [annealed loaded, bankAwaited], (slotOf (atStart (armedRun s)) 0).state = 4 ∧ (slotOf (atStart (armedRun s)) 0).cmd = some runCmd ∧ slotPart (atStart (armedRun s)) 0 = 0 ∧
      haltCause (atStart (armedRun s)) 0 = 0 ∧ breakBefore (atStart (armedRun s)) 0 0 runCmd = false) ∧
    opcodeOf runCmd.bits = 0x41 ∧ partHeld (atStart (armedRun (annealed loaded))) 0 [2] = false ∧ partHeld (atStart (armedRun bankAwaited)) 0 [2] = true := by decide +kernel

/-- A TIMED ANL_RUN whose checks pass. -/
theorem witness_TimedCommandsArmAndFire_run :
    MayTake (inSlot (annealed loaded) 3 runCmd) 0 0 0 0x41 runCmd ∧ isTimed runCmd.bits = true ∧ cmdFld runCmd.bits 24 31 = 0x7100 ∧
    runCheck (runTouched (tryTake (inSlot (annealed loaded) 3 runCmd) 0).2 0 0 0x7100 part0Img) 0 0x7100 part0Img = none ∧
    (anlOf (runTouched (tryTake (inSlot (annealed loaded) 3 runCmd) 0).2 0 0 0x7100 part0Img) 0).prob = some prob1 ∧
    (startCount runCmd.bits).toNat ≤ (inSlot (annealed loaded) 3 runCmd).time.count.toNat + 2 ^ 36 :=
  ⟨waits_take _ _ _ (by decide +kernel) (by decide +kernel) (by decide +kernel) rfl rfl (by decide +kernel) (by decide +kernel), by decide +kernel⟩

/-- An operation that runs on partition 0. -/
def opRun (kind : OpKind) (b : BitVec 2048) (prog : List Byte) : OpRun := { slot := 0, kind := kind, desc := b, tree := true, band64 := false, table := clean prog, status := 0, started := 0#64 }
def inRun (lib op : Nat) (r : OpRun) : State :=
  let s := inSlot (withLibrary lib) 5 (opCmd op 0 r.desc)
  setPart s 0 { partOf s 0 with holder := some 0, op := some r }

theorem witness_OperationsEnd :
    running (inRun 0 0x20 (opRun .array matmul [])) 0 = some (opRun .array matmul [], opCmd 0x20 0 matmul, imgOf 0) ∧ (arrDesc matmul.toNat).opType = 1 ∧
    (arrDesc matmul.toNat).n ≤ 64 * (geoOf (withLibrary 0).fuse.grade (imgOf 0).shape).cols ∧
    running (inRun 0 0x22 (opRun .drain drainOut [])) 0 = some (opRun .drain drainOut [], opCmd 0x22 0 drainOut, imgOf 0) ∧ (arrDesc drainOut.toNat).opType = 2 ∧
    running (inRun 0 0x20 (opRun .vector vectorOp (leBytes 8 0))) 0 = some (opRun .vector vectorOp (leBytes 8 0), opCmd 0x20 0 vectorOp, imgOf 0) ∧
    (drawVector (addStalls (inRun 0 0x20 (opRun .vector vectorOp (leBytes 8 0))) 0 st0) 0 (imgOf 0) (opRun .vector vectorOp (leBytes 8 0))).waiting = [] ∧
    (drawVector (addStalls (inRun urand 0x20 (opRun .vector vectorOp (leBytes 8 urand))) 0 st0) 0 (imgOf urand) (opRun .vector vectorOp (leBytes 8 urand))).waiting ≠ [] ∧
    (drawVector (addStalls (inRun urand 0x20 (opRun .vector vectorOp (leBytes 8 urand))) 0 st0) 0 (imgOf urand) (opRun .vector vectorOp (leBytes 8 urand))).refused = false ∧
    (running (inRun 0 0x21 (opRun .array matmul [])) 0 = some (opRun .array matmul [], opCmd 0x21 0 matmul, imgOf 0) ∧ slotPart (inRun 0 0x21 (opRun .array matmul [])) 0 = 0 ∧
      cmdFld (opCmd 0x21 0 matmul).bits 32 35 ≤ (slotOf (inRun 0 0x21 (opRun .array matmul [])) 0).graph.node + 1) := by decide +kernel

theorem witness_OperationsEnd_context : ∀ r ∈ [opRun .array matmul [], opRun .drain drainOut [], opRun .vector vectorOp (leBytes 8 0)],
    contextWaits (inRun 0 0x20 r) 0 = false ∧ contextWaits (waitsOn (inRun 0 0x20 r)) 0 = true ∧ running (waitsOn (inRun 0 0x20 r)) 0 = some (r, opCmd 0x20 0 r.desc, imgOf 0) := by decide +kernel

theorem witness_SumsAreExact :
    [3, 1, 2, 0].Perm (List.range (bandCount { arrDesc matmul.toNat with k := 128 } 32)) ∧
    ((outElem (arrDesc matmul.toNat) (0, false) { long0 with value := 5 }).code = 0x10A00000 ∧ (outElem (arrDesc matmul.toNat) (0, false) { long0 with poison := true }).dropped = true) := by decide +kernel

/-! ### Witnesses: entropy -/

/-- The imaged module in service, its context clients seeded, with source 0 in state x. -/
def sourced (x : EntSource) : State :=
  { imaged with image := { imaged.image with force := some { image0 with parts := [(0, { part0Img with clients := { part0Img.clients with ctxMode := 1 } })] } }
                ent := { imaged.ent with thaw := false, sources := [(0, x)] } }

def started : EntSource := { source0 with started := true }

/-- A window whose ones and zeros balance, one that fails the proportion test, and its hashed block. -/
def rawGood : BitVec 1024 := BitVec.ofNat 1024 (0xACE1 * ((2 ^ 1024 - 1) / (2 ^ 16 - 1)))
def rawBad : BitVec 1024 := BitVec.ofNat 1024 (0x7FFF * ((2 ^ 1024 - 1) / (2 ^ 16 - 1)))
def block48 : List Byte := (List.range 48).map (fun i => BitVec.ofNat 8 (i + 1))

/-- Source 0 has a conditioned block; clients d wait for one. -/
def conditioned (d : List Nat) : State := let s := sourced started
  { s with ent := { s.ent with hashing := [(0, block48)], draws := d } }

theorem witness_SourcesAreTested :
    (sourcesIn (sourced started))[0]? = some 0 ∧ (sourceOf (sourced started) 0).started = true ∧ (sourceOf (sourced source0) 0).started = false ∧
    ((runFails (windowBits rawBad) false 0).1 = false ∧ aptFails (windowBits rawBad) = true) ∧
    ((runFails (windowBits rawGood) false 0).1 = false ∧ aptFails (windowBits rawGood) = false ∧ (activeSources (sourced started)).contains 0 = true ∧ (sourceOf (sourced started) 0).activeAt.toNat ≤ (5#64).toNat) ∧
    (mfind (conditioned []).ent.hashing 0 = some block48 ∧ (conditioned []).ent.thaw = false ∧ (conditioned []).ent.draws = [] ∧ (conditioned [7]).ent.draws = [7] ∧ 7 ≠ keyDraw ∧ block48.length = 48 ∧
      (conditioned [7]).ent.pool.length + 48 ≤ 512) ∧
    mfind (sourced started).ent.hashing 0 = none ∧ (31744 ≤ 32768 ∧ 32768 ≤ 33792) ∧
    (0 < (sourceOf (sourced started) 0).trim ∧ (sourceOf (sourced started) 0).trim < 255) := by decide +kernel

def entCmd (action : Nat) : Fetched := cmd 0x75 [(16, action), (24, 0x1000)]
def entRuns (action : Nat) (bs : List Byte) : State := withParam (runs (sourced started) (entCmd action)) (clean bs)

/-- Parameter blocks: clients 0 and 1 from the seed at 0x2000; sources 40 and up only; 1,024 bits of source 10 to 0x3000. -/
def seedBlock (n : Nat) : List Byte := leBytes 64 (n * 2 ^ 32 + 9 * 2 ^ 64 + 0x2000 * 2 ^ 128)
def retestBlock : List Byte := leBytes 64 1
def captureBlock : List Byte := leBytes 64 (10 + 1024 * 2 ^ 32 + 0x3000 * 2 ^ 64)

theorem entRuns_running (a : Nat) (bs : List Byte) (h : opcodeOf (entCmd a).bits = 0x75) : Running (entRuns a bs) 0 0 0x75 (entCmd a) :=
  { cmd := rfl, queue := rfl, state := rfl, flags := rfl, opcode := h }

theorem witness_EntropyCommandsAct_seed :
    (opcodeOf (entCmd 1).bits = 0x75 ∧ cmdFld (entCmd 1).bits 16 16 = 1) ∧
    blockRead (entRuns 1 (seedBlock 2)) 0 (cmdFld (entCmd 1).bits 24 31) 64 = .bytes (seedBlock 2) (entRuns 1 (seedBlock 2)) ∧ seedOk (entRuns 1 (seedBlock 2)) (seedBlock 2) = true ∧
    (seedClientsOf (seedBlock 2)).any (entRuns 1 (seedBlock 2)).ent.draws.contains = false ∧ anyPoison (localRead (entRuns 1 (seedBlock 2)) ownDma (blkFld (seedBlock 2) 16 23) 32).bytes = false ∧
    blockRead (entRuns 1 (seedBlock 0)) 0 (cmdFld (entCmd 1).bits 24 31) 64 = .bytes (seedBlock 0) (entRuns 1 (seedBlock 0)) ∧ seedOk (entRuns 1 (seedBlock 0)) (seedBlock 0) = false ∧
    noDispatcher (entRuns 1 (seedBlock 0)) = false ∧ (entRuns 1 (seedBlock 0)).msg.queue = [] ∧ cqFull (entRuns 1 (seedBlock 0)) (entCmd 1).cq = false := by decide +kernel

/-- Source 0 has left service. -/
def without0 : State := let s := entRuns 2 retestBlock
  { s with fuse := { s.fuse with entGood := 0xFFFFFFFE#32 } }

/-- A capture of source 10 that runs. -/
def capturing : State := let s := runs (sourced started) (entCmd 3)
  { s with ent := { s.ent with capture := some { slot := 0, source := 10, bits := 1024, dest := 0x3000, failed := false } } }

theorem witness_EntropyCommandsAct_sources :
    (cmdFld (entCmd 2).bits 16 16 = 2 ∧ blockRead without0 0 (cmdFld (entCmd 2).bits 24 31) 64 = .bytes retestBlock without0 ∧ blkZero retestBlock 4 63 = true ∧
      (∀ p ∈ bitList 32 (blkFld retestBlock 0 3), p ∉ sourcesIn without0)) ∧
    (cmdFld (entCmd 3).bits 16 16 = 3 ∧ (entRuns 3 captureBlock).ent.capture = none ∧ blockRead (entRuns 3 captureBlock) 0 (cmdFld (entCmd 3).bits 24 31) 64 = .bytes captureBlock (entRuns 3 captureBlock) ∧
      (sourcesIn (entRuns 3 captureBlock))[blkFld captureBlock 0 3]? = some 10 ∧ blkZero captureBlock 16 63 = true ∧ 512 ≤ blkFld captureBlock 4 7 ∧ blkFld captureBlock 4 7 % 512 = 0 ∧
      blkFld captureBlock 4 7 ≤ 2 ^ 24 ∧ blkFld captureBlock 8 15 % 64 = 0 ∧ rangeAllowed (entRuns 3 captureBlock) .store (blkFld captureBlock 8 15) (blkFld captureBlock 4 7 / 8) = true ∧
      (activeSources (entRuns 3 captureBlock)).contains 10 = false) ∧
    ((List.replicate 128 5#8).length = 1024 / 8 ∧ noDispatcher capturing = false ∧ capturing.msg.queue = [] ∧ cqFull capturing (entCmd 3).cq = false ∧ capturing.integ.ecc = [] ∧ capturing.integ.badCheckers = [] ∧
      regActive capturing 0xC00010 0 < 2 ^ 62 ∧ (∀ i, i < 128 → region capturing.fuse.grade (0x3000 + i) = .hbm)) := by decide +kernel

theorem capturing_running : Running capturing 0 0 0x75 (entCmd 3) := { cmd := rfl, queue := rfl, state := rfl, flags := rfl, opcode := by decide +kernel }

/-- No source in service, and a vector operation or a run that waits for entropy. -/
def sourceless (s : State) : State := { s with fuse := { s.fuse with entGood := 0#32 } }
def vectorWaits : State := let s := sourceless (inRun urand 0x20 (opRun .vector vectorOp (leBytes 8 urand)))
  setVec s 0 { vecOf s 0 with entropyWait := true, waiting := [0] }
def runWaits : State := sourceless (annealed { runningAnl 1 none with run := some { run1 1 none with held := true } })

theorem witness_EntropyCommandsAct_waits :
    (0x1804#64 &&& ~~~0x3F0F#64 = 0#64 ∧ 1 ≤ fld (0x1804#64).toNat 3 0 ∧ fld (0x1804#64).toNat 3 0 ≤ 8 ∧ 10 ≤ fld (0x1804#64).toNat 13 8 ∧ fld (0x1804#64).toNat 13 8 ≤ 48 ∧
      (sourced started).cfg = []) ∧
    entCount (sourced started) ≠ 0 ∧ entCount vectorWaits = 0 ∧ (running vectorWaits 0).isSome = true ∧ (vecOf vectorWaits 0).entropyWait = true ∧
    entCount runWaits = 0 ∧ (runCtx runWaits 0).isSome = true ∧ (run1 1 none).frost = true := by decide +kernel

/-! ### Witnesses: March, logs, debug -/

/-- Module 1 with link 0 to module 0 up and partition 0's clients seeded. -/
def seededImg : PartImage := { part0Img with clients := { part0Img.clients with ctxMode := 1, annMode := 1 } }
def marching : State := let s := linked upLink
  { s with image := { s.image with force := some { image1 with parts := [(0, seededImg)] } } }

def marchCmd (action : Nat) : Fetched := cmd 0x73 [(16, action), (24, 0x1000)]
def marchBlock (peer : Nat) : List Byte := leBytes 64 (peer + 1 * 2 ^ 64 + 77 * 2 ^ 128)

/-- March commands of slot 0 with a block, with waits w and partition 0's March state p. -/
def marched (action : Nat) (bs : List Byte) (w : List MarchWait) (ps : AMap MarchPart) : State :=
  let s := withParam (runs marching (marchCmd action)) (clean bs)
  { s with dbg := { s.dbg with march := { s.dbg.march with waits := w, parts := ps, state := if ps.isEmpty then 0 else 1 } } }

def arming : MarchWait := { slot := 0, disarm := false, mask := 1#64, sent := true }

theorem marched_running (a : Nat) (bs : List Byte) (w : List MarchWait) (ps : AMap MarchPart) (h : opcodeOf (marchCmd a).bits = 0x73) : Running (marched a bs w ps) 0 0 0x73 (marchCmd a) :=
  { cmd := rfl, queue := rfl, state := rfl, flags := rfl, opcode := h }

theorem witness_MarchComparesWindows_commands :
    (opcodeOf (marchCmd 1).bits = 0x73 ∧ cmdFld (marchCmd 1).bits 16 16 = 1 ∧ cmdFld (marchCmd 2).bits 16 16 = 2) ∧
    armWait (marched 1 (marchBlock 0) [] []) 0 = none ∧
    (∀ m ∈ [0, 1], blockRead (marched 1 (marchBlock m) [] []) 0 (cmdFld (marchCmd 1).bits 24 31) 64 = .bytes (marchBlock m) (marched 1 (marchBlock m) [] [])) ∧
    (armBad (marched 1 (marchBlock 0) [] []) (marchBlock 0) = false ∧ upRoute (marched 1 (marchBlock 0) [] []) (blkFld (marchBlock 0) 0 0) ≠ [] ∧
      maskIdle (marched 1 (marchBlock 0) [] []) (blkFld (marchBlock 0) 8 15) = true) ∧
    armBad (marched 1 (marchBlock 1) [] []) (marchBlock 1) = true ∧
    (noDispatcher (marched 1 (marchBlock 0) [] []) = false ∧ (marched 1 (marchBlock 0) [] []).msg.queue = [] ∧ cqFull (marched 1 (marchBlock 0) [] []) (marchCmd 1).cq = false) ∧
    (armWait (marched 1 (marchBlock 0) [arming] []) 0 = some arming ∧ (77#64).toNat = blkFld (armBlock (marched 1 (marchBlock 0) [arming] []) 0) 16 23 ∧
      (78#64).toNat ≠ blkFld (armBlock (marched 1 (marchBlock 0) [arming] []) 0) 16 23 ∧ armParts (marched 1 (marchBlock 0) [arming] []) arming.mask.toNat = [(0, 0#128, 1)]) ∧
    (blockRead (marched 2 (marchBlock 0) [] [(0, marchPart0)]) 0 (cmdFld (marchCmd 2).bits 24 31) 64 = .bytes (marchBlock 0) (marched 2 (marchBlock 0) [] [(0, marchPart0)]) ∧
      (blkFld (marchBlock 0) 8 15).testBit 0 = true ∧ mfind (marchOf (marched 2 (marchBlock 0) [] [(0, marchPart0)])).parts 0 = some marchPart0) := by decide +kernel

/-- March states of partition 0: window 3 awaited; one record of each sort. -/
def held3 : MarchPart := { marchPart0 with window := 3, own := [(0, [5#64])] }
def record0 : MarchPart := { marchPart0 with window := 1, own := [(0, [5#64])] }

theorem witness_MarchComparesWindows :
    (marchPart0.peer = [] ∧ marchPart0.own.any (fun o => o.1 + 3 ≤ marchPart0.window) = false ∧ marchPart0.own = []) ∧ held3.own.any (fun o => o.1 + 3 ≤ held3.window) = true ∧
    (∀ p ∈ [marchPart0, held3, record0], mfind (marchOf (marched 1 [] [] [(0, p)])).parts 0 = some p) ∧ (marchOf (marched 1 [] [] [(0, held3)])).waits = [] ∧
    (held3.peer = [] ∧ held3.own = [(0, [5#64])] ∧ 0 + 3 ≤ held3.window ∧ record0.window < 0 + 3 ∧ (partOf (marched 1 [] [] [(0, held3)]) 0).holder = none) ∧
    (record0.peer = [] ∧ record0.own = [(0, [5#64])] ∧ record0.final = none ∧ [5#64] ≠ [6#64] ∧ (partOf (marched 1 [] [] [(0, record0)]) 0).holder = none) := by decide +kernel

def replayCmd (action : Nat) : Fetched := cmd 0x74 [(16, action), (24, 0x1000)]
def replayBlock : List Byte := leBytes 64 1
def copyBlock : List Byte := leBytes 64 (0x4000 + 256 * 2 ^ 64)

/-- REPLAY commands of slot 0 with a block, with the log in state n. -/
def replaying (action : Nat) (bs : List Byte) (n : Nat) (log : List Byte) : State :=
  let s := withParam (runs imaged (replayCmd action)) (clean bs)
  { s with dbg := { s.dbg with replay := { s.dbg.replay with state := n, mask := if n = 0 then 0#64 else 1#64, log := log } } }

theorem replaying_running (a : Nat) (bs : List Byte) (n : Nat) (log : List Byte) (h : opcodeOf (replayCmd a).bits = 0x74) : Running (replaying a bs n log) 0 0 0x74 (replayCmd a) :=
  { cmd := rfl, queue := rfl, state := rfl, flags := rfl, opcode := h }

theorem witness_LogsRecordAndReplay_commands :
    (∀ a ∈ [1, 2, 3, 4, 5], opcodeOf (replayCmd a).bits = 0x74 ∧ cmdFld (replayCmd a).bits 16 16 = a) ∧
    (∀ a ∈ [1, 5], ∀ n ∈ [0, 1], blockRead (replaying a replayBlock n []) 0 (cmdFld (replayCmd a).bits 24 31) 64 = .bytes replayBlock (replaying a replayBlock n [])) ∧
    (recordBad (replaying 1 replayBlock 0 []) replayBlock = false ∧ maskIdle (replaying 1 replayBlock 0 []) (blkFld replayBlock 0 7) = true ∧ recordBad (replaying 1 replayBlock 1 []) replayBlock = true ∧
      playBad (replaying 5 replayBlock 0 []) replayBlock = false) ∧
    (noDispatcher (replaying 2 [] 1 []) = false ∧ (replaying 2 [] 1 []).msg.queue = [] ∧ cqFull (replaying 2 [] 1 []) (replayCmd 2).cq = false) ∧
    (∀ a ∈ [3, 4], blockRead (replaying a copyBlock 0 []) 0 (cmdFld (replayCmd a).bits 24 31) 64 = .bytes copyBlock (replaying a copyBlock 0 []) ∧ (copyOf (replaying a copyBlock 0 []) 0).total = 0) ∧
    (1 ≤ blkFld copyBlock 8 15 ∧ blkFld copyBlock 8 15 ≤ logSize ∧ inHbm (replaying 3 copyBlock 0 []) (blkFld copyBlock 0 7) (blkFld copyBlock 8 15) = true) := by decide +kernel

/-- Logs of one entry of partition 0 at beat b: a doorbell of queue 0 with index 9, or an admission of session 4095. -/
def logged (typ b : Nat) (payload : List Byte) : List Byte :=
  leBytes 1 typ ++ leBytes 1 0 ++ leBytes 2 payload.length ++ leBytes 4 0 ++ leBytes 6 b ++ leBytes 18 0 ++ padTo 32 payload
def bellLog (b : Nat) : List Byte := logged 2 b (leBytes 4 9)
def admitLog : List Byte := logged 4 0 (leBytes 2 1 ++ leBytes 2 4095)

theorem witness_LogsRecordAndReplay :
    replays (replaying 2 [] 0 []) 0 = false ∧ (replays (replaying 2 [] 2 []) 0 = true ∧ nextEntry (replaying 2 [] 2 []) 0 = none) ∧
    (∀ b ∈ [0, 7], replays (replaying 2 [] 2 (bellLog b)) 0 = true ∧ (nextEntry (replaying 2 [] 2 (bellLog b)) 0).map (fun e => (e.typ, e.source, e.beat, e.payload)) = some (2, 0, b, leBytes 4 9)) ∧
    (nextEntry (replaying 2 [] 2 admitLog) 0).map (fun e => (e.typ, e.beat, blkFld e.payload 2 3)) = some (4, 0, 4095) ∧
    (replayOf (replaying 2 [] 2 admitLog)).bad = [] ∧ mget 0 (replayOf (replaying 2 [] 2 (bellLog 7))).beats 0 = 0 := by decide +kernel

/-- A peek of address a that waits for its reads; partition 3 halted with cause n. -/
def peeking (a : Nat) : State := { imaged with dbg := { imaged.dbg with peekBusy := true, peekAddr := BitVec.ofNat 64 a } }
def halted3 (n : Nat) : State := { imaged with dbg := { imaged.dbg with halted := if n = 0 then [] else [(3, n)] } }

/-- That, where partition 0 has two rows, and core 0 stands in the upper one: fresh, or with its pass-through registers cleared since an operation. -/
def peekingUpper (a : Nat) (x : ArrSt) : State :=
  let s := peeking a
  { s with image := { s.image with force := some { image0 with parts := [(0, { part0Img with shape := { part0Img.shape with hiRow := 1 } })] } }, parts := [(0, { part0 with arr := x })] }

theorem witness_DebugObservesAndSteps_above :
    ((arr0 : ArrSt).passed = none ∨ 0 ∈ (arr0 : ArrSt).cleared) ∧ 0 ∈ ({ arr0 with passed := some 1, cleared := [0] } : ArrSt).cleared ∧
    (∀ x ∈ [arr0, { arr0 with passed := some 1, cleared := [0] }], 0 < logicalCores (peekingUpper (2 ^ 60 + 63) x) ∧ isEdgeCore (peekingUpper (2 ^ 60 + 63) x) 0 = false ∧
      partOfCore (peekingUpper (2 ^ 60 + 63) x) 0 = some 0 ∧ (peekingUpper (2 ^ 60 + 63) x).dbg.peekAddr.toNat = 2 ^ 60 + 65536 * 0 + 63) := by decide +kernel

theorem witness_DebugObservesAndSteps :
    imaged.dbg.peekBusy = false ∧ (peeking 0x1000).dbg.peekBusy = true ∧
    ((peeking 0x1000).dbg.peekAddr.toNat = 0x1000 ∧ (∀ i, i < 64 → region (peeking 0x1000).fuse.grade (0x1000 + i) = .hbm) ∧ isLocal (peeking 0x1000).fuse.grade 0x1000 = true ∧
      (peeking 0x1000).integ.ecc = [] ∧ (peeking 0x1000).integ.badCheckers = []) ∧
    3 ≤ fld (peeking (3 * 2 ^ 60)).dbg.peekAddr.toNat 63 60 ∧
    ((peeking (2 ^ 60 + 65536 * 0 + 5)).dbg.peekAddr.toNat = 2 ^ 60 + 65536 * 0 + 5 ∧ 0 < logicalCores imaged ∧ isEdgeCore imaged 0 = true) ∧
    (haltCause (halted3 0) 3 = 0 ∧ haltCause (halted3 1) 3 ≠ 0 ∧ haltCause (halted3 1) 3 ≠ 2 ∧ haltCause (halted3 2) 3 = 2) := by decide +kernel

/-! ### Witnesses: frames -/

/-- A PEEK and a HELLO_RESEND in an ACTIVE module: the frames of what only some commands change, and of the small commands, one of each kind. -/
theorem witness_StateChangesOnlyByItsCommands :
    on.power.state ≠ 0 ∧
    (let c := Instr.peek 5#64
     mayChangeRate c = false ∧ mayChangeImage c = false ∧ mayChangeFuses c = false ∧ mayChangeSessions c = false ∧ mayChangeLongs c = false ∧ mayChangeVector c = false ∧ mayChangeTime c = false ∧
       storesNothing c = true) := by decide +kernel

theorem witness_FramesOfSmallCommands :
    on.power.state ≠ 0 ∧ netAlone (.helloResend 0) = true ∧ clockAlone (.devTimeSnap 0#64) = true ∧ linkAlone (.laneSwitch 0 0) = true ∧ frontAlone .slotMap = true ∧
    sourceAlone (.repetitionCountFailure 0) = true := by decide +kernel

/-! ### Witnesses: places and lanes -/

/-- Main-good rises in a module without standby power. -/
theorem witness_ColdStartsAndWakes_standby :
    let s := { State.reset with power := { State.reset.power with standby := false } }
    s.power.state = 0 ∧ s.power.standby = false := ⟨rfl, rfl⟩

theorem witness_SessionEntryReads :
    (4095 : Nat) < 4096 ∧ on.power.state ≠ 0 ∧ on.ses.latch = none ∧ { on with ses := { on.ses with latch := some (4095, sessWords on 4095) } }.ses.latch = some (4095, sessWords on 4095) := by decide +kernel

theorem witness_SessionCachePlaces :
    partDies (served hotSess) 0 = [0] ∧ hotArea (served hotSess) 0 = { slots := 2, slotBytes := 65536, base := 0 } ∧ fitsSlot (served hotSess) 0 100 64 = true ∧ ([0] : List Nat).Nodup ∧
    (0 + 2 * 65536 ≤ 2 ^ 32 ∧ 6399 < 100 * 64 ∧ 1 < 2) := by decide +kernel

theorem witness_VectorLanesHoldTheirElements :
    vreg0.length = 1024 ∧ (∀ x ∈ vreg0, x.1 < 16) ∧ (clean (List.replicate 512 0#8)).length = 8 * 64 ∧ (lanesOf 3 vreg0).length = 2 ^ 7 * 1 ∧
    (let u := { uopOf (0x01 * 2 ^ 56 + 3 * 2 ^ 52) with ctl := 1 }
     u.fmt ∈ [3, 4, 5] ∧ u.op = 1 ∧ u.sat = true) := by decide +kernel

/-- A vector register of a 32-bit format holds 128 elements, of a 16-bit format 256, of an 8-bit format 512, packed 1,024 (R188). -/
theorem test_lanes : [0, 1, 2, 3, 4, 5, 6, 7, 8, 9].map (fun f => (lanesOf f vreg0).length) = [128, 256, 256, 128, 256, 512, 512, 512, 512, 1024] := by decide +kernel

/-- R205's example: the weight of 24,576 at 0x5C55_1D95 is 0x5A_827A. -/
theorem test_boltz : boltzT 24576 0x5C551D95 = 0x5A827A := by decide +kernel

/-- R457's example: data bits 0 and 5 of a scratchpad word have the columns 0x07 and 0x15, and two flipped bits are not corrected. -/
theorem test_hsiao : hsiaoColumn 8 64 0 = 0x07 ∧ hsiaoColumn 8 64 5 = 0x15 ∧ hsiaoDecode 8 64 0xFF 0x15 = .corrected 5 ∧ hsiaoDecode 8 64 0xFF 0x0C = .uncorrectable ∧ hsiaoDecode 8 64 0xFF 0xFF = .poison := by
  decide +kernel

/-- R6's example: core 5.3.7 is 480 on AF and 437 on AS. -/
theorem test_flatIndex : flatIndex .af 5 3 7 = 480 ∧ flatIndex .as 5 3 7 = 437 := by decide +kernel

/-! ### No word spells a command: the table gives its rows no bits -/

theorem test_decode_none : decodeTableWord 32 0xFFFFFFFF = none ∧ on.withFetchWord 32 0xFFFFFFFF = on := ⟨rfl, rfl⟩

end Sys2Proof.Tests
end

section
/-!
PROOFS. Sessions and decode (chapter 12): what a read of the session table returns, and where the bytes of a session's cache lie.
-/
namespace Sys2Proof.Machine

/-! ### Reads of the session table (R307, R308) -/

/-- The state in which entry id is latched whole (R308). -/
def latchEntry (s : State) (id : Nat) : State := { s with ses := { s.ses with latch := some (id, sessWords s id) } }

/-- A BAR0 offset of the session table: 4,096 entries of 64 bytes. -/
def InSessionTable (off : Nat) : Prop := 0x440000 ≤ off ∧ off < 0x480000

theorem entryWord_inSessionTable {id w : Nat} (hid : id < 4096) (hw : w ≤ 7) : InSessionTable (0x440000 + 64 * id + 8 * w) := by
  constructor <;> omega

section
variable {off : Nat} (h : InSessionTable off)
include h

/-- The session table holds no configuration status register: the eight fixed ones, and every block that has one, lie elsewhere. -/
theorem statusInst_sessionTable (g : Grade) : statusInst g off = none := by
  obtain ⟨hlo, hhi⟩ := h
  unfold statusInst
  split
  case h_9 =>
    rw [if_neg (by omega)]
    split
    · split
      case h_5 => rfl
      all_goals omega
    · rw [if_neg (by omega), if_neg (by omega), if_neg (by omega)]
  all_goals omega

/-- No register of the session table has a writable field: `partDesc` gives blocks 0x44 to 0x47 none. -/
theorem regDesc_sessionTable (s : State) : regDesc s off = none := by
  obtain ⟨hlo, hhi⟩ := h
  have hpart : partDesc off = none := by
    unfold partDesc
    dsimp only
    split
    · rfl
    · split
      case h_5 => rfl
      all_goals omega
  rw [regDesc, hpart, if_neg (show ¬ off < 0x400000 by omega), if_pos (show off < 0x500000 by omega)]
  exact ite_self none

theorem fixedPart_sessionTable (s : State) : fixedPart s off = sesRead s off := by
  have hst := statusInst_sessionTable h s.fuse.grade
  obtain ⟨hlo, hhi⟩ := h
  rw [fixedPart, hst]
  dsimp only
  rw [if_neg (by omega), if_neg (by omega), if_neg (by omega), if_neg (by omega), if_neg (by omega), if_neg (by omega),
    if_pos ⟨hlo, hhi⟩]

/-- A register of the session table holds what `sessRead` says, and no writable field beside it. -/
theorem regValue_sessionTable (s : State) : regValue s off = sesRead s off := by
  have hbase : off < shadowBase := by have := h.2; unfold shadowBase; omega
  rw [regValue, if_pos hbase, fixedPart_sessionTable h, cellPart, regDesc_sessionTable h]
  rfl

/-- A read at the start of an entry returns its live word 0 and latches the entry. -/
theorem regRead_entryStart (s : State) (h0 : off % 64 = 0) : regRead s off =
    ((nth 0#64 (sessWords s ((off - 0x440000) / 64)) 0).toNat, latchEntry s ((off - 0x440000) / 64)) :=
  if_pos ⟨h.1, h.2, h0⟩

/-- A read elsewhere in an entry changes nothing. -/
theorem regRead_withinEntry (s : State) (h0 : off % 64 ≠ 0) : regRead s off = (sesRead s off, s) := by
  have hst := statusInst_sessionTable h s.fuse.grade
  have hv := regValue_sessionTable h s
  obtain ⟨hlo, hhi⟩ := h
  rw [regRead, if_neg (by omega), if_neg (by omega), hst, hv]

end

theorem sessRead_latched (s : State) (k w : Nat) (ws : List (BitVec 64)) (h : s.ses.latch = some (k, ws)) :
    sessRead s k w = nth 0#64 ws w := by
  rw [sessRead, h]; exact if_pos rfl

theorem sessRead_live (s : State) (k w : Nat) (h : s.ses.latch = none) : sessRead s k w = nth 0#64 (sessWords s k) w := by
  rw [sessRead, h]

/-- Word 0 of an entry, by its number. -/
theorem regRead_entryWord0 (s : State) {id : Nat} (hid : id < 4096) :
    regRead s (0x440000 + 64 * id) = ((nth 0#64 (sessWords s id) 0).toNat, latchEntry s id) := by
  have hk : (0x440000 + 64 * id - 0x440000) / 64 = id := by omega
  have hin : InSessionTable (0x440000 + 64 * id) := entryWord_inSessionTable (w := 0) hid (Nat.zero_le 7)
  rw [regRead_entryStart hin s (by omega), hk]

/-- Words 1 to 7 of an entry, by their numbers. -/
theorem regRead_entryWord (s : State) {id w : Nat} (hid : id < 4096) (h1 : 1 ≤ w) (h7 : w ≤ 7) :
    regRead s (0x440000 + 64 * id + 8 * w) = ((sessRead s id w).toNat, s) := by
  have hk : (0x440000 + 64 * id + 8 * w - 0x440000) / 64 = id := by omega
  have hw : (0x440000 + 64 * id + 8 * w) % 64 / 8 = w := by omega
  rw [regRead_withinEntry (entryWord_inSessionTable hid h7) s (by omega), sesRead, hk, hw]

theorem doSessionEntryLatch_eq (s : State) {id : Nat} (hid : id < 4096) : doSessionEntryLatch id s =
    emit (latchEntry s id) (.readData (clean (leBytes 8 (nth 0#64 (sessWords s id) 0).toNat))) := if_pos hid

theorem exec_sessionEntryLatch_eq (s : State) (id : Nat) :
    exec (.sessionEntryLatch id) s = .next (plainStep (doSessionEntryLatch id) s) := rfl

/-- The command of a word 0 read latches the entry and gives word 0 out; neither belongs to the supplies. -/
theorem exec_sessionEntryLatch (s : State) {id : Nat} (hid : id < 4096) (hp : s.power.state ≠ 0) :
    exec (.sessionEntryLatch id) s =
      .next (stepEnd (emit (latchEntry s id) (.readData (clean (leBytes 8 (nth 0#64 (sessWords s id) 0).toNat))))) := by
  rw [exec_sessionEntryLatch_eq, plainStep_on _ s hp, doSessionEntryLatch_eq s hid, keepSupply_eq] <;> rfl

/-! ### The places of a session's cache (R314, R315) -/

theorem nth_eq_getElem {α : Type} (d : α) (l : List α) (i : Nat) (h : i < l.length) : nth d l i = l[i] := by
  induction l generalizing i with
  | nil => exact absurd h (Nat.not_lt_zero i)
  | cons x l ih =>
    cases i with
    | zero => rfl
    | succ i => exact ih i (Nat.lt_of_succ_lt_succ h)

/-- Offsets of a die's 4 GiB name one byte of one die each. -/
theorem sramAddr_inj {d d' off off' : Nat} (h : off < 2 ^ 32) (h' : off' < 2 ^ 32) (he : sramAddr d off = sramAddr d' off') :
    d = d' ∧ off = off' := by
  unfold sramAddr at he
  omega

/-- The offset of byte b in each die's hot area, for a cache spread over D dies in slot k (R315). -/
def hotOffset (h : HotArea) (D k b : Nat) : Nat := h.base + k * h.slotBytes + b / 65536 / D * 65536 + b % 65536

theorem hotAddr_eq (s : State) (n k b : Nat) : hotAddr s n k b =
    sramAddr (nth 0 (partDies s n) (b / 65536 % (partDies s n).length)) (hotOffset (hotArea s n) (partDies s n).length k b) := rfl

theorem fitsSlot_iff (s : State) (n ctxMax perToken : Nat) : fitsSlot s n ctxMax perToken = true ↔
    0 < (partDies s n).length ∧
    ((ctxMax * perToken + 65535) / 65536 + (partDies s n).length - 1) / (partDies s n).length * 65536 ≤ (hotArea s n).slotBytes := by
  simp [fitsSlot, Nat.pos_iff_ne_zero]

/-- The 64 KiB row of a byte within its die lies below the rows that the whole cache takes there. -/
theorem row_lt_rows {b bytes D : Nat} (hD : 0 < D) (hb : b < bytes) :
    b / 65536 / D < ((bytes + 65535) / 65536 + D - 1) / D := by
  have hunit : b / 65536 + D ≤ (bytes + 65535) / 65536 + D - 1 := by omega
  calc b / 65536 / D < (b / 65536 + D) / D := by rw [Nat.add_div_right _ hD]; exact Nat.lt_succ_self _
    _ ≤ _ := Nat.div_le_div_right hunit

/-- A byte of a cache that fits lies in its slot's SLOT_BYTES of its die. -/
theorem hotOffset_mem_slot {h : HotArea} {D k b bytes : Nat} (hD : 0 < D) (hb : b < bytes)
    (hfit : ((bytes + 65535) / 65536 + D - 1) / D * 65536 ≤ h.slotBytes) :
    h.base + k * h.slotBytes ≤ hotOffset h D k b ∧ hotOffset h D k b < h.base + (k + 1) * h.slotBytes := by
  have hrow := row_lt_rows hD hb
  rw [hotOffset, Nat.succ_mul]
  omega

/-- Die index and offset together give the byte back. -/
theorem hotOffset_inj {h : HotArea} {D k b b' : Nat} (hdie : b / 65536 % D = b' / 65536 % D)
    (hoff : hotOffset h D k b = hotOffset h D k b') : b = b' := by
  unfold hotOffset at hoff
  have hrow : b / 65536 / D = b' / 65536 / D := by omega
  have hunit : b / 65536 = b' / 65536 := by
    rw [← Nat.div_add_mod (b / 65536) D, ← Nat.div_add_mod (b' / 65536) D, hrow, hdie]
  omega

/-- A slot below the area's count ends within the area. -/
theorem slot_end_le {h : HotArea} {k : Nat} (hk : k < h.slots) :
    h.base + (k + 1) * h.slotBytes ≤ h.base + h.slots * h.slotBytes :=
  Nat.add_le_add_left (Nat.mul_le_mul_right _ hk) _

/-- Two bytes of a fitting cache at one address are one byte. -/
theorem hotAddr_inj (s : State) {n k b b' ctxMax perToken : Nat} (hk : k < (hotArea s n).slots)
    (harea : (hotArea s n).base + (hotArea s n).slots * (hotArea s n).slotBytes ≤ 2 ^ 32)
    (hfit : fitsSlot s n ctxMax perToken = true) (hb : b < ctxMax * perToken) (hb' : b' < ctxMax * perToken)
    (hnodup : (partDies s n).Nodup) (he : hotAddr s n k b = hotAddr s n k b') : b = b' := by
  obtain ⟨hD, hrows⟩ := (fitsSlot_iff s n ctxMax perToken).1 hfit
  have hend := Nat.le_trans (slot_end_le hk) harea
  have hlt : ∀ c < ctxMax * perToken, hotOffset (hotArea s n) (partDies s n).length k c < 2 ^ 32 := fun c hc =>
    Nat.lt_of_lt_of_le (hotOffset_mem_slot hD hc hrows).2 hend
  rw [hotAddr_eq, hotAddr_eq] at he
  obtain ⟨hdie, hoff⟩ := sramAddr_inj (hlt b hb) (hlt b' hb') he
  rw [nth_eq_getElem _ _ _ (Nat.mod_lt _ hD), nth_eq_getElem _ _ _ (Nat.mod_lt _ hD)] at hdie
  exact hotOffset_inj ((List.getElem_inj hnodup).1 hdie) hoff

/-! ### The obligations -/

/-- Settles O58: the session table has no status or writable register, so a read past word 0 is `sessRead`, latch first. -/
theorem sessionEntryReads : Obligations.SessionEntryReads := by
  unfold Obligations.SessionEntryReads
  refine fun s id hid => ⟨regRead_entryWord0 s hid, exec_sessionEntryLatch s hid, fun w h1 h7 => ⟨fun ws hl => ?_, fun hl => ?_⟩⟩
  · rw [regRead_entryWord s hid h1 h7, sessRead_latched s id w ws hl]
  · rw [regRead_entryWord s hid h1 h7, sessRead_live s id w hl]

/-- Settles O59: a byte's row in its die is below the rows that fit the slot, and die index and offset determine the byte. -/
theorem sessionCachePlaces : Obligations.SessionCachePlaces := by
  unfold Obligations.SessionCachePlaces
  rintro s n dies h rfl rfl
  refine ⟨hotAddr_eq s n, fun hD ctxMax perToken => ?_, fun k ctxMax perToken b _ hfit hb => ?_,
    fun k ctxMax perToken b b' hk harea hfit hb hb' hnodup he => hotAddr_inj s hk harea hfit hb hb' hnodup he⟩
  · rw [fitsSlot_iff]
    exact and_iff_right hD
  · obtain ⟨hD, hrows⟩ := (fitsSlot_iff s n ctxMax perToken).1 hfit
    have hi := Nat.mod_lt (b / 65536) hD
    exact ⟨_, _, nth_eq_getElem 0 _ _ hi ▸ List.getElem_mem hi, hotAddr_eq s n k b, hotOffset_mem_slot hD hb hrows⟩

end Sys2Proof.Machine
end

section
/-!
PROOFS. Power, reset and boot (chapter 22): what a cold start leaves, and which events begin a boot.
-/
namespace Sys2Proof.Machine

/-! ### The start of a boot (R539, R542) -/

section
variable (s : State)

@[simp] theorem startBoot_state : (startBoot s).power.state = 1 := rfl
@[simp] theorem startBoot_bootStep : (startBoot s).power.bootStep = 1 := rfl
@[simp] theorem startBoot_standby : (startBoot s).power.standby = s.power.standby := rfl
@[simp] theorem startBoot_mainGood : (startBoot s).power.mainGood = s.power.mainGood := rfl
@[simp] theorem startBoot_coldBoot : (startBoot s).power.coldBoot = s.power.coldBoot := rfl
@[simp] theorem startBoot_time : (startBoot s).time = s.time := rfl

/-- A boot starts in the power registers alone. -/
theorem startBoot_frame : startBoot s = { s with power := (startBoot s).power } := rfl

/-- The first boot after a cold start has LAST_RESET zero. -/
theorem startBoot_lastReset_cold (h : s.power.coldBoot = true) : (startBoot s).power.lastReset = 0 := if_pos h

/-- A boot after an earlier one is a wake: LAST_RESET says so, and WAKES counts it. -/
theorem startBoot_wake (h : s.power.coldBoot = false) :
    (startBoot s).power.lastReset = 1 ∧ (startBoot s).power.wakes = satTo 16 (s.power.wakes + 1) := by
  simp [startBoot, h]

/-! ### Cold starts (R49, R538) -/

/-- PWR_CTRL holds its reset value, AUTO_WAKE set, because no register has been written since. -/
theorem coldState_autoWake : autoWake (coldState s) = true := by
  have hreg : regActive (coldState s) 0x2208 0x100 = 0x100 := rfl
  rw [autoWake, hreg]
  decide

theorem coldState_boots_below (h : s.time.boots.toNat < bootLimit) :
    (coldState s).time.boots = s.time.boots + 1#32 ∧ (coldState s).time.exhausted = false := by
  simp [coldState, Nat.not_le.2 h]

theorem coldState_boots_exhausted (h : bootLimit ≤ s.time.boots.toNat) :
    (coldState s).time.boots = s.time.boots ∧ (coldState s).time.exhausted = true := by
  simp [coldState, h]

/-- Main-good is a pin: a cold start leaves it. -/
@[simp] theorem coldState_mainGood : (coldState s).power.mainGood = s.power.mainGood := rfl

theorem doColdStart_mainGood (h : s.power.mainGood = true) : doColdStart s = startBoot (coldState s) := if_pos h

theorem doColdStart_mainAbsent (h : s.power.mainGood = false) : doColdStart s = coldState s := by
  simp only [doColdStart, coldState_mainGood, h, Bool.false_eq_true, if_false]

/-- Whether or not the boot starts at once, outside the power registers a cold start leaves `coldState`. -/
theorem doColdStart_frame : doColdStart s = { coldState s with power := (doColdStart s).power } := by
  cases h : s.power.mainGood with
  | false => rw [doColdStart_mainAbsent s h]
  | true => rw [doColdStart_mainGood s h, ← startBoot_frame]

theorem doColdStart_time : (doColdStart s).time = (coldState s).time := by rw [doColdStart_frame]

theorem doColdStart_mem : (doColdStart s).mem = [] := by rw [doColdStart_frame]; rfl

theorem doColdStart_force : (doColdStart s).image.force = none := by rw [doColdStart_frame]; rfl

theorem doColdStart_fe : (doColdStart s).fe = State.reset.fe := by rw [doColdStart_frame]; rfl

theorem doColdStart_autoWake : autoWake (doColdStart s) = true := by
  rw [doColdStart_frame]
  exact coldState_autoWake s

theorem doColdStart_standby : (doColdStart s).power.standby = true := by
  cases h : s.power.mainGood with
  | false => rw [doColdStart_mainAbsent s h]; rfl
  | true => rw [doColdStart_mainGood s h, startBoot_standby]; rfl

theorem exec_coldStart_eq : exec .coldStart s = .next (stepEnd (doColdStart s)) := rfl

/-! ### Wakes (R539, R558, R561) -/

/-- The pin alone: main-good reads good. -/
def raiseMain : State := { s with power := { s.power with mainGood := true } }

/-- Main-good wakes a module in OFF on standby power whose AUTO_WAKE is set, at the rise alone. -/
def MainWakes : Prop :=
  s.power.mainGood = false ∧ s.power.standby = true ∧ s.power.state = 0 ∧ autoWake s = true

theorem exec_mainGood_eq : exec .mainGood s = .next (stepEnd (doMainGood s)) := rfl

theorem exec_mainGood_wakes (h : MainWakes s) : exec .mainGood s = .next (stepEnd (startBoot (raiseMain s))) := by
  have hboot : doMainGood s = startBoot (raiseMain s) := if_pos h
  rw [exec_mainGood_eq, hboot]

theorem exec_mainGood_stays (h : ¬ MainWakes s) : exec .mainGood s = .next (stepEnd (raiseMain s)) := by
  have hpin : doMainGood s = raiseMain s := if_neg h
  rw [exec_mainGood_eq, hpin]

theorem exec_i3cWake_eq : exec .i3cWake s = .next (stepEnd (doI3cWake s)) := rfl

theorem exec_i3cWake_wakes (hst : s.power.standby = true) (hm : s.power.mainGood = true) (hoff : s.power.state = 0) :
    exec .i3cWake s = .next (stepEnd (startBoot s)) := by
  have hboot : doI3cWake s = startBoot s := if_pos ⟨hst, hm, hoff⟩
  rw [exec_i3cWake_eq, hboot]

theorem exec_i3cWake_ignored (hon : s.power.state ≠ 0) : exec .i3cWake s = .next (stepEnd s) := by
  have hkept : doI3cWake s = s := if_neg fun ⟨_, _, hoff⟩ => hon hoff
  rw [exec_i3cWake_eq, hkept]

end

/-! ### The obligation -/

/-- Settles O9: a cold start leaves `coldState`, and the boot begins, there and in OFF, exactly where R539 lets it. -/
theorem coldStartsAndWakes : Obligations.ColdStartsAndWakes := by
  unfold Obligations.ColdStartsAndWakes
  refine ⟨⟨fun s _ hst => ?noStandby, fun s => ?cold⟩, fun s hoff hst hm haw => ?mainWake, fun s hoff hst hm => ?i3cWake,
    exec_i3cWake_ignored, fun s _ haw => ?noAutoWake⟩
  case noStandby =>
    refine exec_mainGood_stays s fun ⟨_, hstandby, _, _⟩ => ?_
    simp [hst] at hstandby
  case cold =>
    refine ⟨doColdStart s, exec_coldStart_eq s, ?_, doColdStart_autoWake s, doColdStart_standby s, ?below, ?exhausted,
      doColdStart_mem s, doColdStart_force s, doColdStart_fe s, fun hm => ?absent, fun hm => ?good⟩
    · rw [doColdStart_time]; rfl
    case below => rw [doColdStart_time]; exact coldState_boots_below s
    case exhausted => rw [doColdStart_time]; exact coldState_boots_exhausted s
    case absent => rw [doColdStart_mainAbsent s hm]; rfl
    case good => rw [doColdStart_mainGood s hm]; exact ⟨startBoot_state _, startBoot_bootStep _, startBoot_lastReset_cold _ rfl⟩
  case mainWake =>
    exact ⟨startBoot (raiseMain s), exec_mainGood_wakes s ⟨hm, hst, hoff, haw⟩, startBoot_state _, startBoot_bootStep _,
      startBoot_mainGood _, startBoot_coldBoot _, startBoot_time _, startBoot_wake (raiseMain s)⟩
  case i3cWake =>
    exact ⟨startBoot s, exec_i3cWake_wakes s hst hm hoff, startBoot_state s, startBoot_bootStep s,
      startBoot_time s, startBoot_wake s⟩
  case noAutoWake =>
    refine exec_mainGood_stays s fun ⟨_, _, _, hwake⟩ => ?_
    simp [haw] at hwake

end Sys2Proof.Machine
end
